-- ==== Sys2Proof/Word.lean ====
section
/-!
DEFINITION. The word types and the two sparse containers that every other file uses: bytes, a table by number
(`Tab`), and a memory as address and byte pairs in rising order (`Memory`).
-/
namespace Sys2Proof

/-- A byte. -/
abbrev Byte := BitVec 8

/-- A register or queue word of 64 bits (R8). -/
abbrev W64 := BitVec 64

/-- A table by number: at most one entry for a number; a number with no entry has the user's default. -/
abbrev Tab (α : Type) := List (Nat × α)

namespace Tab

/-- The entry of `k`, if there is one. -/
def find {α : Type} (t : Tab α) (k : Nat) : Option α :=
  match t with
  | [] => none
  | (k', a) :: r => if k' = k then some a else find r k

/-- The entry of `k`, or `d`. -/
def getD {α : Type} (t : Tab α) (k : Nat) (d : α) : α := (find t k).getD d

/-- The table with `a` as the entry of `k`. -/
def put {α : Type} (t : Tab α) (k : Nat) (a : α) : Tab α :=
  match t with
  | [] => [(k, a)]
  | (k', a') :: r => if k' = k then (k, a) :: r else (k', a') :: put r k a

/-- The table with no entry of `k`. -/
def drop {α : Type} (t : Tab α) (k : Nat) : Tab α := t.filter (fun e => e.1 ≠ k)

end Tab

/-- Memory contents: addresses strictly rising, no byte 0 listed (an unlisted address reads 0, R453). -/
abbrev Memory := List (Nat × Byte)

end Sys2Proof
end

