-- ==== Sys2Proof/Types.lean ====
section
/-!
DEFINITION. The data that commands carry and the state holds: indices, rings, descriptors, frames, the sentence,
page lists, requests, the tree, twin records. Plain data, named as the manual names them.
-/
namespace Sys2Proof

/-! ### Places in the device (R11, R23) -/

/-- A tile context: global block g, cell, context (R11, R23, R109). -/
structure CtxId where
  block : Fin 128
  cell : Fin 12
  ctx : Fin 8
  deriving DecidableEq, Repr

/-- The clock islands that can throttle (R12, R14), and those that never do. -/
inductive Island where
  | cell (block : Fin 128) (cell : Fin 12)
  | ve (block : Fin 128)
  | msu (block : Fin 128)
  | rm (region : Fin 8)
  | hub
  | hbm (stack : Fin 4)
  | fab (port : Fin 9)
  | pcie
  deriving DecidableEq, Repr

/-! ### Host descriptors (R353, R356) -/

/-- A descriptor whose fetch has completed: its ring and ring index, its 64 bytes, and the host blocks that its
fetch read (`none` where the read of a named block failed, R355). `blockA` is the image, prompt or edit block,
`blockB` the model digest or parameter block. -/
structure Fetched where
  ring : Fin 64
  index : Nat
  desc : BitVec 512
  blockA : Option (List Byte)
  blockB : Option (List Byte)
  deriving DecidableEq, Repr

/-- What a descriptor read returned (R353, R355). -/
inductive FetchRead where
  | failed
  | got (desc : BitVec 512) (blockA blockB : Option (List Byte))
  deriving DecidableEq, Repr

/-- The doorbell page as read (R350): the counts that are not 0, LOG_HOST, and the step-log bytes that a replay
reads up to LOG_HOST (R371). -/
structure Doorbell where
  sqProd : Tab (BitVec 32)
  cqCons : Tab (BitVec 32)
  tqCons : Tab (BitVec 32)
  logHost : W64
  logBytes : List Byte
  deriving DecidableEq, Repr

/-- One write of firmware into a plan-map area (R364). -/
structure PlanWrite where
  addr : Nat
  bytes : List Byte
  deriving DecidableEq, Repr

/-- A counter word that a steal's read returned (R125, R128): block, NEXT, END, EPOCH. -/
structure SeenWord where
  block : Fin 128
  next : Nat
  stop : Nat
  epoch : Nat
  deriving DecidableEq, Repr

/-! ### Frames and particles (R286 to R288, R32) -/

/-- A Darven frame: what the MAC reports of it, the header fields of R287 (the frame type is the command's own),
and the payload. `rsvZero` says that every reserved bit of the header is 0. -/
structure Frame where
  fcsOk : Bool
  etype : Nat
  bytesOnWire : Nat
  version : Nat
  rsvZero : Bool
  vc : Nat
  len : Nat
  src : Nat
  dst : Nat
  gen : Nat
  group : Nat
  frag : Nat
  nfrag : Nat
  rank : Nat
  entry : Nat
  flags : BitVec 7
  step : Nat
  piece : Nat
  index : Nat
  phase : Nat
  crc : Nat
  agree : W64
  payload : List Byte
  deriving DecidableEq, Repr

/-- A PARTICLE frame as received (R286, R298): the port and the frame, with the particle as its payload. -/
structure ParticleIn where
  port : Fin 8
  frame : Frame
  deriving DecidableEq, Repr

/-! ### Number formats (R57, R64) -/

/-- An element format code that is not reserved (R58). -/
inductive FCode where
  | fp32 | bf16 | fp16 | e4m3 | e5m2 | e2m1 | int8 | uint8 | int4 | uint4
  deriving DecidableEq, Repr

/-- A valid format byte (R57, R58). -/
structure Fmt where
  code : FCode
  scaled : Bool
  deriving DecidableEq, Repr

/-- The ARITH field (R64). -/
structure Arith where
  sat : Bool
  ftz : Bool
  deriving DecidableEq, Repr

/-! ### The sentence (R111 to R174, R265, R301, R363 to R365) -/

/-- An operand descriptor (R111). For a statistics descriptor (R171), `base` is STATS and `scaleBase` is KLEN. -/
structure Operand where
  base : Nat
  fmt : Fmt
  paged : Bool
  scaleBase : Nat
  deriving DecidableEq, Repr

inductive LoopRole where
  | m | n | k | outer
  deriving DecidableEq, Repr

/-- Where a loop takes its bound from (R116). -/
inductive BoundSrc where
  | const (v : Nat)
  | reg (n : Fin 64)
  | mem (addr : Nat)
  deriving DecidableEq, Repr

/-- A loop descriptor (R116). -/
structure Loop where
  role : LoopRole
  pos : Nat
  bound : BoundSrc
  strideA : Int
  strideB : Int
  strideC : Int
  deriving DecidableEq, Repr

/-- A modifier descriptor (R151): the raw fields, checked when the sentence is loaded (R152 to R162). -/
structure Modifier where
  kind : Nat
  param : Nat
  fmt : Nat
  src : Nat
  target : Nat
  imm0 : BitVec 32
  addr : Nat
  addr2 : Nat
  imm1 : BitVec 32
  deriving DecidableEq, Repr

/-- The kinds of operation (R140, R172): MATMUL, VECTOR, and the four MSU functions. -/
inductive OpKind where
  | matmul | vector | dot | softmax | recomp | softgrad
  deriving DecidableEq, Repr

inductive Link where
  | none | tile | band
  deriving DecidableEq, Repr

/-- An operation descriptor (R140). -/
structure OpDesc where
  kind : OpKind
  arith : Arith
  intout : Bool
  stepout : Bool
  noc : Bool
  link : Link
  afmtA : Fmt
  afmtB : Fmt
  a : Operand
  b : Operand
  c : Operand
  tm : Nat
  loops : List Loop
  pro : List Modifier
  epi : List Modifier
  deriving DecidableEq, Repr

/-- The pool class of a clause (R238, R363). -/
inductive PoolClass where
  | shared | prefill | decode
  deriving DecidableEq, Repr

/-- A clause: its header (R138), its class and its operations. -/
structure Clause where
  posA : Nat
  posB : Nat
  cls : PoolClass
  ops : List OpDesc
  deriving DecidableEq, Repr

/-- A triggered-operation entry (R301). -/
structure TrigEntry where
  op : Nat
  group : Nat
  ored : Bool
  vc : Nat
  redMax : Bool
  trig : Nat
  done : Nat
  doneEn : Bool
  thresh : Nat
  gate : Nat
  type : Fmt
  dtype : Fmt
  src : Nat
  dst : Nat
  aux : Nat
  n : Nat
  cap : Nat
  nrows : Nat
  peer : Nat
  bpm : Nat
  routes : Nat
  deriving DecidableEq, Repr

/-- A sample point (R265). -/
structure SamplePoint where
  clause : Nat
  fmt : Fmt
  pitch : Nat
  logits : Nat
  list : Nat
  v : Nat
  draftOut : Nat
  deriving DecidableEq, Repr

/-- A plan-map entry (R364). -/
structure PlanEntry where
  kind : Nat
  index : Nat
  size : Nat
  addr : Nat
  deriving DecidableEq, Repr

/-- A slot pool (R365). -/
structure PoolEntry where
  tier : Nat
  granules : Nat
  base : Nat
  deriving DecidableEq, Repr

/-- A loaded sentence: the parts of its image (R363), where the image lies, and its digest (R362). -/
structure Sentence where
  dst : Nat
  len : Nat
  clauses : List Clause
  trig : List TrigEntry
  samples : List SamplePoint
  buckets : List Nat
  plan : List PlanEntry
  pools : List PoolEntry
  dir : Nat
  dirLayers : Nat
  dirHeads : Nat
  fwArea : Nat
  fwSize : Nat
  digest : List Byte
  deriving DecidableEq, Repr

/-! ### Pages (R190 to R198, R207) -/

/-- A page-list entry (R194). -/
structure PageEntry where
  slot : Nat
  tier : Nat
  fp4 : Bool
  shared : Bool
  deriving DecidableEq, Repr

/-- Which page list: the directory, the request slot, the layer and the KV head (R197). -/
structure ListKey where
  dir : Nat
  slot : Nat
  layer : Nat
  head : Nat
  deriving DecidableEq, Repr

/-- A page list: the head of R193 and its entries; NENT is the number of entries. `dh` is the head dimension of its
pages (R190), `lastGain` the step at whose boundary it last gained a position, `gains` the same by entry (R214). -/
structure PageList where
  key : ListKey
  dh : Nat
  npos : Nat
  gen : Nat
  cap : Nat
  entriesAt : Nat
  nshared : Nat
  entries : List PageEntry
  lastGain : Nat
  gains : Tab Nat
  deriving DecidableEq, Repr

/-- An edit record (R207). -/
structure Edit where
  kind : Nat
  rsvZero : Bool
  layer : Nat
  head : Nat
  handle : Nat
  a : Nat
  entry : W64
  b : Nat
  deriving DecidableEq, Repr

/-- A completed tier copy or re-quantisation (R214): the list and entry copied, the destination entry, and the GEN
the list had when the copy began (R208); `taken` names the taken role's list in SPLIT (R424). -/
structure TierCopy where
  taken : Bool
  key : ListKey
  index : Nat
  dest : PageEntry
  gen : Nat
  deriving DecidableEq, Repr

/-! ### Requests (R225, R268) -/

inductive ReqState where
  | queued | prefill | decode | pausing | paused | draining
  deriving DecidableEq, Repr

/-- The sampler state of a request (R268), with its penalty count table. FP32 fields are their encodings. -/
structure Sampler where
  invTemp : BitVec 32
  topP : BitVec 32
  topK : Nat
  countPrompt : Bool
  coupled : Bool
  dmax : Nat
  dmin : Nat
  depth : Nat
  rep : BitVec 32
  freq : BitVec 32
  pres : BitVec 32
  rngPos : Nat
  drafted : Nat
  accepted : Nat
  stops : List (BitVec 32)
  counts : Tab Nat
  deriving DecidableEq, Repr

/-- How an export ended (R340). -/
inductive ExportEnd where
  | delivered | stopped | transport | generation | credit
  deriving DecidableEq, Repr

/-- One eligible or started page of an export (R330, R335): the boundary that made it eligible, its list and index,
the entry, the COUNT it ships with, and its sequence number once started. -/
structure ExportPage where
  since : Nat
  key : ListKey
  index : Nat
  entry : PageEntry
  count : Nat
  seq : Option Nat
  chunksLeft : Nat
  deriving DecidableEq, Repr

/-- The export of one request (R329 to R340); `closed` says that its completion is written, `settled` that it was before
action 0 of a boundary (R339). -/
structure Shipping where
  handle : Nat
  cq : Fin 64
  tag : W64
  list : Nat
  gen : Nat
  stream : W64
  skipShared : Bool
  cut : Bool
  pages : List ExportPage
  started : Nat
  delivered : Nat
  failure : Option ExportEnd
  closed : Bool
  settled : Bool
  deriving DecidableEq, Repr

/-- A request: its record (R225) and what firmware keeps for it (R359, R534); `lv` is the Lv of its variant when it was
placed (R251). -/
structure Request where
  slot : Nat
  gen : Nat
  state : ReqState
  prefillOnly : Bool
  priority : Nat
  variant : Nat
  late : Bool
  exporting : Bool
  fwPause : Bool
  resumePend : Bool
  deadline : Nat
  admitStep : Nat
  promptLen : Nat
  npos : Nat
  seed : W64
  tokensOut : Nat
  maxNew : Nat
  stateAddr : Nat
  promptAt : Nat
  tokensAt : Nat
  lastStep : Nat
  sampler : Sampler
  prompt : List (BitVec 32)
  released : List (BitVec 32)
  cq : Fin 64
  tq : Fin 64
  tag : W64
  slotList : Nat
  skipShared : Bool
  stream : W64
  outAddr : W64
  outLen : Nat
  placedEver : Bool
  goalReleased : Bool
  finished : Bool
  draftNpos : Nat
  heldResumes : List Fetched
  variantEpoch : Nat
  lv : Nat
  counted : Nat
  deriving DecidableEq, Repr

/-- A held submit (R229): the descriptor and the boundaries at which it has been tried. -/
structure HeldSubmit where
  fetched : Fetched
  waited : Nat
  deriving DecidableEq, Repr

/-- A variant of the loaded model (R248): Lv and, per (layer, head) in directory order, its pages. -/
structure Variant where
  lv : Nat
  pages : List (List PageEntry)
  epoch : Nat
  deriving DecidableEq, Repr

/-- A prefix-tree node (R254) with its slot array (R253). -/
structure TreeNode where
  key : Nat
  parent : Option Nat
  next : Option Nat
  holders : Nat
  children : Nat
  lastStep : Nat
  variant : Nat
  depth : Nat
  indexed : Bool
  slots : List PageEntry
  deriving DecidableEq, Repr

/-- A firmware edit queued for the next action 4 (R208, R214). -/
structure FwEdit where
  requant : Bool
  key : ListKey
  index : Nat
  dest : PageEntry
  gen : Nat
  flags : BitVec 7
  deriving DecidableEq, Repr

/-- A tier copy or re-quantisation in flight (R213, R214): the list and entry, the slot that it reads with its head dimension,
its destination, and the GEN of the list when it began (R208). -/
structure CopyRun where
  requant : Bool
  key : ListKey
  index : Nat
  source : PageEntry
  dh : Nat
  dest : PageEntry
  gen : Nat
  deriving DecidableEq, Repr

/-- One placement of a step (R232): a prefill chunk (with its padded cost), a draft-model chunk (R276), or a
decode of depth d. -/
inductive Placement where
  | prefill (handle first count : Nat)
  | draftPrefill (handle first count : Nat)
  | decode (handle position depth : Nat)
  deriving DecidableEq, Repr

/-- A step-log item (R54). -/
structure LogItem where
  kind : Nat
  aux : Nat
  handle : Nat
  a : Nat
  b : Nat
  deriving DecidableEq, Repr

/-- A group record (R299); an undefined group has no record. -/
structure Group where
  gen : Nat
  members : Nat
  myRank : Nat
  nodesAt : Nat
  nodes : List Nat
  ctimeout : Nat
  deriving DecidableEq, Repr

/-! ### Step results (R48, R206, R266, R278) -/

/-- A position of a list written in the step, by part (0 K, 1 V) (R204). -/
structure Written where
  key : ListKey
  pos : Nat
  part : Nat
  deriving DecidableEq, Repr

/-- One draw of the step (R266, R270). -/
structure Drawn where
  handle : Nat
  role : Nat
  j : Nat
  index : Nat
  token : Nat
  nofinite : Bool
  deriving DecidableEq, Repr

/-- What a step has collected for its boundary (R81, R180, R218, R283, R318). -/
structure StepCounts where
  flags : BitVec 7
  underflow : Nat
  nonfinite : Nat
  nonfiniteClause : Option Nat
  emptyRows : Nat
  rewrites : Nat
  nofinite : Nat
  drops : Nat
  deriving DecidableEq, Repr

/-- A SHARE edit that waits for its place behind the descriptor edits (R209, R230): the request, the list, the entry,
whether the tree gave it, and, in a record for the twin, the bytes of its slot. -/
structure Share where
  handle : Nat
  key : ListKey
  entry : PageEntry
  tree : Bool
  bytes : List Byte
  deriving DecidableEq, Repr

/-- What a role collects for the boundary in progress or the next one (R39, R54, R206, R208): log items before the
composition of the step, of the composition, and after it; the number of logged edits; released tokens as (handle,
position, token); spans as (handle, layer, head, page, CRC); goals released; requests marked late; own positions gained
as (handle, before, after); pages that became full; firmware edits queued and applied; SHARE edits that wait and the
tree's that applied; handles freed, ended by lost slots, submitted, and paused at last; pauses and resumes that firmware decided; the step's placements, acceptance limits (main, draft), written
positions, draws, CRCs of step outputs, the row numbers and then the output rows of PREFILL_ONLY work by handle, variants loaded,
and counts. -/
structure Collect where
  before : List LogItem
  composed : List LogItem
  items : List LogItem
  halts : List LogItem
  edits : Nat
  releases : List (Nat × Nat × Nat)
  spans : List (Nat × Nat × Nat × Nat × Nat)
  goals : List Nat
  marked : List Nat
  gained : List (Nat × Nat × Nat)
  full : List (ListKey × Nat)
  fwEdits : List FwEdit
  applied : List FwEdit
  shares : List Share
  shared : List Share
  freed : List Nat
  ended : List Nat
  submitted : List Nat
  paused : List Nat
  fwItems : List LogItem
  placements : List Placement
  limits : Tab (Nat × Nat)
  written : List Written
  drawn : List Drawn
  outputs : List Nat
  rowOf : List (Nat × Nat)
  rows : List (Nat × List Byte)
  loaded : List Nat
  counts : StepCounts
  deriving DecidableEq, Repr

/-- The state of one role (R424): requests, pages, variants, groups, digest chain, exports, the copies in flight (R213), the
initial digest that a SENTENCE_LOAD has formed and the next action 5 shows (R46, R48), and what it collects for its boundary. -/
structure Role where
  reqs : Tab Request
  slotGen : Tab Nat
  held : List HeldSubmit
  lists : List PageList
  variants : Tab Variant
  groups : Tab Group
  digest : List Byte
  digestStep : Option Nat
  ships : List Shipping
  copies : List CopyRun
  initial : Option (List Byte)
  col : Collect
  deriving DecidableEq, Repr

/-! ### Twin records (R417) -/

/-- HELLO (R417, R418): what the attach checks compare. `groupsWith` are the groups 1 to 63 that have the receiver as a
member, `rings` the enabled rings (submission n as n, completion 64 + n, token 128 + n), `ringsOk` the ring rules of
R415 at the sender. -/
structure Hello where
  measurement : List Byte
  modelDigest : List Byte
  sentenceDigest : List Byte
  mode : Nat
  primary : Bool
  rank : Nat
  members : Nat
  groupGen : Nat
  node : Nat
  shadowSize : Nat
  groupsWith : List Nat
  rings : List Nat
  ringsOk : Bool
  hasRequests : Bool
  deriving DecidableEq, Repr

/-- RESULT (R417): the work items of a step, its written positions with the bytes of both parts, drawn tokens,
acceptance limits, counts, CRCs of step outputs, output rows; from a mirror R(n) alone. -/
structure TwinResult where
  step : Nat
  items : List LogItem
  placements : List Placement
  written : List Written
  bytes : List (ListKey × Nat × List Byte)
  drawn : List Drawn
  limits : Tab (Nat × Nat)
  outputs : List Nat
  rows : List (Nat × List Byte)
  counts : StepCounts
  digest : List Byte
  deriving DecidableEq, Repr

/-- What a boundary released (R426): its step, its packets by queue number (token ring n is queue n, completion ring n
queue 64 + n), and the output rows written to host memory. -/
structure Released where
  step : Nat
  packets : List (Nat × List W64)
  writes : List (Nat × List Byte)
  deriving DecidableEq, Repr

/-- SYNC (R417): the sender's whole committed state, the bytes of every slot that it names by tier and address, and the
records it has kept. -/
structure SyncRec where
  step : Nat
  role : Role
  bytes : List (Nat × Nat × List Byte)
  records : List Released
  deriving DecidableEq, Repr

/-- BOUNDARY (R417): the handles whose exports had completed before action 0, the admitted descriptors, the pages that REQUANT edits name, the tree's SHARE edits with the bytes of
their slots, the variants loaded with the bytes of theirs (by tier and address), the group records, the requests that
lost slots ended and that are paused at last, firmware's pauses and resumes, the packets and output rows released (R426), and D(n). -/
structure BoundaryRec where
  step : Nat
  settled : List Nat
  descs : List Fetched
  requants : List (ListKey × Nat)
  shares : List Share
  variants : List (Nat × Variant)
  bytes : List (Nat × Nat × List Byte)
  groups : Tab Group
  ended : List Nat
  paused : List Nat
  items : List LogItem
  released : List (Nat × List W64)
  writes : List (Nat × List Byte)
  digest : List Byte
  deriving DecidableEq, Repr

/-! ### Reads of memory words and images (R445, R446, R471) -/

/-- What a read of one word found beside the stored code word: error symbols (position 0 to 34 in code order, value),
and what the stack's own ECC reported (R445, R446). -/
structure WordRead where
  symbols : List (Nat × Byte)
  stackCorrected : Bool
  stackUncorrected : Bool
  deriving DecidableEq, Repr

/-- Errors that words have taken since they were last read: the address of each and what its next read finds (R445, R446). -/
abbrev Found := List (Nat × WordRead)

/-- A part of the wipe that ends by itself (R456). -/
inductive WipePart where
  | block | hbm | cellLocal
  deriving DecidableEq, Repr

/-- Where a scrubber reads (R451). -/
inductive ScrubSite where
  | block (g : Fin 128)
  | hub
  | hbm (stack : Fin 4)
  deriving DecidableEq, Repr

/-- The bytes that the boot ROM read for a load (R471): manifest and signature at step 2, segments at step 7;
`none` where the read failed. -/
structure LoadRead where
  manifest : Option (List Byte)
  segments : Option (List (List Byte))
  deriving DecidableEq, Repr

/-- Outcome of the self-tests of one reset (R489, R490): failing cells as (block, cell), failing units as
(kind, place) in the order found. -/
structure SelfTest where
  cells : List (Nat × Nat)
  units : List (Nat × Nat)
  deriving DecidableEq, Repr

/-- What the pool finds when it reads a queue (R391): the words, counted from the head, that fail their parity, how many
next pointers had one bad copy, and the slab, counted from the head, of which both copies failed. -/
structure PoolRead where
  words : List Nat
  pointers : Nat
  lost : Option Nat
  deriving DecidableEq, Repr

/-- Nothing found bad. -/
def PoolRead.clean : PoolRead := { words := [], pointers := 0, lost := none }

/-- What a register write can need from outside: what the boot ROM reads for a LOAD (R471), what the self-tests find after a
RESET (R489), and what the pool finds for a POP (R391). -/
structure RomInput where
  load : LoadRead
  selfTest : SelfTest
  pool : PoolRead := PoolRead.clean
  deriving DecidableEq, Repr

/-- A boot ROM whose reads fail, self-tests and a pool that find nothing. -/
def RomInput.none : RomInput := { load := { manifest := Option.none, segments := Option.none }, selfTest := { cells := [], units := [] } }

/-- What a residue or parity checker names (R402). -/
inductive ErrorSite where
  | cell (g : Fin 128) (c : Fin 12)
  | vectorEngine (g : Fin 128)
  | tileCounter (g : Fin 128)
  | pageWalker (g : Fin 128)
  | msu (g : Fin 128)
  | sampler (r : Fin 8)
  | regionManager (r : Fin 8)
  deriving DecidableEq, Repr

/-- Which read of the device's own an expired completion timeout answers (R530, R402, R355); `linkDown`: the PCIe link itself has
gone down (R402). -/
inductive HostRead where
  | step
  | doorbell
  | descriptor (ring : Fin 64)
  | other
  | linkDown
  deriving DecidableEq, Repr

/-- A host access through BAR2 (R347), by aperture offset. -/
inductive Bar2Op where
  | read (off len : Nat)
  | write (off : Nat) (bytes : List Byte)
  deriving DecidableEq, Repr

/-- What the host sets in the PCI Express function's configuration space (R2, R345, R372, R530): the largest payload and read
request in bytes, the Completion Timeout Value, the BAR2 size as a power of two, MSI-X enabled, its function mask and vector masks. -/
structure HostPcie where
  maxPayload : Nat
  maxRead : Nat
  cplTimeout : BitVec 4
  bar2Log : Nat
  msixEnable : Bool
  functionMask : Bool
  vectorMask : BitVec 64
  deriving DecidableEq, Repr

/-- What link training settles (R345): the number of lanes and the rate in MT/s; and what the host then sets, if it sets anything. -/
structure LinkSetup where
  width : Nat
  rate : Nat
  host : Option HostPcie
  deriving DecidableEq, Repr

/-- Which part of an 8-byte register an access covers (R346). -/
inductive RegPart where
  | whole | low | high
  deriving DecidableEq, Repr

/-- The registers of BAR0 (R506 to R518); an array register carries its number. -/
inductive RegName where
  | idDevice | idCellCount | idCellPresent (n : Fin 32) | idCellActive (n : Fin 32)
  | lcsState | lcsBootStatus | lcsBootCtl | lcsResetCause | lcsWipeStatus | lcsFwSrc | lcsFwLen | lcsSerial
  | lcsLcChallenge | lcsReportDst | lcsCertLen | lcsFwMeas (n : Fin 8) | lcsNonce (n : Fin 4) | lcsToken (n : Fin 18)
  | hifDoorbellBase | hifStatusBase | hifPollCycles | hifBar2Window | hifSpillBase | hifSpillSize | hifSqErr | hifErr
  | hifSq (n : Fin 64) | hifCq (n : Fin 64) | hifTq (n : Fin 64)
  | cfgLock | cfgStepNumber | cfgStepDigestStep | cfgStepDigest (n : Fin 4) | cfgStepDoneTimeout
  | cfgStepStartTimeout | cfgSteal | cfgSched | cfgReqCount | cfgKvWater | cfgKvTier (n : Fin 3) | cfgKvAlloc
  | cfgKvLive | cfgPrefixBase | cfgPrefixCtl | cfgPrefixStat | cfgSpecStat | cfgWatchdog | cfgRestart | cfgScrub
  | cfgLoopBound (n : Fin 64)
  | fabPortStatus | fabFrame | fabNode | fabNodeTable | fabRetry | fabVcWeight | fabOredCtl | fabXferStat
  | fabExportCtl | fabExportStat | twnStatus | twnCfg | twnShadowBase | twnShadowSize | twnShadowStep
  | errCfgLocked | errArithSticky | errArithStep | errBlkUnderflowCnt | errBlkNonfiniteCnt | errBlkNonfiniteLoc
  | errAttnEmptyCnt | errKvRewriteCnt | errSampleNofiniteCnt | errExpertDropCnt | errStaleDiscard | errCorrCnt
  | errFence | errMemCe | errMemUe | errMemUeAddr | errHbmOdecc | errQueParity
  | queSel | queStat | queEventCfg | queEventWord | queEventInfo | queEventCmd | queTqCfg (n : Fin 64)
  | tstLbCtl | tstLbStatus | tstLbResult | tstSelftest | tstInject
  | rgnTileStat (r : Fin 8) | rgnStatus (r : Fin 8)
  deriving DecidableEq, Repr

/-- One word that a producer hands to a queue (R379, R391). -/
structure QIn where
  data : W64
  last : Bool
  bad : Bool
  deriving DecidableEq, Repr


end Sys2Proof
end

