-- ==== Sys2Proof/Syntax.lean ====
section
/-!
DEFINITION. The commands of the block: one constructor for each row of spec/opcode_table.json, in the table's order,
with the operands a command carries. What the manual leaves to the outside (the host's memory, the peers, the twin,
the self-test's outcome, firmware's plan contents) comes in as an operand; where it may be left out, the read has failed.
-/
namespace Sys2Proof

/-- The commands (spec/opcode_table.json). -/
inductive Instr where
  -- descriptors: what firmware does with an admitted (QUERY: a fetched) descriptor
  | modelLoad (f : Fetched)
  | sentenceLoad (f : Fetched)
  | variantLoad (f : Fetched)
  | reqSubmit (f : Fetched)
  | reqCancel (f : Fetched)
  | reqPause (f : Fetched)
  | reqResume (f : Fetched)
  | reqPriority (f : Fetched)
  | exportSlots (f : Fetched)
  | groupDefine (f : Fetched)
  | groupReform (f : Fetched)
  | jobRestart (f : Fetched)
  | twinAttach (f : Fetched)
  | twinDetach (f : Fetched)
  | stepLog (f : Fetched)
  | query (f : Fetched)
  -- the host interface
  | doorbellPoll (page : Option Doorbell)
  | descriptorFetch (ring : Fin 64) (rd : FetchRead)
  -- a step and its work
  | stepBegin (plan : List PlanWrite) (outRows : List (Nat × Nat))
  | clauseIssue (found : Found := [])
  | tileClaim (x : CtxId) (seen : List SeenWord)
  | regionSteal (r : Fin 8) (b : Fin 16) (seen : List SeenWord)
  | matmul (x : CtxId) (found : Found := [])
  | dot (x : CtxId) (found : Found := [])
  | softmax (x : CtxId) (found : Found := [])
  | recomp (x : CtxId) (found : Found := [])
  | softgrad (x : CtxId) (found : Found := [])
  | vector (x : CtxId) (found : Found := [])
  | cvt (g : Fin 128) (insn : W64)
  | cvtq (g : Fin 128) (insn : W64)
  | cvtd (g : Fin 128) (insn : W64)
  | samplePoint (i : Fin 64) (found : Found := [])
  | draw (r : Fin 8) (found : Found := [])
  | regionDone (r : Fin 8)
  | localDone (page : Option Doorbell)
  | boundaryActionResume
  | heldSubmitTimeout
  -- steps across a partition
  | stepStart (p : ParticleIn) (page : Option Doorbell)
  | stepDone (p : ParticleIn) (page : Option Doorbell)
  | stepAbort (p : ParticleIn) (page : Option Doorbell)
  | stepWant (p : ParticleIn)
  | stepWantRepeat
  | stepDoneTimeout
  | readyWaitTimeout
  | stepStartTimeout
  -- tiers
  | tierCopyDone (c : TierCopy) (found : Found := [])
  | requantisationDone (c : TierCopy) (found : Found := [])
  -- fabric
  | data (port : Fin 9) (f : Frame)
  | ack (port : Fin 9) (f : Frame) (page : Option Doorbell := none)
  | nak (port : Fin 9) (f : Frame)
  | transportRetryTimeout (id : Nat)
  | particleRetryTimeout (id : Nat)
  | portDown (port : Fin 8)
  | portUp (port : Fin 8)
  | contributionFold (entry : Fin 4096) (rank : Nat) (chunk : Nat)
  | oredGrant (port : Fin 8) (f : Frame)
  | oredRefuse (port : Fin 8) (f : Frame)
  | oredAnswerTimeout (entry : Fin 4096)
  | oredResult (port : Fin 8) (f : Frame)
  | collectiveProgressTimeout (entry : Fin 4096)
  | collFail (p : ParticleIn)
  -- shipping the cache
  | exportPageStart (found : Found := [])
  | exportCredit (p : ParticleIn)
  | creditWaitTimeout (handle : Nat)
  -- queues
  | queuePacket (q : Fin 1024) (ws : List QIn)
  | drain (q : Fin 128) (rd : PoolRead)
  | unreadTimeout (q : Fin 129) (rd : PoolRead := PoolRead.clean)
  | pop (q : Fin 1024) (rd : PoolRead)
  | dropRest (q : Fin 1024)
  | flush (q : Fin 1024)
  -- the twin
  | hello (attachGen : Nat) (h : Hello)
  | sync (attachGen : Nat) (r : SyncRec)
  | result (attachGen : Nat) (r : TwinResult) (page : Option Doorbell := none)
  | boundary (attachGen : Nat) (r : BoundaryRec) (page : Option Doorbell := none)
  | order (attachGen : Nat) (step : Nat) (items : List LogItem)
  | forward (attachGen : Nat) (result : Bool) (port : Fin 8) (f : Frame)
  | detach (attachGen : Nat) (page : Option Doorbell := none)
  | twinWaitTimeout (page : Option Doorbell := none)
  | twinHelloTimeout
  | twinPortDown (page : Option Doorbell := none)
  -- faults
  | tileWatchdog (x : CtxId)
  | linkRetryTimeout (link : Fin 24) (exhausted : Bool)
  | residueMismatch (site : ErrorSite)
  | hubCoreWatchdog
  | regionManagerWatchdog (r : Fin 8)
  | scrubRead (site : ScrubSite) (rd : WordRead)
  | completionTimeout (rd : HostRead) (after : Option Nat := none)
  -- configuration, boot, life-cycle
  | cfgLock
  | load (rd : LoadRead)
  | firmwareRunning
  | svnCommit
  | reset (st : SelfTest)
  | report
  | lcReq (target : BitVec 3)
  | powerOnReset (st : SelfTest)
  | perstReset (st : SelfTest)
  | hotReset (st : SelfTest)
  | functionLevelReset (st : SelfTest)
  | carrierControllerReset (st : SelfTest)
  | hubDone (bad : Found) (corrected : List Nat)
  | wipeDone (badBlock badHbm : Found) (correctedBlock correctedHbm : List Nat) (cycles : Nat) (part : Option WipePart := none)
  -- power and temperature
  | pwrEn (p54v : Bool := true)
  | powerDown (p54v : Bool := true)
  | pwrGoodLoss
  | thermtrip
  | thermalLimit (i : Island)
  -- test
  | start (v : W64)
  | abort
  | loopbackLock
  | lockLimit
  | runPhaseEnd (units errors corr : Nat)
  | arm (v : W64)
  -- registers with a row of their own
  | ringRestart (v : W64)
  | digestLatch (part : RegPart)
  | errBlkUnderflowCntClear
  | errBlkNonfiniteCntClear
  | errAttnEmptyCntClear
  | errKvRewriteCntClear
  | errSampleNofiniteClear
  | errExpertDropCntClear
  | errStaleDiscardClear
  | errCorrCntClear
  | errMemCeClear
  | errMemUeClear
  | errQueParityClear
  | tileStatClear (r : Fin 8)
  | fabXferStatClear
  | fabExportStatClear
  | registerWrite (off : Nat) (part : RegPart) (v : W64) (rom : RomInput := RomInput.none)
  | bar2Access (op : Bar2Op) (found : Found := [])
  -- SPDM
  | getVersion
  | getCapabilities (msg : List Byte := [])
  | negotiateAlgorithms (offersAsym offersHash : Bool) (msg : List Byte := [])
  | getDigests
  | getCertificate (slot : Nat) (off len : Nat)
  | getMeasurements (index : Nat) (signed : Bool) (nonce : List Byte) (msg : List Byte := [])
  -- the rest
  | burnComplete (st : SelfTest)
  | linkTrainingEnd (setup : Option LinkSetup := none)
  | twinPortUp
  | thermalLimitCleared (i : Island)
  | unsupportedRequest (code : Nat)
  | bar0SizeAccess (off size : Nat) (isWrite : Bool) (pool : PoolRead := PoolRead.clean)
  deriving DecidableEq, Repr

end Sys2Proof
end

