-- ==== Sys2Proof/Decode.lean ====
section
/-!
DEFINITION. Reading a command from a word: spec/opcode_table.json gives no bits for any row (the commands are events,
register writes and records, not words), so no word spells a command (notes/assumptions 9).
-/
namespace Sys2Proof

/-- The command that a word of the table spells: none, since no row gives bits. -/
def decodeTableWord (_nbits _w : Nat) : Option Instr := none

end Sys2Proof
end

