-- ==== Sys2Proof/Machine/Flags.lean ====
section
/-!
DEFINITION. The arithmetic flags of R80 and what a step collects of them (R81, R102).
-/
namespace Sys2Proof.Machine

/-- Flag bits of R80. -/
def flagOvf : BitVec 7 := 0x01#7
def flagFtz : BitVec 7 := 0x02#7
def flagBlkUfl : BitVec 7 := 0x04#7
def flagBlkNonfinite : BitVec 7 := 0x08#7
def flagIntSat : BitVec 7 := 0x10#7
def flagIntRange : BitVec 7 := 0x20#7
def flagInvalid : BitVec 7 := 0x40#7

/-- A flag when a condition holds. -/
def flagIf (c : Bool) (f : BitVec 7) : BitVec 7 := if c then f else 0#7

/-- The union of flags. -/
def orFlags (fs : List (BitVec 7)) : BitVec 7 := fs.foldl (· ||| ·) 0#7

/-- What one operation raises: flags, elements that vanished in a block (R75) and blocks that were not finite (R74). -/
structure Raised where
  flags : BitVec 7
  ufl : Nat
  nonfin : Nat
  deriving DecidableEq, Repr

/-- Nothing raised. -/
def noneRaised : Raised := { flags := 0#7, ufl := 0, nonfin := 0 }

/-- Only flags raised. -/
def raise (f : BitVec 7) : Raised := { flags := f, ufl := 0, nonfin := 0 }

/-- Both. -/
def Raised.join (a b : Raised) : Raised :=
  { flags := a.flags ||| b.flags, ufl := a.ufl + b.ufl, nonfin := a.nonfin + b.nonfin }

/-- All of a list. -/
def joinAll (rs : List Raised) : Raised := rs.foldl Raised.join noneRaised

/-- Nothing collected yet (R81). -/
def emptyCounts : StepCounts :=
  { flags := 0#7, underflow := 0, nonfinite := 0, nonfiniteClause := none, emptyRows := 0, rewrites := 0,
    nofinite := 0, drops := 0 }

/-- The lower of two recorded clause indices (R86). -/
def lowerClause (a : Option Nat) (c : Nat) : Option Nat :=
  match a with
  | none => some c
  | some x => some (min x c)

/-- The step's collection after an operation of clause `c` raised `r` (R81). -/
def collect (s : StepCounts) (c : Nat) (r : Raised) : StepCounts :=
  { s with
    flags := s.flags ||| r.flags
    underflow := s.underflow + r.ufl
    nonfinite := s.nonfinite + r.nonfin
    nonfiniteClause := if r.nonfin = 0 then s.nonfiniteClause else lowerClause s.nonfiniteClause c }

/-- A count of 48 bits that stops at its top (R85). -/
def satAdd48 (a b : Nat) : Nat := min (a + b) 0xFFFFFFFFFFFF

/-- A count of `w` bits that stops at its top. -/
def satAdd (w a b : Nat) : Nat := min (a + b) (2 ^ w - 1)

end Sys2Proof.Machine
end

