-- ==== Sys2Proof/Machine/Bytes.lean ====
section
/-!
DEFINITION. Numbers as bytes: little-endian fields of host structures, device structures and particles (R8), and the
bit-field reader that every layout table of the manual is written with.
-/
namespace Sys2Proof.Machine

/-- The number that bytes spell, the first byte least significant (R8). -/
def natOfBytes : List Byte → Nat
  | [] => 0
  | b :: bs => b.toNat + 256 * natOfBytes bs

/-- The low `n` bytes of `v`, the least significant first (R8). -/
def bytesOfNat : Nat → Nat → List Byte
  | 0, _ => []
  | n + 1, v => BitVec.ofNat 8 v :: bytesOfNat n (v / 256)

/-- Bits `lo` to `lo + n - 1` of `v`. -/
def bitsOf (v lo n : Nat) : Nat := v / 2 ^ lo % 2 ^ n

/-- Bit `k` of `v`. -/
def bitOf (v k : Nat) : Bool := bitsOf v k 1 == 1

/-- A Boolean as a bit. -/
def ofBit (b : Bool) : Nat := if b then 1 else 0

/-- `n` bytes from offset `off`; bytes past the end are absent. -/
def slice (bs : List Byte) (off n : Nat) : List Byte := (bs.drop off).take n

/-- The little-endian number of `n` bytes at offset `off`. -/
def field (bs : List Byte) (off n : Nat) : Nat := natOfBytes (slice bs off n)

/-- The first `n` bytes, filled up with 0. -/
def padTo (n : Nat) (bs : List Byte) : List Byte := (bs ++ List.replicate n 0#8).take n

/-- Whether every byte is 0. -/
def allZero (bs : List Byte) : Bool := bs.all (· == 0#8)

/-- Byte-wise exclusive or of two lists. -/
def xorBytes (a b : List Byte) : List Byte := List.zipWith (· ^^^ ·) a b

/-- Consecutive pieces of `n` bytes, the last one as it is; `fuel` bounds their number. -/
def pieces (n : Nat) : Nat → List Byte → List (List Byte)
  | 0, _ => []
  | fuel + 1, bs => if bs.isEmpty then [] else bs.take n :: pieces n fuel (bs.drop n)

/-- A number rounded up to a multiple of `n`. -/
def roundUp (v n : Nat) : Nat := (v + n - 1) / n * n

/-- Two's complement reading of the low `n` bits of `v`. -/
def signedOf (n v : Nat) : Int := (BitVec.ofNat n v).toInt

/-- The descriptor field at byte offset `off`, bits `lo` to `lo + n - 1` (R356, R358). -/
def descField (d : BitVec 512) (off lo n : Nat) : Nat := bitsOf d.toNat (8 * off + lo) n

/-- The bytes of a descriptor or frame word of `n` bytes. -/
def descBytes (d : BitVec 512) : List Byte := bytesOfNat 64 d.toNat

/-- `f` on every element, keeping the state that `f` threads. -/
def foldMap {α β σ : Type} (f : σ → α → σ × β) : σ → List α → σ × List β
  | s, [] => (s, [])
  | s, a :: as =>
    let r := f s a
    let t := foldMap f r.1 as
    (t.1, r.2 :: t.2)

/-- The 64-bit word of bytes. -/
def wordOf (bs : List Byte) : W64 := BitVec.ofNat 64 (natOfBytes bs)

/-- The 32-bit words of bytes, in order. -/
def words32 (bs : List Byte) : List (BitVec 32) :=
  (pieces 4 bs.length bs).map fun p => BitVec.ofNat 32 (natOfBytes p)

/-- The 64-bit words of bytes, in order. -/
def words64 (bs : List Byte) : List Nat := (pieces 8 bs.length bs).map natOfBytes

end Sys2Proof.Machine
end

