-- ==== Sys2Proof/Machine/Sc1.lean ====
section
/-!
DEFINITION. The code SC-1 (R444, R445): the Reed-Solomon code over GF(2^8) that protects every 32-byte word. Symbol p
(0 to 34) is the coefficient of x^(34 - p): data bytes 0 to 31 in address order, then the three check bytes.
-/
namespace Sys2Proof.Machine

/-- A byte times x modulo x^8 + x^4 + x^3 + x^2 + 1 (R444). -/
def gfDouble (a : Byte) : Byte :=
  if a.msb then (a <<< 1) ^^^ 0x1D#8 else a <<< 1

/-- The product in GF(2^8): `n` low bits of `b` still to use. -/
def gfMulBits : Nat → Byte → Byte → Byte
  | 0, _, _ => 0#8
  | n + 1, a, b =>
    (if b.getLsbD 0 then a else 0#8) ^^^ gfMulBits n (gfDouble a) (b >>> 1)

/-- The product in GF(2^8). -/
def gfMul (a b : Byte) : Byte := gfMulBits 8 a b

/-- The power of alpha = 0x02. -/
def alphaPow : Nat → Byte
  | 0 => 1#8
  | n + 1 => gfDouble (alphaPow n)

/-- The three check bytes of 32 data bytes: the remainder of data * x^3 by g(x) (R444), one data byte at a time. -/
def sc1Check (data : List Byte) : List Byte :=
  data.foldl stepCheck [0#8, 0#8, 0#8]
where
  /-- One step of the division by x^3 + g2 x^2 + g1 x + g0, with g = (x + 1)(x + 2)(x + 4). -/
  stepCheck (r : List Byte) (b : Byte) : List Byte :=
    match r with
    | [r2, r1, r0] =>
      let q := r2 ^^^ b
      [r1 ^^^ gfMul q 0x07#8, r0 ^^^ gfMul q 0x0E#8, gfMul q 0x08#8]
    | _ => r

/-- Syndrome j of an error pattern (R445): the sum of value * alpha^(j * (34 - p)). -/
def syndrome (j : Nat) (err : List (Nat × Byte)) : Byte :=
  err.foldl (fun acc e => acc ^^^ gfMul e.2 (alphaPow (j * (34 - e.1)))) 0#8

/-- What a read finds (R445). -/
inductive WordFind where
  | clean
  | corrected (sym : Nat) (value : Byte)
  | uncorrectable
  deriving DecidableEq, Repr

/-- The symbol among the first `n + 1` exponents whose locator fits the syndromes. -/
def locate (s0 s1 s2 : Byte) : Nat → Option Nat
  | 0 => if s1 = s0 ∧ s2 = s1 then some 0 else none
  | n + 1 =>
    let l := alphaPow (n + 1)
    if gfMul s0 l = s1 ∧ gfMul s1 l = s2 then some (n + 1) else locate s0 s1 s2 n

/-- The outcome of the three syndromes (R445). -/
def findWord (err : List (Nat × Byte)) : WordFind :=
  let s0 := syndrome 0 err
  let s1 := syndrome 1 err
  let s2 := syndrome 2 err
  if s0 = 0#8 ∧ s1 = 0#8 ∧ s2 = 0#8 then .clean
  else if s0 = 0#8 then .uncorrectable
  else
    match locate s0 s1 s2 34 with
    | some i => .corrected (34 - i) s0
    | none => .uncorrectable

/-- Data bytes with an error pattern applied (symbols 32 to 34 are check bytes). -/
def applySymbols (data : List Byte) (err : List (Nat × Byte)) : List Byte :=
  err.foldl (fun ds e => ds.set e.1 (ds.getD e.1 0#8 ^^^ e.2)) data

end Sys2Proof.Machine
end

