-- ==== Sys2Proof/Config.lean ====
section
/-!
DEFINITION. What the manual leaves open: constants with no body, so nothing in Lean can know their values
(notes/assumptions 1 to 3).
-/
namespace Sys2Proof.Config

/-- The k-th free value: every unpredictable value (R4) and every choice that the manual leaves to firmware is
taken from here with a fresh k (the state's counter `freeCtr`). -/
opaque free : Nat → Nat

/-- LIMIT in slabs that firmware gives to queue q of 129 to 1,023 (R382). -/
opaque fwQueueLimit : Nat → Nat

/-- PKTMAX that firmware gives to queue q of 129 to 1,023 (R381). -/
opaque fwQueuePktMax : Nat → Nat

/-- Entries that firmware gives the array of a page list room for, beyond those that its request can come to need (R193). -/
opaque listCap : Nat → Nat

/-- The two Ed448 public keys of the boot ROM, by KEYID: 57 bytes each (R470). -/
opaque romKey : Nat → List Byte

/-- The MAC address of the switch on the plane of a port: the node table names nodes only (R287, R289). -/
opaque switchMac : Nat → List Byte

/-- The sections of the twin record that an attach generation and a part number name, as (TYPE, bytes): the manual names what a
record holds and lays no section out (R417). -/
opaque twinSections : Nat → Nat → List (Nat × List Byte)

/-- AGREE of the twin records of an attach generation: a hash over the bytes of both HELLO records (R416, R417). -/
opaque twinAgree : Nat → BitVec 64

/-- The PCI Express Vendor ID assigned to Stavnis, and the Revision ID (R345). -/
opaque vendorId : BitVec 16
opaque revisionId : BitVec 8

/-- Where the PCI Express capability starts in the configuration space. -/
opaque pcieCapability : Nat

/-- The contents of the boot ROM (R478, measurement 1). -/
opaque romContents : List Byte

/-- The Ed448 seeds of the Stavnis root and of the Stavnis device CA (R476): their holder never shows them. -/
opaque rootSeed : List Byte
opaque deviceCaSeed : List Byte

/-- What the issuer of a certificate chooses, for the certificate of a public key (R476): the contents of the serial number, the
subject's and the issuer's Name, the Validity, and the extensions other than that of the measurement, each in DER. -/
opaque certSerial : List Byte → List Byte
opaque certName : List Byte → List Byte
opaque certValidity : List Byte → List Byte
opaque certExtensions : List Byte → List Byte

/-- The contents of the object identifier of the measurement extension (R476). -/
opaque measurementOid : List Byte

/-- The certificate store of the part as it was shipped (R476; notes/assumptions 5). -/
opaque shippedCert : List Byte

end Sys2Proof.Config
end

