-- ==== Sys2Proof/Machine/Device.lean ====
section
/-!
DEFINITION. The block: every piece of state that the manual gives it (INVENTORY.md lists each with its rule and its reset
value), and what a command emits.
-/
namespace Sys2Proof.Machine

/-! ### Memories (17) -/

/-- The memories with an address, the host spill tier, and the errors they hold (R441 to R446, R500). -/
structure Mem where
  bytes : Memory
  upsets : Tab (List (Nat × Byte))
  spill : Memory
  armed : Option (Nat × List (Nat × Byte))
  deriving DecidableEq, Repr

/-- What a memory access found (R445 to R447, R449, R450). -/
inductive MemEvent where
  | corrected (word : Nat)
  | stackCorrected (word : Nat)
  | uncorrectable (word : Nat) (stack : Bool)
  deriving DecidableEq, Repr

/-! ### What the block sends -/

/-- A particle of R32, R298 or R334 by its fields; `status` is FAULT or REASON. -/
structure Particle where
  type : Nat
  status : Nat
  group : Nat
  gen : Nat
  step : Nat
  sender : Nat
  entry : Nat
  deriving DecidableEq, Repr

/-- A twin record (R417). -/
inductive TwinRec where
  | hello (h : Hello)
  | sync (r : SyncRec)
  | result (r : TwinResult)
  | boundary (r : BoundaryRec)
  | order (step : Nat) (items : List LogItem)
  | forward (result : Bool) (port : Nat) (f : Frame)
  | detach
  deriving DecidableEq, Repr

/-- What a command sends to the outside: a write to host memory, an MSI-X message, a Darven frame of a type on a port, a
particle to a node with a copy on each of some ports, a twin record, the data of a read (with the poisoned bit), a DOE answer, a pin, a rail that the carrier controller switches. -/
inductive Emission where
  | hostWrite (addr : Nat) (bytes : List Byte)
  | msix (vector : Nat)
  | frame (port : Nat) (ftype : Nat) (f : Frame)
  | particle (ports : BitVec 8) (node : Nat) (p : Particle)
  | twin (attachGen : Nat) (part : Nat) (r : TwinRec)
  | readData (bytes : List Byte) (poisoned : Bool)
  | doe (bytes : List Byte)
  | pin (name : Nat) (high : Bool)
  | rail (number : Nat) (on : Bool)
  deriving DecidableEq, Repr

/-! ### Power, fuses, boot (18, 21) -/

/-- The PCI Express function's own registers (R2, R345, R372, R530): what the host sets in the configuration space; the lanes
and the rate in MT/s of the link; the MSI-X pending bits; what AER has logged: a read of the device that was not answered, and
poisoned data sent. -/
structure Pcie where
  host : HostPcie
  width : Nat
  rate : Nat
  pending : BitVec 64
  aerTimeout : Bool
  aerPoisoned : Bool
  deriving DecidableEq, Repr

/-- Power, pins and the link (R520 to R524, R14, R510): PWR_EN, P54V within its range, and how many of the four rails are up, in
the order of R521; `inReset` says that power is good and the power-on reset has not
ended (R522). -/
structure Power where
  pwrEn : Bool
  p54v : Bool
  rails : Nat
  pwrGood : Bool
  inReset : Bool
  thermtrip : Bool
  linkUp : Bool
  throttled : List Island
  deriving DecidableEq, Repr

/-- The life-cycle states (R481). -/
inductive Lifecycle where
  | blank | test | field | returned | scrap
  deriving DecidableEq, Repr

/-- What is burnt (R474, R475, R476, R481, R485, R488, R23). Cell (g, c) of PRESENT is bit 12 g + c. -/
structure Fuses where
  lifecycle : Lifecycle
  svn : Nat
  serial : W64
  secret : List Byte
  certs : List Byte
  present : BitVec 1536
  deriving DecidableEq, Repr

/-- A burn that runs (R474, R484). -/
inductive Burn where
  | svn (target : Nat)
  | lifecycle (target : Lifecycle)
  deriving DecidableEq, Repr

/-- PHASE of LCS_BOOT_STATUS (R486). -/
inductive Phase where
  | wipe | waitFw | loading | verifying | running | halted
  deriving DecidableEq, Repr

/-- The wipe (R456). -/
structure Wipe where
  hubDone : Bool
  blockDone : Bool
  hbmDone : Bool
  localDone : Bool
  hubFail : Bool
  blockFail : Bool
  hbmFail : Bool
  lifecycle : Bool
  cycles : Nat
  deriving DecidableEq, Repr

/-- A verified image that is about to run (R471): its measurement and SVN. -/
structure Loading where
  measurement : List Byte
  svn : Nat
  deriving DecidableEq, Repr

/-- How far an SPDM exchange has come (R480). -/
inductive Spdm where
  | start | version | capabilities | negotiated
  deriving DecidableEq, Repr

/-- Boot, identity, wipe, self-test (R462 to R492, R504). -/
structure Boot where
  phase : Phase
  error : Nat
  runSvn : Nat
  loads : Nat
  loading : Option Loading
  measurement : List Byte
  resetCause : BitVec 7
  challenge : W64
  chain : List Byte
  aliasSeed : List Byte
  spdm : Spdm
  transcript : List Byte
  measured : List Byte
  wipe : Wipe
  burn : Option Burn
  reportPending : Bool
  measWaiting : Option (Nat × Bool × List Byte)
  selfTest : SelfTest
  selfDone : Bool
  deriving DecidableEq, Repr

/-! ### Error and count registers -/

/-- One RGNr_TILE_STAT (R136). -/
structure TileStat where
  stealsIn : Nat
  stealsX : Nat
  casFail : Nat
  deriving DecidableEq, Repr

/-- The ERR_ registers and the other counts (R83 to R86, R136, R181, R218, R283, R318, R328, R344, R399, R431 to R434,
R458 to R461). -/
structure Errs where
  writeIgnored : Bool
  refused : Bool
  offset : Nat
  sticky : BitVec 7
  step : BitVec 7
  underflow : Nat
  nonfinite : Nat
  nonfiniteLoc : Option (Nat × Nat)
  emptyRows : Nat
  rewrites : Nat
  nofinite : Nat
  drops : Nat
  stale : Nat
  corr : Nat
  ceBlock : Nat
  ceHub : Nat
  ceHbm : Nat
  ue : Nat
  ueAddr : Option (Nat × Nat × Bool)
  odecc : List Nat
  parityWords : Nat
  parityPointer : Nat
  fenceCells : Nat
  fenceBlocks : Nat
  fencedBlocks : List Nat
  tileStat : Tab TileStat
  resends : Nat
  discards : Nat
  refusals : Nat
  delivered : Nat
  exportFailed : Nat
  deriving DecidableEq, Repr

/-- The status registers that a boundary writes (R220, R221, R247, R264, R284). -/
structure Stats where
  running : Nat
  paused : Nat
  draining : Nat
  held : Nat
  tierTotal : List Nat
  tierUsed : List Nat
  kvAlloc : Nat
  kvLive : Nat
  treeNodes : Nat
  treeHits : Nat
  drafted : Nat
  accepted : Nat
  deriving DecidableEq, Repr

/-! ### Host interface (14) -/

/-- The step log (R53 to R56, R371): mode (0 off, 1 record, 2 replay), ring, counts, the descriptor that started it, the
bytes a replay has read, the last step recorded or replayed. -/
structure LogState where
  mode : Nat
  base : Nat
  log2 : Nat
  endStep : Nat
  cq : Nat
  tag : W64
  dev : Nat
  host : Nat
  bytes : List Byte
  last : Nat
  deriving DecidableEq, Repr

/-- The host interface (R349 to R377). -/
structure HostIf where
  sqErr : BitVec 64
  err : BitVec 3
  sqProd : Tab Nat
  sqCons : Tab Nat
  cqProd : Tab Nat
  cqCons : Tab Nat
  tqProd : Tab Nat
  tqCons : Tab Nat
  fetched : List Fetched
  queries : List Fetched
  log : LogState
  deriving DecidableEq, Repr

/-! ### Queues (15) -/

/-- A queue word (R379). -/
structure QWord where
  data : W64
  last : Bool
  tag : Nat
  parity : Bool
  deriving DecidableEq, Repr

/-- A queue (R380 to R391): words, pending gap count, OVERRUN, SWALLOW, how many words have come of a packet without its END, whether
the packet in progress is refused, the steps of its gap markers, the words that its producer holds back while a STALL queue
is full, whether a next pointer is lost, and the words behind it that nothing can reach. -/
structure QState where
  words : List QWord
  gap : Nat
  overrun : Bool
  swallow : Bool
  begun : Nat
  refusing : Bool
  markers : List Nat
  port : List QIn
  cut : Bool
  beyond : List QWord
  deriving DecidableEq, Repr

/-- The slabs of a queue (R378), by their numbers among those reserved for it (R382): in the order of their next pointers, how
many words of the first one are gone, those returned, and the number from which none has been used. -/
structure Chain where
  slabs : List Nat
  skip : Nat
  free : List Nat
  unused : Nat
  deriving DecidableEq, Repr

/-! ### Steps and the job (02, 16) -/

/-- The step, the partition and restarts (R28 to R37, R45, R46, R402, R408 to R414). -/
structure Job where
  number : Nat
  inFlight : Bool
  gen : Nat
  localDone : Bool
  doneSent : Bool
  doneFrom : List Nat
  startOrdered : Bool
  wantNoted : Bool
  wantSent : Bool
  faulted : Bool
  agreement : Bool
  aborted : Bool
  named : List ErrorSite
  lost : List Nat
  scrubbed : List Nat
  scrubFault : Bool
  lastBoundary : Option Nat
  restarts : Nat
  restartFrom : Nat
  awaitReady : Bool
  ready : List Nat
  halted : Bool
  haltGen : Nat
  fatal : Bool
  latch : List Byte
  latchStep : Option Nat
  deriving DecidableEq, Repr

/-! ### The work of a step (05 to 07, 11) -/

/-- A tile counter (R125). -/
structure TileCounter where
  next : Nat
  stop : Nat
  epoch : Nat
  deriving DecidableEq, Repr

/-- A context and the tile it holds (R109), none where its last claim found nothing (R127), the number of its claim, and the
MSU group that a memory-side tile was forwarded to (R174). -/
structure Holding where
  ctx : CtxId
  tile : Option Nat
  order : Nat
  msu : Option Nat
  deriving DecidableEq, Repr

/-- A block's part in stealing (R127 to R129): waiting for a region steal, or done for the clause. -/
structure BlockWork where
  asked : Bool
  done : Bool
  deriving DecidableEq, Repr

/-- An issued clause (R118): its index, the bounds of every operation's loops in table order, its tile count, the tiles
completed, the positions reported before the issue (R202), the bytes of C and of pages written so far as (operation,
address), and the prologue encodings counted (R102). -/
structure Issue where
  clause : Nat
  bounds : List (List Nat)
  total : Nat
  completed : List Nat
  written : List Written
  wrote : List (Nat × Nat)
  encoded : List (Nat × Nat × Nat)
  deriving DecidableEq, Repr

/-- A sample-list entry handed to a sampler (R266). -/
structure SampleJob where
  region : Nat
  point : Nat
  row : Nat
  handle : Nat
  role : Nat
  j : Nat
  deriving DecidableEq, Repr

/-- The work of the step in flight (R29, R118 to R131, R266): the next clause, the issued one, tile counters, the number of
clause issues, held tiles, what the step has raised and written, step outputs as (clause, operation, addresses), sample
points handed out, their open jobs and draws, regions done, for R(n) of R421 the chunks sent as (entry, phase,
piece, index, CRC), the blocks that page-scatters wrote as (tier, address of the scale) (R205), the bytes that the host
or a copy wrote while the step ran, with what stood there before (R120, R347, R361), those of them that a copy wrote, the ranges
that completed clauses and units other than cells wrote, and those that the step has read. -/
structure Work where
  nextClause : Nat
  issue : Option Issue
  counters : Tab TileCounter
  epoch : Nat
  contexts : List Holding
  claims : Nat
  blocks : Tab BlockWork
  counts : StepCounts
  written : List Written
  outBytes : List (Nat × Nat × List Nat)
  sampled : List Nat
  jobs : List SampleJob
  drawn : List Drawn
  regionsDone : List Nat
  sentCrcs : List (Nat × Nat × Nat × Nat × Nat)
  scattered : List (Nat × Nat)
  raced : Tab Byte
  copied : List (Nat × Nat)
  past : List (Nat × Nat)
  read : List (Nat × Nat)
  deriving DecidableEq, Repr

/-! ### Fabric (12, 13) -/

/-- Which bytes a chunk carries and what it belongs to (R290): its header, its bytes, and the export page it ships. -/
structure Chunk where
  dst : Nat
  ftype : Nat
  vc : Nat
  gen : Nat
  group : Nat
  rank : Nat
  entry : Nat
  flags : BitVec 7
  step : Nat
  piece : Nat
  index : Nat
  phase : Nat
  agree : W64
  bytes : List Byte
  deriving DecidableEq, Repr

/-- An unacknowledged chunk (R292): its port and its resends. It is `waiting` while it has not left yet, which at 256
unacknowledged chunks of its port lasts (R295); `again` says that it is to leave once more. -/
structure TxChunk where
  chunk : Chunk
  port : Nat
  resends : Nat
  waiting : Bool
  again : Bool
  deriving DecidableEq, Repr

/-- An unacknowledged particle (R298). -/
structure TxParticle where
  node : Nat
  particle : Particle
  resends : Nat
  deriving DecidableEq, Repr

/-- A receive chunk context (R291): its port, the chunk's key, the frames seen by index, and its frame count. -/
structure RxChunk where
  port : Nat
  src : Nat
  gen : Nat
  group : Nat
  step : Nat
  entry : Nat
  phase : Nat
  piece : Nat
  index : Nat
  kind : Nat
  frames : Tab (List Byte)
  count : Nat
  arrived : Bool
  deriving DecidableEq, Repr

/-- How a fired entry runs (R307, R309). -/
inductive Method where
  | direct | asking | inSwitch
  deriving DecidableEq, Repr

/-- A triggered entry in a step (R301 to R320): what SENDFAB handed it, whether it fired, how it runs, what it still
expects, contributions folded per chunk of the own piece, and its end. -/
structure EntryRun where
  handed : Memory
  handedAt : List Nat
  fired : Bool
  method : Method
  answers : List (Nat × Bool)
  arrived : List (Nat × Nat × Nat × Nat)
  folded : Tab Nat
  sent : List (Nat × Nat × Nat × Nat)
  flags : List (Nat × BitVec 7)
  counts : Tab (List Byte)
  rows : List (Nat × Nat × List Byte)
  failed : Bool
  complete : Bool
  deriving DecidableEq, Repr

/-- A slot list (R332, R333). -/
structure SlotList where
  gen : Nat
  node : Nat
  slots : Nat
  slotBytes : Nat
  addrs : Nat
  credit : Nat
  seq : Nat
  deriving DecidableEq, Repr

/-- The fabric interfaces and the export engine (R285 to R344); by port, the group of VC1 served last (R297) and the virtual
channel whose turn it is (R296). -/
structure Fabric where
  up : BitVec 8
  downEvt : BitVec 8
  twinUp : Bool
  lastGroup : Tab Nat
  turn : Tab Nat
  chunks : Tab TxChunk
  particles : Tab TxParticle
  nextId : Nat
  receive : List RxChunk
  seen : List (Nat × Particle)
  entries : Tab EntryRun
  counters : Tab Nat
  slotLists : Tab SlotList
  deriving DecidableEq, Repr

/-! ### The twin (16) -/

/-- STATE of TWN_STATUS (R439). -/
inductive TwinState where
  | unpaired | attaching | syncing | paired | mirrorPrimary | mirror | lost | split
  deriving DecidableEq, Repr

/-- The shadow of the twin (R417, R420, R426, R440): the boundary that its SYNC was as of, and the last BOUNDARY applied. -/
structure Shadow where
  role : Role
  base : Nat
  step : Option Nat
  results : List TwinResult
  records : List Released
  deriving DecidableEq, Repr

/-- A chunk of a twin record sent and not acknowledged (R416): its number, the kind of its record, the chunk and its resends. -/
structure TwinSent where
  id : Nat
  kind : Nat
  chunk : Chunk
  resends : Nat
  deriving DecidableEq, Repr

/-- The pair (R415 to R426): boundaries left to wait for HELLO, the descriptor that attaches, whether SYNC has been sent and
received, a SYNC that a mirror has still to take over, whether this is a detached mirror, boundary records that a mirror has yet to perform, unacknowledged chunks of records, the part number of the
next record sent and of the next one received, R(n) of both sides, the last D(n) by step, and the records released at the last boundaries. -/
structure Twin where
  state : TwinState
  rank : Nat
  mode : Nat
  primary : Bool
  node : Nat
  attachGen : Nat
  left : Nat
  cq : Nat
  tag : W64
  syncSent : Bool
  synced : Bool
  parked : Option SyncRec
  retired : Bool
  orders : List BoundaryRec
  peerHello : Option Hello
  unacked : List TwinSent
  nextRecord : Nat
  shadow : Option Shadow
  taken : Option Role
  detachNote : Bool
  mismatchAt : Option Nat
  mirrorStart : Option (Nat × List LogItem)
  received : Nat
  ownR : Option (Nat × List Byte)
  peerR : Option (Nat × List Byte)
  ownDigests : List (Nat × List Byte)
  records : List Released
  deriving DecidableEq, Repr

/-! ### Model, sentence, tree (10, 14) -/

/-- The loaded model and sentence (R48, R252, R361, R362). -/
structure Loaded where
  imageOpen : Bool
  imageBytes : List Byte
  imageRanges : List (Nat × Nat)
  modelDigest : Option (List Byte)
  modelRanges : List (Nat × Nat)
  sentence : Option Sentence
  initial : List Byte
  deriving DecidableEq, Repr

/-! ### The boundary (02, 09) -/

/-- An action, or part of one, of the boundary in progress (R39, R411). `apply` is action 4 of one descriptor, `haltApply` the
same at a halt boundary, `await` and `hold` what goes on and what holds action 4 of a replay (R55, R242); `swap` changes between the own and the taken role (R424); `restart` is what an accepted
JOB_RESTART does (R412), `doorbell` holds a boundary inside a halt boundary until its own read of the doorbell page (R352), `tell` is
the record to the twin, and `abandon` is item 2 of R408 with the new generation. -/
inductive BOp where
  | cutoff | pages | records | release | edits | apply (f : Fetched) | await | hold | firmware | record | log | tell | advance
  | swap | doorbell | haltCutoff | haltApply (f : Fetched) | restart (f : Fetched) | haltEnd
  | abandon (gen : Nat) | finish
  deriving DecidableEq, Repr

/-- The boundary in progress (R39): the actions left, packets that wait for their queues, the descriptors admitted, the log
entry that replay follows (R55) or that recording writes, D(n), the handles whose exports had completed before action
0, what the boundary released (R426), and the partition generation during its step (R53). -/
structure Boundary where
  gen : Nat
  ops : List BOp
  posting : List (Nat × List W64)
  admitted : List Fetched
  entry : List Byte
  digest : List Byte
  settled : List Nat
  released : List (Nat × List W64)
  writes : List (Nat × List Byte)
  deriving DecidableEq, Repr

/-! ### Test (19) -/

/-- The loop-back and injection registers (R493 to R505). -/
structure Test where
  busy : Bool
  done : Bool
  pass : Bool
  lock : Bool
  nolock : Bool
  aborted : Bool
  refused : Bool
  corr : Nat
  units : Nat
  errors : Nat
  target : Nat
  index : Nat
  depth : Nat
  waiting : List (Bar2Op × Found)
  residue : Option Nat
  deriving DecidableEq, Repr

/-! ### The whole -/

/-- Everything but the queue of commands. `cellStore` is the cell-local storage (R20, R108): byte o of cell (g, c) is at
(12 g + c) * 2^19 + o. `poolD` is d of R236 for the step in flight, else of the step before, `poolLast` that of the step before the one in flight, and
`poolNext` what action 4 has computed for the next step (R237, R247). `spilling` has the tiers whose spill goes on up to the high
mark (R214). -/
structure Device where
  out : List Emission
  freeCtr : Nat
  power : Power
  pcie : Pcie
  fuses : Fuses
  boot : Boot
  active : BitVec 1536
  regs : List (RegName × W64)
  cfgLocked : Bool
  cfgHeld : Bool
  errs : Errs
  stats : Stats
  hif : HostIf
  queues : Tab QState
  slabs : Tab Chain
  job : Job
  work : Work
  cellStore : Memory
  veRegs : Tab (List (BitVec 32))
  veScales : Tab (List Byte)
  bnd : Boundary
  role : Role
  onTaken : Bool
  tree : Tab TreeNode
  poolD : Nat
  poolLast : Nat
  poolNext : Nat
  mem : Mem
  scrub : Tab Nat
  withdrawn : List Nat
  spilling : List Nat
  slotHold : List (Nat × Nat × Nat)
  loaded : Loaded
  fab : Fabric
  twin : Twin
  test : Test
  deriving DecidableEq, Repr

end Sys2Proof.Machine
end

