-- ==== Sys2Proof/Machine/Reset.lean ====
section
/-!
DEFINITION. The values after a reset (R463), and the empty values of the parts of the block.
-/
namespace Sys2Proof.Machine

/-- A queue with nothing in it (R392). -/
def QState.empty : QState :=
  { words := [], gap := 0, overrun := false, swallow := false, begun := 0, refusing := false, markers := [],
    port := [], cut := false, beyond := [] }

/-- No wipe work done yet (R456). -/
def Wipe.none : Wipe :=
  { hubDone := false, blockDone := false, hbmDone := false, localDone := false, hubFail := false, blockFail := false,
    hbmFail := false, lifecycle := false, cycles := 0 }

/-- Every count and flag 0. -/
def Errs.zero : Errs :=
  { writeIgnored := false, refused := false, offset := 0, sticky := 0#7, step := 0#7, underflow := 0, nonfinite := 0,
    nonfiniteLoc := none, emptyRows := 0, rewrites := 0, nofinite := 0, drops := 0, stale := 0, corr := 0, ceBlock := 0,
    ceHub := 0, ceHbm := 0, ue := 0, ueAddr := none, odecc := [0, 0, 0, 0], parityWords := 0, parityPointer := 0,
    fenceCells := 0, fenceBlocks := 0, fencedBlocks := [], tileStat := [], resends := 0, discards := 0, refusals := 0, delivered := 0,
    exportFailed := 0 }

/-- Every status register 0. -/
def Stats.zero : Stats :=
  { running := 0, paused := 0, draining := 0, held := 0, tierTotal := [0, 0, 0], tierUsed := [0, 0, 0], kvAlloc := 0,
    kvLive := 0, treeNodes := 0, treeHits := 0, drafted := 0, accepted := 0 }

/-- No log. -/
def LogState.off : LogState :=
  { mode := 0, base := 0, log2 := 0, endStep := 0, cq := 0, tag := 0#64, dev := 0, host := 0, bytes := [], last := 0 }

/-- No ring has moved (R463). -/
def HostIf.zero : HostIf :=
  { sqErr := 0#64, err := 0#3, sqProd := [], sqCons := [], cqProd := [], cqCons := [], tqProd := [], tqCons := [],
    fetched := [], queries := [], log := LogState.off }

/-- Step 0, none in flight (R28, R45). -/
def Job.zero : Job :=
  { number := 0, inFlight := false, gen := 0, localDone := false, doneSent := false, doneFrom := [],
    startOrdered := false, wantNoted := false, wantSent := false, faulted := false, agreement := false, aborted := false,
    named := [], lost := [], scrubbed := [], scrubFault := false, lastBoundary := none, restarts := 0, restartFrom := 0,
    awaitReady := false, ready := [], halted := false, haltGen := 0, fatal := false, latch := List.replicate 32 0#8,
    latchStep := none }

/-- Nothing collected (R81). -/
def noCounts : StepCounts :=
  { flags := 0#7, underflow := 0, nonfinite := 0, nonfiniteClause := none, emptyRows := 0, rewrites := 0, nofinite := 0,
    drops := 0 }

/-- No work. -/
def Work.idle : Work :=
  { nextClause := 0, issue := none, counters := [], epoch := 0, contexts := [], claims := 0, blocks := [],
    counts := noCounts, written := [], outBytes := [], sampled := [], jobs := [], drawn := [], regionsDone := [],
    sentCrcs := [], scattered := [], raced := [], copied := [], past := [], read := [] }

/-- No work; the tile counters keep their words and the count of clause issues stays (R125). -/
def Work.over (w : Work) : Work := { Work.idle with epoch := w.epoch, counters := w.counters }

/-- No boundary in progress. -/
def Boundary.none : Boundary :=
  { gen := 0, ops := [], posting := [], admitted := [], entry := [], digest := [], settled := [], released := [], writes := [] }

/-- Nothing collected. -/
def Collect.none : Collect :=
  { before := [], composed := [], items := [], halts := [], edits := 0, releases := [], spans := [], goals := [], marked := [],
    gained := [], full := [],
    fwEdits := [], applied := [], shares := [], shared := [], freed := [], ended := [], submitted := [], paused := [], fwItems := [], placements := [], limits := [], written := [],
    drawn := [], outputs := [], rowOf := [], rows := [], loaded := [], counts := noCounts }

/-- A role with no request, no list, no variant, no group (R223, R463). -/
def emptyRole : Role :=
  { reqs := [], slotGen := [], held := [], lists := [], variants := [], groups := [], digest := List.replicate 32 0#8,
    digestStep := none, ships := [], copies := [], initial := none, col := Collect.none }

/-- Ports down, nothing sent (R463). -/
def Fabric.zero : Fabric :=
  { up := 0#8, downEvt := 0#8, twinUp := false, lastGroup := [], turn := [], chunks := [], particles := [], nextId := 0, receive := [], seen := [],
    entries := [], counters := [], slotLists := [] }

/-- UNPAIRED (R439). -/
def Twin.zero : Twin :=
  { state := .unpaired, rank := 0, mode := 0, primary := false, node := 0, attachGen := 0, left := 0, cq := 0,
    tag := 0#64, syncSent := false, synced := false, parked := none, retired := false, orders := [], peerHello := none, unacked := [], nextRecord := 0, shadow := none, taken := none,
    detachNote := false, mismatchAt := none, mirrorStart := none, received := 0, ownR := none, peerR := none,
    ownDigests := [], records := [] }

/-- No pair, after one that there was: attach generations go on, and the own digests and released records of the last boundaries
are kept (R417, R426). -/
def Twin.cleared (t : Twin) : Twin :=
  { Twin.zero with attachGen := t.attachGen, ownDigests := t.ownDigests, records := t.records }

/-- No model and no sentence. -/
def Loaded.none : Loaded :=
  { imageOpen := false, imageBytes := [], imageRanges := [], modelDigest := Option.none, modelRanges := [],
    sentence := Option.none, initial := List.replicate 32 0#8 }

/-- No loop-back (R502). -/
def Test.zero : Test :=
  { busy := false, done := false, pass := false, lock := false, nolock := false, aborted := false, refused := false,
    corr := 0, units := 0, errors := 0, target := 0, index := 0, depth := 0, waiting := [], residue := Option.none }

/-- Wiped memories (R453). -/
def Mem.zero : Mem := { bytes := [], upsets := [], spill := [], armed := Option.none }

/-- Boot right after a reset: PHASE WIPE, the wipe begun (R463, R486), the challenge a free value (R482). -/
def bootAfter (cause : BitVec 7) (st : SelfTest) (life : Bool) (challenge : Nat) : Boot :=
  { phase := .wipe, error := 0, runSvn := 0, loads := 0, loading := Option.none, measurement := List.replicate 64 0#8,
    resetCause := cause, challenge := BitVec.ofNat 64 challenge, chain := [], aliasSeed := [], spdm := .start,
    transcript := [], measured := [], wipe := { Wipe.none with lifecycle := life }, burn := Option.none, reportPending := false, measWaiting := Option.none,
    selfTest := st, selfDone := false }

/-- The bit of cell (g, c) in a cell set (R23). -/
def cellBit (g c : Nat) : BitVec 1536 := 1#1536 <<< (12 * g + c)

/-- The ACTIVE set after reset: PRESENT less the cells that failed their self-test (R24). -/
def activeAfter (present : BitVec 1536) (st : SelfTest) : BitVec 1536 :=
  st.cells.foldl (fun a p => a &&& ~~~(cellBit p.1 p.2)) present

/-- The configuration space before the host has set anything: the defaults of PCI Express Base 7.0, with payloads of 128 bytes, read
requests of 512 bytes, Completion Timeout Value 0, the smallest BAR2 (1 GiB), MSI-X off and every vector masked. PRESUMED
(notes/assumptions 85): the manual states the Completion Timeout Value alone (R530). -/
def HostPcie.set : HostPcie :=
  { maxPayload := 128, maxRead := 512, cplTimeout := 0#4, bar2Log := 30, msixEnable := false, functionMask := false,
    vectorMask := BitVec.allOnes 64 }

/-- The PCI Express function after power-up: a link of 16 lanes at 128 GT/s once it is trained (R345). -/
def Pcie.set : Pcie :=
  { host := HostPcie.set, width := 16, rate := 128000, pending := 0#64, aerTimeout := false, aerPoisoned := false }

/-- The PCI Express function after a function-level reset, or a reset that acts as one (R462): the link keeps its width and rate,
AER keeps what it logged, and of the host's settings only the largest payload stays. PRESUMED (notes/assumptions 85): R462 refers to
PCI Express Base 7.0 for FLR, and what FLR leaves is the model's reading of it. -/
def Pcie.afterReset (p : Pcie) : Pcie :=
  { p with host := { HostPcie.set with maxPayload := p.host.maxPayload }, pending := 0#64 }

/-- A block after a reset that keeps fuses, pins and the link state given (R463). -/
def deviceAfter (power : Power) (pcie : Pcie) (fuses : Fuses) (cause : BitVec 7) (st : SelfTest) (life : Bool) (ctr : Nat) : Device :=
  { out := [], freeCtr := ctr + 1, power := power, pcie := pcie, fuses := fuses, boot := bootAfter cause st life (Config.free ctr),
    active := activeAfter fuses.present st, regs := [], cfgLocked := false, cfgHeld := false,
    errs := Errs.zero, stats := Stats.zero, hif := HostIf.zero, queues := [], slabs := [], job := Job.zero, work := Work.idle,
    cellStore := [], veRegs := [], veScales := [], bnd := Boundary.none, role := emptyRole, onTaken := false, tree := [], poolD := 0, poolLast := 0, poolNext := 0, mem := Mem.zero, scrub := [], withdrawn := [], spilling := [], slotHold := [], loaded := Loaded.none,
    fab := Fabric.zero, twin := Twin.zero, test := Test.zero }

/-- The fuses of the modelled part (notes/assumptions 5). -/
def shippedFuses : Fuses :=
  { lifecycle := .field, svn := 0, serial := 0#64, secret := List.replicate 32 0#8, certs := Config.shippedCert,
    present := BitVec.allOnes 1536 }

/-- The block right after a power-on reset with every self-test passed (R462, R522). -/
def deviceAtPowerOn : Device :=
  deviceAfter
    { pwrEn := true, p54v := true, rails := 4, pwrGood := true, inReset := false, thermtrip := false, linkUp := false, throttled := [] }
    Pcie.set shippedFuses 1#7 { cells := [], units := [] } false 0

end Sys2Proof.Machine
end

