-- ==== Sys2Proof/Machine/State.lean ====
section
/-!
DEFINITION. The faults and refusals, the state (the block and the queue of waiting commands), and the state after reset.
-/
namespace Sys2Proof.Machine

/-- Why the model stops. -/
inductive Fault where
  /-- Raised by BAR2_ACCESS: a host write into the firmware work area or a page-list directory, which the manual calls
  undefined behaviour and for which it gives no effect (R534, R3). Safe: the model stops where the device may do
  anything. -/
  | undefinedHostWrite
  deriving DecidableEq, Repr

/-- Why the model refuses a command. -/
inductive Refusal where
  /-- A command with no meaning in this model. Safe. -/
  | notModelled (mnemonic : String)
  deriving DecidableEq, Repr

/-- The state: the block and the commands that wait, first in, first out. -/
structure State where
  dev : Device
  pending : List Instr
  deriving DecidableEq, Repr

/-- The state right after a power-on reset (R462, R522). -/
def State.reset : State := { dev := deviceAtPowerOn, pending := [] }

end Sys2Proof.Machine
end

