-- ==== Sys2Proof/Machine/Ops.lean ====
section
/-!
DEFINITION. Operations over memory: the address map (R441), reading and writing bytes in canonical form, protected words
(R444 to R448).
-/
namespace Sys2Proof.Machine

/-! ### The address map (R441) -/

def hbmEnd : Nat := 0x003000000000
def blockBase : Nat := 0x400000000000
def blockEnd : Nat := 0x400800000000
def hubBase : Nat := 0x7F0000000000
def hubEnd : Nat := 0x7F0004000000

/-- Bytes of one block's memory. -/
def blockSize : Nat := 0x10000000

def inHbm (a : Nat) : Bool := a < hbmEnd
def inBlock (a : Nat) : Bool := blockBase ≤ a && a < blockEnd
def inHub (a : Nat) : Bool := hubBase ≤ a && a < hubEnd

/-- Whether an address lies in the device address map (R441). -/
def inMap (a : Nat) : Bool := inHbm a || inBlock a || inHub a

/-- Whether `n` bytes at `a` lie in the HBM range. -/
def rangeInHbm (a n : Nat) : Bool := a + n ≤ hbmEnd

/-- Whether `n` bytes at `a` lie in block memory. -/
def rangeInBlock (a n : Nat) : Bool := blockBase ≤ a && a + n ≤ blockEnd

/-- Whether `n` bytes at `a` lie inside one range of the map (R113). -/
def rangeInMap (a n : Nat) : Bool :=
  n = 0 || rangeInHbm a n || rangeInBlock a n || (hubBase ≤ a && a + n ≤ hubEnd)

/-- The global block whose memory holds an address of block memory (R441: r * 2^32 + b * 2^28). -/
def blockOf (a : Nat) : Nat := (a - blockBase) / blockSize

/-- The HBM stack of an HBM address (R442). -/
def stackOf (a : Nat) : Nat := Nat.xor (bitsOf a 9 2) (bitsOf a 21 2)

/-- The offset in its stack of an HBM address (R442). -/
def stackOffset (a : Nat) : Nat := a / 2 ^ 11 * 512 + a % 512

/-! ### Bytes in canonical form -/

/-- The byte at an address; an unlisted one reads 0 (R453). -/
def readByte (m : Memory) (a : Nat) : Byte :=
  match m with
  | [] => 0#8
  | (k, b) :: r => if k = a then b else if a < k then 0#8 else readByte r a

/-- The memory with a byte written; a byte 0 is not listed. -/
def writeByte (m : Memory) (a : Nat) (v : Byte) : Memory :=
  match m with
  | [] => if v = 0#8 then [] else [(a, v)]
  | (k, b) :: r =>
    if k < a then (k, b) :: writeByte r a v
    else if k = a then (if v = 0#8 then r else (a, v) :: r)
    else (if v = 0#8 then (k, b) :: r else (a, v) :: (k, b) :: r)

/-- `n` bytes from `a`. -/
def readBytes (m : Memory) (a n : Nat) : List Byte :=
  readFrom (m.dropWhile (fun e => e.1 < a)) a n
where
  /-- The bytes from `a` of a memory with no entry below `a`. -/
  readFrom (m : Memory) (a : Nat) : Nat → List Byte
    | 0 => []
    | n + 1 =>
      match m with
      | [] => List.replicate (n + 1) 0#8
      | (k, b) :: r => if k = a then b :: readFrom r (a + 1) n else 0#8 :: readFrom ((k, b) :: r) (a + 1) n

/-- Consecutive bytes written from `a`. -/
def writeBytes (m : Memory) (a : Nat) (bs : List Byte) : Memory :=
  let low := m.takeWhile (fun e => e.1 < a)
  let high := m.dropWhile (fun e => e.1 < a + bs.length)
  low ++ listed a bs ++ high
where
  /-- The entries of consecutive bytes. -/
  listed (a : Nat) : List Byte → Memory
    | [] => []
    | b :: r => if b = 0#8 then listed (a + 1) r else (a, b) :: listed (a + 1) r

/-- Entries rise strictly and none lists a 0. -/
def memWf (m : Memory) : Bool :=
  match m with
  | [] => true
  | [(_, v)] => v != 0#8
  | (a, v) :: (b, w) :: r => v != 0#8 && a < b && memWf ((b, w) :: r)

/-! ### Protected words (R444 to R448) -/

/-- The word that holds an address. -/
def wordAddr (a : Nat) : Nat := a / 32 * 32

/-- Whether the word at `w` shares a byte with the range. -/
def overlapsWord (w a n : Nat) : Bool := w < a + n && a < w + 32 && n != 0

/-- The memory with data bytes of one word replaced and its error gone. -/
def putWord (m : Mem) (w : Nat) (data : List Byte) : Mem :=
  { m with bytes := writeBytes m.bytes w data, upsets := Tab.drop m.upsets w }

/-- Symbol numbers beyond the 35 of the code word: the word's stack reports it uncorrected, as long as it stands so (R446), or
its stack reports the next read of it as corrected. -/
def stackUncorrected : Nat := 35
def stackCorrected : Nat := 36

/-- What a read of the word at `w` delivers and finds, with its stored error and the symbols that an armed injection flips
(R445, R446, R500). An error that the code misses or miscorrects changes the data. -/
def readWord (m : Mem) (w : Nat) (err flips : List (Nat × Byte)) : List Byte × List MemEvent :=
  let seen := (err ++ flips).filter (·.1 < 35)
  let stored := readBytes m.bytes w 32
  let raw := applySymbols stored (seen.filter (·.1 < 32))
  let odecc := if err.any (·.1 = stackCorrected) then [MemEvent.stackCorrected w] else []
  if err.any (·.1 = stackUncorrected) then (stored, odecc ++ [.uncorrectable w true])
  else match findWord seen with
  | .clean => (raw, odecc)
  | .corrected p v => (if p < 32 then applySymbols raw [(p, v)] else raw, odecc ++ [.corrected w])
  | .uncorrectable => (stored, odecc ++ [.uncorrectable w false])

/-- Whether some event is uncorrectable. -/
def anyUncorrectable (es : List MemEvent) : Bool :=
  es.any fun e => match e with
    | .uncorrectable .. => true
    | .corrected _ | .stackCorrected _ => false

/-- A read of one word: the memory that it leaves, and what it finds. A word that is not uncorrectable is written back as it was
delivered (R448), but a read that an injection meets leaves the stored word (R500). -/
def resolveWord (m : Mem) (w : Nat) (err flips : List (Nat × Byte)) : Mem × List MemEvent :=
  let r := readWord m w err flips
  (if flips.isEmpty && !anyUncorrectable r.2 then putWord m w r.1
   else { m with upsets := m.upsets.map fun e => if e.1 = w then (w, e.2.filter (·.1 ≠ stackCorrected)) else e }, r.2)

/-- The injection that a read of a range meets: its word and symbols (R500). -/
def metInjection (m : Mem) (a n : Nat) : Option (Nat × List (Nat × Byte)) := m.armed.filter (fun e => overlapsWord e.1 a n)

/-- The symbols that a met injection flips in the word at `w`. -/
def flipsAt (inj : Option (Nat × List (Nat × Byte))) (w : Nat) : List (Nat × Byte) :=
  match inj with
  | some e => if e.1 = w then e.2 else []
  | none => []

/-- The words of a range that hold an error or meet the injection, each with its stored error. -/
def touchedWords (m : Mem) (a n : Nat) (inj : Option (Nat × List (Nat × Byte))) : Tab (List (Nat × Byte)) :=
  let ws := m.upsets.filter (fun e => overlapsWord e.1 a n)
  match inj with
  | some e => if (Tab.find ws e.1).isSome then ws else ws ++ [(e.1, [])]
  | none => ws

/-- Resolve each touched word once. -/
def resolveWords (m : Mem) (inj : Option (Nat × List (Nat × Byte))) (ws : Tab (List (Nat × Byte))) : Mem × List MemEvent :=
  ws.foldl (fun acc e => let r := resolveWord acc.1 e.1 e.2 (flipsAt inj e.1); (r.1, acc.2 ++ r.2)) (m, [])

/-- The bytes that a read sees: those stored, but for the word that an injection meets. -/
def seenBytes (before after : Mem) (inj : Option (Nat × List (Nat × Byte))) : Memory :=
  match inj with
  | none => after.bytes
  | some (w, sym) => writeBytes after.bytes w (readWord before w (Tab.getD before.upsets w []) sym).1

/-- A read of a range: the bytes it delivers, the memory it leaves, and what it found. Every word of the range that holds
an error is resolved; an armed injection acts on this one read of its word (R500). -/
def touchRange (m : Mem) (a n : Nat) : List Byte × Mem × List MemEvent :=
  let inj := metInjection m a n
  let r := resolveWords (if inj.isSome then { m with armed := none } else m) inj (touchedWords m a n inj)
  (readBytes (seenBytes m r.1 inj) a n, r.1, r.2)

/-- The bytes of a range as SC-1 delivers them, looked at without a read that reports or uses up anything. -/
def peekBytes (m : Mem) (a n : Nat) : List Byte := (touchRange { m with armed := none } a n).1

/-- The word that an injection meets, as the read inside a narrower write delivers it (R447, R500); one that the read finds
uncorrectable stays. -/
def mergeInjected (before after : Mem) (inj : Option (Nat × List (Nat × Byte))) : Mem :=
  match inj with
  | none => after
  | some (w, sym) =>
    let r := readWord before w (Tab.getD before.upsets w []) sym
    if anyUncorrectable r.2 then after else putWord after w r.1

/-- A write of consecutive bytes (R447): a word wholly covered loses its error; a partly covered one is read first, which an
armed injection may meet, and stays unchanged if that finds it uncorrectable. -/
def writeRange (m : Mem) (a : Nat) (bs : List Byte) : Mem × List MemEvent :=
  let n := bs.length
  let covered := fun (w : Nat) => decide (a ≤ w) && decide (w + 32 ≤ a + n)
  let m := { m with upsets := m.upsets.filter (fun e => !covered e.1) }
  let inj := (metInjection m a n).filter (fun e => !covered e.1)
  let r := resolveWords (if inj.isSome then { m with armed := none } else m) inj (touchedWords m a n inj)
  let base := mergeInjected m r.1 inj
  let kept := r.2.filterMap fun e => match e with
    | .uncorrectable w _ => some (w, readBytes base.bytes w 32)
    | .corrected _ | .stackCorrected _ => none
  ({ base with bytes := kept.foldl (fun acc e => writeBytes acc e.1 e.2) (writeBytes base.bytes a bs) }, r.2)

end Sys2Proof.Machine
end

