-- ==== Sys2Proof/Machine/Base.lean ====
section
/-!
DEFINITION. Shared operations on the device: commands, emissions, setup registers and their fields (R9, R507), free
values (R4), events (R404 to R406), the queue pool's accept and push (R379 to R387), MSI-X (R372).
-/
namespace Sys2Proof.Machine

/-- A command's effect on the device; the queue of commands stays, and `out` holds what this command emits. -/
def lift (f : Device → Device) (s : State) : Host.Outcome State Fault Refusal :=
  .next { s with dev := f { s.dev with out := [] } }

/-- Emit to the outside. -/
def emit (e : Emission) (d : Device) : Device := { d with out := d.out ++ [e] }

/-- Emit several. -/
def emitAll (es : List Emission) (d : Device) : Device := { d with out := d.out ++ es }

/-- An effect when a condition holds. -/
def whenD (c : Bool) (f : Device → Device) (d : Device) : Device := if c then f d else d

/-- The next free value (R4; notes/assumptions 1). -/
def takeFree (d : Device) : Nat × Device := (Config.free d.freeCtr, { d with freeCtr := d.freeCtr + 1 })

/-! ### Setup registers (R507) -/

/-- The reset word of a register that holds a written word; 0 for every other one (R507). -/
def regReset : RegName → W64
  | .hifPollCycles => 0x4000#64
  | .cfgStepDoneTimeout | .cfgStepStartTimeout => 0x10000000#64
  | .cfgSteal => 0x300100002#64
  | .cfgSched => 0x0002401000010000#64
  | .cfgKvWater => 0x0420102010#64
  | .cfgWatchdog => 0x100000#64
  | .cfgRestart => 0x40003#64
  | .cfgScrub => 0x001001000040#64
  | .fabFrame => 0x02EF000088B5#64
  | .fabRetry => 0x07010000#64
  | .fabVcWeight => 0x136#64
  | .fabExportCtl => 0x10000000#64
  | .twnCfg => 0x400001000000#64
  | .queEventCfg => 0x4000100000#64
  | .queTqCfg _ => 0x0000400001000009#64
  | .tstLbCtl => 0x010000000000#64
  | _ => 0#64

/-- The word that a register holds. -/
def regGet (d : Device) (r : RegName) : W64 := ((d.regs.find? (·.1 = r)).map (·.2)).getD (regReset r)

/-- The registers with one word replaced. -/
def putReg : List (RegName × W64) → RegName → W64 → List (RegName × W64)
  | [], r, v => [(r, v)]
  | (k, x) :: t, r, v => if k = r then (k, v) :: t else (k, x) :: putReg t r v

/-- A register written. -/
def regSet (r : RegName) (v : W64) (d : Device) : Device := { d with regs := putReg d.regs r v }

/-- A field of a register: bits `lo` to `lo + n - 1`. -/
def regField (d : Device) (r : RegName) (lo n : Nat) : Nat := bitsOf (regGet d r).toNat lo n

/-- Host address of the status page and the doorbell page (R373). -/
def statusBase (d : Device) : Nat := regField d .hifStatusBase 12 52 * 2 ^ 12

/-- A ring register: LOG2N, EN, VEC, BASE (R375). -/
structure RingCfg where
  log2 : Nat
  en : Bool
  vec : Nat
  base : Nat
  deriving DecidableEq, Repr

/-- The configuration of a ring. -/
def ringCfg (d : Device) (r : RegName) : RingCfg :=
  let v := (regGet d r).toNat
  { log2 := bitsOf v 0 5, en := bitOf v 5, vec := bitsOf v 6 6, base := v / 2 ^ 12 * 2 ^ 12 }

/-- Number n as an index of 64 registers. -/
def fin64 (n : Nat) : Fin 64 := ⟨n % 64, Nat.mod_lt n (by decide)⟩

/-- Step budget, CHUNK_MAX, ADMIT_WAIT, POOL_MOVE, LENGTH_TABLE (R246). -/
def schedBudget (d : Device) : Nat := regField d .cfgSched 0 24
def schedChunkMax (d : Device) : Nat := regField d .cfgSched 24 16
def schedAdmitWait (d : Device) : Nat := regField d .cfgSched 40 8
def schedPoolMove (d : Device) : Nat := regField d .cfgSched 48 5
def schedLengthTable (d : Device) : Bool := regField d .cfgSched 53 1 = 1

/-- The transport retry budget B_t (R292). -/
def retryBudget (d : Device) : Nat := (regField d .fabRetry 24 4 + 1) * regField d .fabRetry 0 24

/-- The smaller of the two step waits (R427). -/
def stepWaitMin (d : Device) : Nat := min (regField d .cfgStepDoneTimeout 0 40) (regField d .cfgStepStartTimeout 0 40)

/-- This device's node and the node count (R324). -/
def nodeId (d : Device) : Nat := regField d .fabNode 0 32
def nodeCount (d : Device) : Nat := regField d .fabNode 32 32

/-! ### What the device can do -/

/-- Whether the device has power and is not held in the power-on reset (R521 to R523). -/
def powered (d : Device) : Bool := d.power.pwrGood && !d.power.inReset

/-- Whether firmware runs and the device has not stopped (R401, R471). -/
def fwRuns (d : Device) : Bool := powered d && d.boot.phase = .running && !d.job.fatal

/-- Whether the device serves work: firmware runs, the configuration is locked (R430), and it is no detached mirror
(R422). -/
def serving (d : Device) : Bool := fwRuns d && d.cfgLocked && !d.twin.retired

/-- Whether a boundary is in progress. -/
def inBoundary (d : Device) : Bool := !d.bnd.ops.isEmpty

/-- Whether this is the mirror of a pair whose SYNC has come (R418, R421). -/
def mirrorSide (d : Device) : Bool :=
  d.twin.state = .mirror || (d.twin.state = .syncing && d.twin.mode = 2 && !d.twin.primary && d.twin.synced)

/-- Whether this is a mirror that has taken over its primary's state: it runs the primary's steps, takes every fabric input from
FORWARD records and sends no frame (R418, R421). -/
def mirrors (d : Device) : Bool := mirrorSide d && d.twin.parked.isNone

/-- Whether cell (g, c) is active (R24). -/
def cellActive (d : Device) (g c : Nat) : Bool := d.active.getLsbD (12 * g + c)

/-- Active cells of a block. -/
def blockCells (d : Device) (g : Nat) : Nat := ((List.range 12).filter (cellActive d g)).length

/-- Active cells of a region. -/
def regionCells (d : Device) (r : Nat) : Nat := ((List.range 16).map fun b => blockCells d (16 * r + b)).foldl (· + ·) 0

/-- The number of cells in a set (R25). -/
def countCells (v : BitVec 1536) : Nat := ((List.range 1536).filter fun i => v.getLsbD i).length

/-! ### Groups (R299) -/

/-- The group record of a number. -/
def groupOf (d : Device) (g : Nat) : Option Group := Tab.find d.role.groups g

/-- Members of the partition; one where group 0 is not defined (R29, R299; notes/assumptions 11). -/
def memberCount (d : Device) : Nat := ((groupOf d 0).map (·.members)).getD 1

/-- This member's rank in the partition. -/
def myRank (d : Device) : Nat := ((groupOf d 0).map (·.myRank)).getD 0

/-- The node of a rank of a group. -/
def nodeOfRank (g : Group) (r : Nat) : Nat := g.nodes.getD r 0

/-- The node of a rank of the partition. -/
def partitionNode (d : Device) (r : Nat) : Nat := ((groupOf d 0).map fun g => nodeOfRank g r).getD (nodeId d)

/-! ### Queues (R379 to R387) -/

/-- The queue of a number. -/
def queueOf (d : Device) (q : Nat) : QState := Tab.getD d.queues q QState.empty

/-- The slabs of a queue. -/
def chainOfQueue (d : Device) (q : Nat) : Chain := Tab.getD d.slabs q { slabs := [], skip := 0, free := [], unused := 0 }

/-- The words that a queue holds. -/
def heldWords (x : QState) : Nat := x.words.length + x.beyond.length

/-- Words appended at the tail: behind a lost next pointer nothing reaches them (R391). -/
def addWords (x : QState) (ws : List QWord) : QState :=
  if x.cut then { x with beyond := x.beyond ++ ws } else { x with words := x.words ++ ws }

/-- Slabs for the tail of a queue, from those reserved for it (R378, R382). DESIGN CHOICE (notes/assumptions 106): those returned
first, then the lowest unused one. -/
def takeSlabs : Nat → Chain → Chain
  | 0, c => c
  | n + 1, c =>
    match c.free with
    | s :: rest => takeSlabs n { c with slabs := c.slabs ++ [s], free := rest }
    | [] => takeSlabs n { c with slabs := c.slabs ++ [c.unused], unused := c.unused + 1 }

/-- The slabs of a queue after its words go from `before` to `after` (R378): words are appended at the tail slab, and a slab
returns once all eight of its words are gone from the head. -/
def fitSlabs (before after : Nat) (c : Chain) : Chain :=
  if before ≤ after then takeSlabs ((c.skip + after + 7) / 8 - c.slabs.length) c
  else
    let gone := c.skip + before - after
    { c with slabs := c.slabs.drop (gone / 8), skip := gone % 8, free := c.free ++ c.slabs.take (gone / 8) }

/-- A queue replaced, with words appended at its tail or gone from its head. -/
def setQueue (q : Nat) (x : QState) (d : Device) : Device :=
  { d with
    queues := Tab.put d.queues q x
    slabs := Tab.put d.slabs q (fitSlabs (heldWords (queueOf d q)) (heldWords x) (chainOfQueue d q)) }

/-- PARITY of a queue word: even parity over DATA, END and TAG (R379). -/
def wordParity (data : W64) (last : Bool) (tag : Nat) : Bool :=
  (((List.range 64).filter data.getLsbD).length + ofBit last + bitsOf tag 0 1 + bitsOf tag 1 1) % 2 == 1

/-- A word as the pool writes it (R379). -/
def queueWord (data : W64) (last : Bool) (tag : Nat) : QWord :=
  { data := data, last := last, tag := tag, parity := wordParity data last tag }

/-- LIMIT of queue q of 129 to 1,023 (R382): firmware's choice, within the 65,536 slabs that are left for the completion queues
(17 each) and for these queues, of which each has LIMIT + 1. -/
def fwLimit (q : Nat) : Nat :=
  min (Config.fwQueueLimit q) (63553 - ((List.range (q - 129)).map fun k => Config.fwQueueLimit (129 + k)).foldl (· + ·) 0)

/-- LIMIT of a queue (R382, R393, R394). -/
def queueLimit (d : Device) (q : Nat) : Nat :=
  if q < 64 then regField d (.queTqCfg (fin64 q)) 40 12
  else if q < 128 then 16
  else if q = 128 then regField d .queEventCfg 32 12
  else fwLimit q

/-- The first slab reserved for a queue (R382): each has LIMIT + 1, in the order of their numbers (notes/assumptions 106). -/
def slabBase (d : Device) (q : Nat) : Nat := ((List.range q).map fun p => queueLimit d p + 1).foldl (· + ·) 0

/-- PKTMAX of a queue (R381). -/
def queuePktMax (q : Nat) : Nat :=
  if q < 64 then 2 else if q < 128 then 4 else if q = 128 then 8 else Config.fwQueuePktMax q

/-- The full behaviours (R384). -/
inductive FullKind where
  | stall | flag | gap
  deriving DecidableEq, Repr

/-- The full behaviour of a queue (R381, R393). -/
def fullKind (d : Device) (q : Nat) : FullKind :=
  if q < 64 then (if regField d (.queTqCfg (fin64 q)) 0 1 = 1 then .gap else .flag)
  else if q = 128 then .gap
  else .stall

/-- Room in words (R383). -/
def queueRoom (d : Device) (q : Nat) : Nat := 8 * queueLimit d q - heldWords (queueOf d q)

/-- Whether a queue is full (R383). -/
def queueFull (d : Device) (q : Nat) : Bool :=
  queueRoom d q < queuePktMax q + (if (queueOf d q).gap = 0 then 0 else 1)

/-- The gap marker of a pending count (R385). -/
def gapMarker (n : Nat) : QWord := queueWord (BitVec.ofNat 64 n) true 3

/-- A queue after it accepts a packet's first word: a pending gap becomes a marker first (R385). -/
def acceptFirst (step : Nat) (x : QState) : QState :=
  if x.gap = 0 then x
  else { addWords x [gapMarker x.gap] with gap := 0, markers := x.markers ++ [step] }

/-- A whole packet handed to a queue (R380, R384). The caller of a STALL queue waits while it is full. -/
def pushPacket (q : Nat) (ws : List W64) (d : Device) : Device :=
  let x := queueOf d q
  if queueFull d q then
    match fullKind d q with
    | .gap => setQueue q { x with gap := min (x.gap + 1) 0xFFFFFFFF } d
    | .flag => setQueue q { x with overrun := true } d
    | .stall => d
  else
    let x := acceptFirst d.job.number x
    let n := ws.length
    setQueue q (addWords x ((ws.zip (List.range n)).map fun p => queueWord p.1 (p.2 + 1 == n) 0)) d

/-! ### Interrupts and events (R372, R404, R405) -/

/-- Whether a PCIe loop-back has the link (R496). -/
def pcieTest (d : Device) : Bool := d.test.busy && d.test.target = 0

/-- A message on a vector (R372): sent where the vector is not masked; a masked one leaves its pending bit, and so does one that
meets a PCIe loop-back, which carries nothing else (R496; notes/assumptions 85). -/
def msix (v : Nat) (d : Device) : Device :=
  let h := d.pcie.host
  if !h.msixEnable then d
  else if h.functionMask || h.vectorMask.getLsbD v || pcieTest d then
    { d with pcie := { d.pcie with pending := d.pcie.pending ||| (1#64 <<< v) } }
  else emit (.msix v) d

/-- The pending messages that nothing masks any more are sent (R372). -/
def sendPending (d : Device) : Device :=
  (List.range 64).foldl (fun d v =>
    if d.pcie.pending.getLsbD v then
      msix v { d with pcie := { d.pcie with pending := d.pcie.pending &&& ~~~(1#64 <<< v) } }
    else d) d

/-- The event kinds of R405. -/
inductive EventKind where
  | corrected | stepFault | agreement | restart | fence | halt | fatal | twin | slotLost
  deriving DecidableEq, Repr

/-- KIND and CODE of an event record (R405). -/
def eventCodes : EventKind → Nat × Nat
  | .corrected => (1, 0x00)
  | .stepFault => (2, 0x21)
  | .agreement => (3, 0x20)
  | .restart => (4, 0x00)
  | .fence => (5, 0x00)
  | .halt => (6, 0x21)
  | .fatal => (7, 0x22)
  | .twin => (8, 0x00)
  | .slotLost => (9, 0x21)

/-- The four words of an event record (R404). -/
def eventWords (d : Device) (k : EventKind) (level block cell step info : Nat) : List W64 :=
  let c := eventCodes k
  [BitVec.ofNat 64 (c.1 + 2 ^ 8 * c.2 + 2 ^ 16 * level + 2 ^ 24 * block + 2 ^ 32 * cell),
   BitVec.ofNat 64 (step % 2 ^ 48), BitVec.ofNat 64 info, BitVec.ofNat 64 (d.job.gen % 2 ^ 32)]

/-- Write an event record; every one but CORRECTED sends a message when it enters the queue (R404, R405). -/
def postEvent (k : EventKind) (level block cell step info : Nat) (d : Device) : Device :=
  let enters := !queueFull d 128
  let d := pushPacket 128 (eventWords d k level block cell step info) d
  if enters && k ≠ .corrected then msix 0 d else d

/-- An event of the whole device. -/
def deviceEvent (k : EventKind) (step info : Nat) (d : Device) : Device := postEvent k 3 0xFF 0xF step info d

/-! ### Counts -/

/-- Discard a stale item (R31). -/
def countStale (d : Device) : Device := { d with errs := { d.errs with stale := satAdd48 d.errs.stale 1 } }

/-- A CORRECTED error: count and record (R406). -/
def countCorrected (level block info : Nat) (d : Device) : Device :=
  postEvent .corrected level block 0xF d.job.number info
    { d with errs := { d.errs with corr := satAdd48 d.errs.corr 1 } }

/-- The count of corrected words by memory (R458). -/
def countCe (a : Nat) (e : Errs) : Errs :=
  if inBlock a then { e with ceBlock := satAdd 16 e.ceBlock 1 }
  else if inHub a then { e with ceHub := satAdd 16 e.ceHub 1 }
  else { e with ceHbm := satAdd 16 e.ceHbm 1 }

/-- The level and block of an event at an address (R404). -/
def placeOfAddr (a : Nat) : Nat × Nat := if inBlock a then (1, blockOf a) else (3, 0xFF)

/-- A corrected word (R449). -/
def noteCorrected (a : Nat) (d : Device) : Device :=
  let p := placeOfAddr a
  countCorrected p.1 p.2 a { d with errs := countCe a d.errs }

/-- An uncorrectable word found: count, and the first address (R450, R460). -/
def noteUncorrectable (a source : Nat) (stack : Bool) (d : Device) : Device :=
  { d with errs := { d.errs with
      ue := min (d.errs.ue + 1) 0xFFFFFFFF
      ueAddr := if d.errs.ueAddr.isSome then d.errs.ueAddr else some (a, source, stack) } }

/-- A read that a stack's own ECC reports as corrected (R446, R461). -/
def countOdecc (a : Nat) (d : Device) : Device :=
  if inHbm a then { d with errs := { d.errs with odecc := d.errs.odecc.modify (stackOf a) fun n => min (n + 1) 0xFFFF } } else d

/-- What an access found, reported (R446, R449): `bad` is what its reader does with an uncorrectable word, each of which an
access finds once (R450). -/
def eachEvent (bad : Nat → Bool → Device → Device) (es : List MemEvent) (d : Device) : Device :=
  let worse := fun (e : MemEvent) => anyUncorrectable [e]
  (es.filter (fun e => !worse e) ++ (es.filter worse).eraseDups).foldl (fun d e =>
    match e with
    | .corrected w => noteCorrected w d
    | .stackCorrected w => countOdecc w d
    | .uncorrectable w stack => bad w stack d) d

/-- Errors that words of a memory have taken (R445, R446) and that a read may meet from now on; only a word of HBM has a stack
to report it. -/
def noteFound (found : Found) (d : Device) : Device :=
  if !powered d then d else found.foldl (fun d e =>
    let w := wordAddr e.1
    let own := e.2.symbols.filter (·.1 < 35)
    let stack := if !inHbm w then [] else
      (if e.2.stackUncorrected then [(stackUncorrected, 1#8)] else []) ++ (if e.2.stackCorrected then [(stackCorrected, 1#8)] else [])
    if (own ++ stack).isEmpty || !inMap w then d
    else { d with mem := { d.mem with upsets := Tab.put d.mem.upsets w (Tab.getD d.mem.upsets w [] ++ own ++ stack) } }) d

end Sys2Proof.Machine
end

