-- ==== Sys2Proof/Machine/Keccak.lean ====
section
/-!
DEFINITION. SHAKE256 and SHA3-512 (FIPS 202), which the manual names in R48, R272, R361, R469 and R476, and CRC-32C,
which it names in R32, R39 and R287.
-/
namespace Sys2Proof.Machine

/-- The permutation's state: five planes, plane y holding the five lanes (x, y) as 64-bit numbers. -/
abbrev Planes := List (List Nat)

/-- A lane turned left by `n` places, `n` below 64: what leaves at the top comes in below. -/
def turnLane (n v : Nat) : Nat :=
  let top := v >>> (64 - n)
  Nat.lor ((v % 2 ^ (64 - n)) <<< n) top

/-- Theta: each lane takes the parities of the column at its left and, turned by one, of the column at its right. -/
def thetaPlanes (s : Planes) : Planes :=
  let parity := s.foldl (List.zipWith Nat.xor) (List.replicate 5 0)
  let effect := List.zipWith Nat.xor (parity.rotateRight 1) ((parity.rotateLeft 1).map (turnLane 1))
  s.map (List.zipWith Nat.xor effect)

/--
Rho and pi as FIPS 202 gives rho, a walk: it starts at lane (1, 0), goes from (x, y) to (y, 2x + 3y), and turns the
lane of its step t by (t + 1)(t + 2)/2. Pi moves each lane to the walk's next place, so what step t picks up is laid
down where step t + 1 stands. The last argument takes the lanes; lane (0, 0) is not on the walk.
-/
def walkLanes (s : Planes) : Nat → Nat → Nat → Nat → Planes → Planes
  | 0, _, _, _, acc => acc
  | left + 1, t, x, y, acc =>
    let x' := y
    let y' := (2 * x + 3 * y) % 5
    let moved := turnLane ((t + 1) * (t + 2) / 2 % 64) ((s.getD y []).getD x 0)
    walkLanes s left (t + 1) x' y' (acc.set y' ((acc.getD y' []).set x' moved))

/-- Chi on one plane: a lane flips where the next lane has a 0 and the one after it a 1. -/
def chiPlane (p : List Nat) : List Nat :=
  List.zipWith Nat.xor p
    (List.zipWith (fun next after => after - Nat.land next after) (p.rotateLeft 1) (p.rotateLeft 2))

/-- One step of FIPS 202's 8-bit feedback register, whose bit 0 is the next bit of the round constants. -/
def roundBit (r : Nat) : Nat := if r < 128 then 2 * r else Nat.xor (2 * r) 0x171

/-- Iota's constant from the register at the round's start: bit j of the sequence is bit 2^j - 1 of the lane. -/
def roundLane (r : Nat) : Nat → Nat → Nat
  | 0, _ => 0
  | left + 1, j => (r % 2) <<< (2 ^ j - 1) + roundLane (roundBit r) left (j + 1)

/-- One round of Keccak-f[1600] on the feedback register and the planes. -/
def keccakRound (st : Nat × Planes) : Nat × Planes :=
  let th := thetaPlanes st.2
  let planes := (walkLanes th 24 0 1 0 th).map chiPlane
  (Nat.repeat roundBit 7 st.1, planes.modifyHead fun p => p.modifyHead (Nat.xor (roundLane st.1 7 0)))

/-- Keccak-f[1600]: 24 rounds, the feedback register starting at 1. -/
def keccakF (s : Planes) : Planes := (Nat.repeat keccakRound 24 (1, s)).2

/-- The planes with a block of the rate exclusive-ored into their first lanes, and permuted. -/
def absorbBlock (s : Planes) (block : List Byte) : Planes :=
  let rows := (pieces 40 5 (padTo 200 block)).map words64
  keccakF (List.zipWith (List.zipWith Nat.xor) s rows)

/-- The padded message: the domain byte, zeros, and the top bit of the last byte of the rate. -/
def keccakPad (rate domain : Nat) (m : List Byte) : List Byte :=
  let z := rate - 1 - m.length % rate
  if z = 0 then m ++ [BitVec.ofNat 8 (domain + 0x80)]
  else m ++ [BitVec.ofNat 8 domain] ++ List.replicate (z - 1) 0#8 ++ [0x80#8]

/-- The sponge over a padded message: one permutation for each block of the rate. -/
def keccakAbsorb (rate domain : Nat) (m : List Byte) : Planes :=
  let p := keccakPad rate domain m
  (pieces rate (p.length / rate) p).foldl absorbBlock (List.replicate 5 (List.replicate 5 0))

/-- `n` blocks of output, the lanes of plane 0 first. -/
def keccakSqueeze (rate : Nat) : Nat → Planes → List Byte
  | 0, _ => []
  | n + 1, s => (s.flatMap fun p => p.flatMap (bytesOfNat 8)).take rate ++ keccakSqueeze rate n (keccakF s)

/-- SHAKE256 with `n` bytes of output. -/
def shake256 (n : Nat) (m : List Byte) : List Byte :=
  (keccakSqueeze 136 (n / 136 + 1) (keccakAbsorb 136 0x1F m)).take n

/-- SHAKE256-256 (R48). -/
def shake256_256 (m : List Byte) : List Byte := shake256 32 m

/-- SHAKE256-512 (R48, R361). -/
def shake256_512 (m : List Byte) : List Byte := shake256 64 m

/-- SHA3-512 (R476, R480). -/
def sha3_512 (m : List Byte) : List Byte := (keccakSqueeze 72 1 (keccakAbsorb 72 0x06 m)).take 64

/-- One bit of CRC-32C, reflected. -/
def crcBit (c : Nat) : Nat := if c % 2 = 1 then Nat.xor (c / 2) 0x82F63B78 else c / 2

/-- One byte of CRC-32C. -/
def crcByte (c : Nat) (b : Byte) : Nat :=
  (List.range 8).foldl (fun c _ => crcBit c) (Nat.xor c b.toNat)

/-- CRC-32C (R32). -/
def crc32c (bs : List Byte) : Nat := Nat.xor (bs.foldl crcByte 0xFFFFFFFF) 0xFFFFFFFF

end Sys2Proof.Machine
end

