-- ==== Sys2Proof/Machine/Ed448.lean ====
section
/-!
DEFINITION. Ed448, pure EdDSA with an empty context (R2, R467, R475, R479, R482): points of the curve
x^2 + y^2 = 1 + d x^2 y^2 over the field of p = 2^448 - 2^224 - 1 elements, encodings of 57 bytes, signatures of 114.
-/
namespace Sys2Proof.Machine

/-- The field prime. -/
def edP : Nat := 2 ^ 448 - 2 ^ 224 - 1

/-- The curve constant d = -39081. -/
def edD : Nat := edP - 39081

/-- The order of the base point. -/
def edL : Nat := 2 ^ 446 - 13818066809895115352007386748515426880336692474882178609894547503885

/-- A point in projective coordinates. -/
structure EdPoint where
  x : Nat
  y : Nat
  z : Nat
  deriving DecidableEq, Repr

/-- The base point. -/
def edBase : EdPoint :=
  { x := 224580040295924300187604334099896036246789641632564134246125461686950415467406032909029192869357953282578032075146446173674602635247710
    y := 298819210078481492676017930443930673437544040154080242095928241372331506189835876003536878655418784733982303233503462500531545062832660
    z := 1 }

/-- The neutral point. -/
def edZero : EdPoint := { x := 0, y := 1, z := 1 }

/-- a - b in the field. -/
def edSub (a b : Nat) : Nat := (a + (edP - b % edP)) % edP

/-- The sum of two points: one formula for every pair. -/
def edAdd (s t : EdPoint) : EdPoint :=
  let a := s.z * t.z % edP
  let b := a * a % edP
  let c := s.x * t.x % edP
  let d := s.y * t.y % edP
  let e := edD * (c * d % edP) % edP
  let f := edSub b e
  let g := (b + e) % edP
  let h := (s.x + s.y) * (t.x + t.y) % edP
  { x := a * f % edP * edSub (edSub h c) d % edP, y := a * g % edP * edSub d c % edP, z := f * g % edP }

/-- k times a point, over the `n` low bits of k. -/
def edMulBits : Nat → Nat → EdPoint → EdPoint → EdPoint
  | 0, _, _, acc => acc
  | n + 1, k, t, acc => edMulBits n (k / 2) (edAdd t t) (if k % 2 = 1 then edAdd acc t else acc)

/-- k times a point, for k below 2^456. -/
def edMul (k : Nat) (t : EdPoint) : EdPoint := edMulBits 456 k t edZero

/-- b^k in the field, over the `n` low bits of k. -/
def edPowBits : Nat → Nat → Nat → Nat → Nat
  | 0, _, _, acc => acc
  | n + 1, b, k, acc => edPowBits n (b * b % edP) (k / 2) (if k % 2 = 1 then acc * b % edP else acc)

/-- b^k in the field, for k below 2^448. -/
def edPow (b k : Nat) : Nat := edPowBits 448 b k 1

/-- The 57-byte encoding of a point: y, and the low bit of x in the top bit. -/
def edEncode (t : EdPoint) : List Byte :=
  let zi := edPow t.z (edP - 2)
  let x := t.x * zi % edP
  let y := t.y * zi % edP
  bytesOfNat 57 (y + 2 ^ 455 * (x % 2))

/-- The point that 57 bytes encode, if they encode one. -/
def edDecode (bs : List Byte) : Option EdPoint :=
  let v := natOfBytes bs
  let sign := v / 2 ^ 455
  let y := v % 2 ^ 455
  if bs.length ≠ 57 || edP ≤ y then none
  else
    let u := edSub (y * y % edP) 1
    let w := edSub (edD * (y * y % edP) % edP) 1
    let w3 := w * w % edP * w % edP
    let u3 := u * u % edP * u % edP
    let u5 := u3 * (u * u % edP) % edP
    let x := u3 * w % edP * edPow (u5 * w3 % edP) ((edP - 3) / 4) % edP
    if w * (x * x % edP) % edP ≠ u then none
    else if x = 0 && sign = 1 then none
    else some { x := if x % 2 = sign then x else edP - x, y := y, z := 1 }

/-- Whether two points are equal. -/
def edSame (s t : EdPoint) : Bool := s.x * t.z % edP = t.x * s.z % edP && s.y * t.z % edP = t.y * s.z % edP

/-- The bytes that every hash of a signature begins with: no prehash, an empty context. -/
def edDom : List Byte := [0x53#8, 0x69#8, 0x67#8, 0x45#8, 0x64#8, 0x34#8, 0x34#8, 0x38#8, 0#8, 0#8]

/-- A number from the hash of a signature. -/
def edHash (m : List Byte) : Nat := natOfBytes (shake256 114 (edDom ++ m))

/-- Whether a signature of 114 bytes over a message verifies under a public key. -/
def edVerify (key msg sig : List Byte) : Bool :=
  let s := natOfBytes (sig.drop 57)
  match edDecode key, edDecode (sig.take 57) with
  | some a, some r =>
    let k := edHash (sig.take 57 ++ key ++ msg) % edL
    sig.length = 114 && s < edL && edSame (edMul (4 * s) edBase) (edAdd (edMul 4 r) (edMul (4 * k) a))
  | _, _ => false

/-- The secret scalar and the second half of the hash of a 57-byte seed. -/
def edSecret (seed : List Byte) : Nat × List Byte :=
  let h := shake256 114 seed
  let v := natOfBytes (h.take 56) % 2 ^ 447
  (v / 4 * 4 + 2 ^ 447, h.drop 57)

/-- The public key of a seed. -/
def edPublic (seed : List Byte) : List Byte := edEncode (edMul (edSecret seed).1 edBase)

/-- The signature over a message with a seed. -/
def edSign (seed msg : List Byte) : List Byte :=
  let a := edSecret seed
  let key := edPublic seed
  let r := edHash (a.2 ++ msg) % edL
  let rb := edEncode (edMul r edBase)
  let k := edHash (rb ++ key ++ msg) % edL
  rb ++ bytesOfNat 57 ((r + k * a.1) % edL)

end Sys2Proof.Machine
end

