-- ==== Sys2Proof/Machine/Attest.lean ====
section
/-!
DEFINITION. Identity and attestation (R475 to R480): keys, certificates, measurements, the report, the SPDM answer that
carries measurements.
-/
namespace Sys2Proof.Machine

/-! ### Life-cycle and keys (R475, R481) -/

/-- The code of a life-cycle state (R481). -/
def lifecycleCode : Lifecycle → Nat
  | .blank => 0 | .test => 1 | .field => 2 | .returned => 3 | .scrap => 4

/-- The class byte of a state (R475); none in BLANK and SCRAP. -/
def classByte : Lifecycle → Option Byte
  | .field => some 0x01#8
  | .test => some 0x02#8
  | .returned => some 0x03#8
  | .blank | .scrap => none

/-- The seed of the identity key (R475). -/
def identitySeed (secret : List Byte) (cls : Byte) : List Byte := (shake256 57 (secret ++ [cls]))

/-- The seed of the alias key (R475). -/
def aliasSeedOf (secret : List Byte) (cls : Byte) (measurement : List Byte) : List Byte :=
  shake256 57 (secret ++ [cls] ++ measurement)

/-! ### Certificates (R2, R476) -/

/-- The bytes of a number, highest first, with none left out that matters. -/
def bigEndian : Nat → Nat → List Byte
  | 0, _ => []
  | n + 1, v => if v = 0 then [] else bigEndian n (v / 256) ++ [BitVec.ofNat 8 v]

/-- A length in DER (X.690). -/
def derLength (n : Nat) : List Byte :=
  if n < 0x80 then [BitVec.ofNat 8 n]
  else let b := bigEndian 8 n; BitVec.ofNat 8 (0x80 + b.length) :: b

/-- A DER value: tag, length, contents. -/
def der (tag : Byte) (contents : List Byte) : List Byte := tag :: derLength contents.length ++ contents

/-- The universal types that a certificate is built of. -/
def derSequence (parts : List (List Byte)) : List Byte := der 0x30#8 parts.flatten
def derInteger (contents : List Byte) : List Byte := der 0x02#8 contents
def derBits (bs : List Byte) : List Byte := der 0x03#8 (0#8 :: bs)
def derOctets (bs : List Byte) : List Byte := der 0x04#8 bs
def derOid (contents : List Byte) : List Byte := der 0x06#8 contents

/-- The AlgorithmIdentifier of Ed448, 1.3.101.113 without parameters (RFC 8410). -/
def ed448Id : List Byte := derSequence [derOid [0x2B#8, 0x65#8, 0x71#8]]

/-- The SubjectPublicKeyInfo of an Ed448 key (RFC 8410). -/
def keyInfo (key : List Byte) : List Byte := derSequence [ed448Id, derBits key]

/-- The extension of an alias certificate (R476): the firmware measurement and the running SVN. DESIGN CHOICE (notes/assumptions
117): SEQUENCE of an OCTET STRING and an INTEGER. -/
def measurementExtension (measurement : List Byte) (svn : Nat) : List Byte :=
  derSequence [derOid Config.measurementOid,
    derOctets (derSequence [derOctets measurement, derInteger [BitVec.ofNat 8 svn]])]

/-- The TBSCertificate of X.509 v3 (RFC 5280) for a public key that another key's holder certifies. -/
def toBeSigned (key issuerKey : List Byte) (extensions : List Byte) : List Byte :=
  derSequence [der 0xA0#8 (derInteger [2#8]), derInteger (Config.certSerial key), ed448Id, Config.certName issuerKey,
    Config.certValidity key, Config.certName key, keyInfo key,
    der 0xA3#8 (derSequence [Config.certExtensions key, extensions])]

/-- A certificate for a public key, signed with the seed of its issuer. -/
def certificate (key issuerSeed extensions : List Byte) : List Byte :=
  let tbs := toBeSigned key (edPublic issuerSeed) extensions
  derSequence [tbs, ed448Id, derBits (edSign issuerSeed tbs)]

/-- The Stavnis root certificate, the device CA's, and the identity certificate that the device CA issues (R476). -/
def rootCert : List Byte := certificate (edPublic Config.rootSeed) Config.rootSeed []
def deviceCaCert : List Byte := certificate (edPublic Config.deviceCaSeed) Config.rootSeed []
def identityCert (secret : List Byte) : List Byte :=
  certificate (edPublic (identitySeed secret 0x01#8)) Config.deviceCaSeed []

/-- The bytes of the DER value at the front of a list: tag, length, contents. -/
def derFirst (bs : List Byte) : List Byte :=
  let l := field bs 1 1
  if l < 0x80 then bs.take (2 + l)
  else
    let n := l - 0x80
    bs.take (2 + n + ((bs.drop 2).take n).foldl (fun v b => 256 * v + b.toNat) 0)

/-- The SPDM CertChain of certificates: length, the hash of the root certificate, the certificates (R476; the layout is
SPDM's). -/
def certChain (certs : List Byte) : List Byte :=
  bytesOfNat 2 (68 + certs.length) ++ bytesOfNat 2 0 ++ sha3_512 (derFirst certs) ++ certs

/-- The slot 0 chain at step 9 of R471 (R476). -/
def chainOf (f : Fuses) (cls : Byte) (measurement : List Byte) (svn : Nat) : List Byte :=
  let id := identitySeed f.secret cls
  let leaf := certificate (edPublic (aliasSeedOf f.secret cls measurement)) id (measurementExtension measurement svn)
  if f.lifecycle = .field then certChain (rootCert ++ deviceCaCert ++ f.certs ++ leaf)
  else certChain (certificate (edPublic id) id [] ++ leaf)

/-! ### Measurements (R478) -/

/-- 64 zero bytes. -/
def zero64 : List Byte := List.replicate 64 0#8

/-- The measurement of an index 1 to 5. -/
def measurementOf (d : Device) (i : Nat) : List Byte :=
  if i = 1 then shake256_512 Config.romContents
  else if i = 2 then padTo 64 d.boot.measurement
  else if i = 3 then shake256_512 (bytesOfNat 1 (lifecycleCode d.fuses.lifecycle) ++ bytesOfNat 4 d.fuses.svn)
  else if i = 4 then padTo 64 (d.loaded.modelDigest.getD zero64)
  else padTo 64 ((d.loaded.sentence.map (·.digest)).getD zero64)

/-! ### The report (R479) -/

/-- Bytes 0 to 367 of the report. -/
def reportBody (d : Device) : List Byte :=
  let nonce := (List.finRange 4).flatMap fun n => bytesOfNat 8 (regGet d (.lcsNonce n)).toNat
  bytesOfNat 2 1 ++ bytesOfNat 2 (lifecycleCode d.fuses.lifecycle) ++ bytesOfNat 4 d.fuses.svn ++
    bytesOfNat 8 d.fuses.serial.toNat ++ nonce ++ (List.range 5).flatMap fun i => measurementOf d (i + 1)

/-- The report of 512 bytes, signed by the alias key. -/
def reportBytes (d : Device) : List Byte := padTo 512 (reportBody d ++ edSign d.boot.aliasSeed (reportBody d))

/-- Write the report to LCS_REPORT_DST. -/
def writeReport (d : Device) : Device :=
  emit (.hostWrite (regField d .lcsReportDst 9 55 * 512) (reportBytes d)) d

/-! ### GET_MEASUREMENTS (R480) -/

/-- ERROR with a code and its data. -/
def spdmError (code data : Nat) (d : Device) : Device := emit (.doe [0x13#8, 0x7F#8, BitVec.ofNat 8 code, BitVec.ofNat 8 data]) d

/-- The codes InvalidRequest, UnexpectedRequest and UnsupportedRequest of SPDM. -/
def spdmInvalid : Nat := 0x01
def spdmUnexpected : Nat := 0x04
def spdmUnsupported : Nat := 0x07

/-- DMTFSpecMeasurementValueType of an index: ROM, firmware, then configurations, each with the raw bit. -/
def measurementType (i : Nat) : Nat := 0x80 + (if i = 1 then 0 else if i = 2 then 1 else if i = 3 then 2 else 3)

/-- A measurement block. -/
def measurementBlock (d : Device) (i : Nat) : List Byte :=
  let v := measurementOf d i
  bytesOfNat 1 i ++ bytesOfNat 1 1 ++ bytesOfNat 2 (3 + v.length) ++ bytesOfNat 1 (measurementType i) ++
    bytesOfNat 2 v.length ++ v

/-- Random bytes of the responder (R4). -/
def nonceBytes : Nat → Device → List Byte × Device
  | 0, d => ([], d)
  | n + 1, d =>
    let t := takeFree d
    let r := nonceBytes n t.2
    (BitVec.ofNat 8 t.1 :: r.1, r.2)

/-- The text that an SPDM 1.3 signature over measurements begins with: the version four times, zeros, the purpose. -/
def spdmSigningText : List Byte :=
  let ver := "dmtf-spdm-v1.3.*".toList
  let purpose := "responder-measurements signing".toList
  let bytes := fun (cs : List Char) => cs.map fun c => BitVec.ofNat 8 c.toNat
  bytes (ver ++ ver ++ ver ++ ver) ++ List.replicate (36 - purpose.length) 0#8 ++ bytes purpose

/-- The RequesterContext of a GET_MEASUREMENTS request: behind the nonce and the slot number of a signed one. -/
def requesterContext (signed : Bool) (msg : List Byte) : List Byte := padTo 8 (slice msg (if signed then 37 else 4) 8)

/-- The MEASUREMENTS response to a request: index 0 for the count, 0xFF for all. Only slot 0 holds a key that signs (R480). -/
def answerMeasurements (index : Nat) (signed : Bool) (msg : List Byte) (d : Device) : Device :=
  if (index ≠ 0xFF && 5 < index) || (signed && field msg 36 1 % 16 ≠ 0) then spdmError spdmInvalid 0 d
  else
    let is := if index = 0 then [] else if index = 0xFF then [1, 2, 3, 4, 5] else [index]
    let rec' := is.flatMap (measurementBlock d)
    let r := nonceBytes 32 d
    let body := [0x13#8, 0x60#8, BitVec.ofNat 8 (if index = 0 then 5 else 0), 0#8] ++ bytesOfNat 1 is.length ++
      bytesOfNat 3 rec'.length ++ rec' ++ r.1 ++ bytesOfNat 2 0 ++ requesterContext signed msg
    let log := d.boot.measured ++ msg ++ body
    let text := spdmSigningText ++ sha3_512 (d.boot.transcript ++ log)
    emit (.doe (if signed then body ++ edSign d.boot.aliasSeed text else body))
      { r.2 with boot := { r.2.boot with measured := if signed then [] else log } }

/-- What waited for the end of a boundary (R479, R480). DESIGN CHOICE (notes/assumptions 119): the end that a FATAL error gives the
boundary is such an end. -/
def serveWaiting (d : Device) : Device :=
  let d := if d.boot.reportPending then writeReport { d with boot := { d.boot with reportPending := false } } else d
  match d.boot.measWaiting with
  | some w => answerMeasurements w.1 w.2.1 w.2.2 { d with boot := { d.boot with measWaiting := none } }
  | none => d

end Sys2Proof.Machine
end

