-- ==== Sys2Proof/Machine/Complete.lean ====
section
/-!
DEFINITION. Completion records (R366, R368), the fields of descriptors (R356), and how the device stops at a FATAL error
(R401, R402).
-/
namespace Sys2Proof.Machine

/-! ### Descriptor fields (R356) -/

def opcodeOf (f : Fetched) : Nat := descField f.desc 0 0 8
def cqOf (f : Fetched) : Nat := descField f.desc 1 0 6
def handleOf (f : Fetched) : Nat := descField f.desc 4 0 32
def tagOf (f : Fetched) : W64 := BitVec.ofNat 64 (descField f.desc 8 0 64)

/-! ### Roles (R424, R425) -/

/-- The own role and the taken role change places. -/
def swapRoles (d : Device) : Device :=
  match d.twin.taken with
  | none => d
  | some r => { d with role := r, twin := { d.twin with taken := some d.role }, onTaken := !d.onTaken }

/-- Work of the own role, whichever role's turn it is: the taken role exports nothing (R425). -/
def ownTurn (f : Device → Device) (d : Device) : Device := if d.onTaken then swapRoles (f (swapRoles d)) else f d

/-- The device with its own role in its place. -/
def toOwn (d : Device) : Device := if d.onTaken then swapRoles d else d

/-! ### Completion codes -/

def codeOk : Nat := 0x00
def codeLate : Nat := 0x01
def codeCancelled : Nat := 0x02
def codePaused : Nat := 0x03
def codeBad : Nat := 0x10
def codeNoSlot : Nat := 0x11
def codeAgreement : Nat := 0x20
def codeStepFault : Nat := 0x21
def codeFatal : Nat := 0x22

/-- The four words of a completion record (R366). -/
def completionWords (code opcode kind xstatus handle : Nat) (tag : W64) (step result : Nat) : List W64 :=
  [BitVec.ofNat 64 (code + 2 ^ 8 * opcode + 2 ^ 16 * kind + 2 ^ 24 * xstatus + 2 ^ 32 * handle), tag,
   BitVec.ofNat 64 (step % 2 ^ 48), BitVec.ofNat 64 result]

/-- Whether completion ring n is enabled. -/
def cqEnabled (d : Device) (n : Nat) : Bool := (ringCfg d (.hifCq (fin64 n))).en

/-- The completion ring that a descriptor's completion goes to (R357). -/
def cqFor (d : Device) (n : Nat) : Nat := if cqEnabled d n then n else 0

/-- Hand over waiting packets in order while their queues have room (R368, R384). -/
def flushList : List (Nat × List W64) → Device → Device
  | [], d => { d with bnd := { d.bnd with posting := [] } }
  | (q, ws) :: t, d =>
    if queueFull d q && fullKind d q = .stall then { d with bnd := { d.bnd with posting := (q, ws) :: t } }
    else flushList t (pushPacket q ws d)

/-- Hand over the packets that wait. -/
def flushPosting (d : Device) : Device := flushList d.bnd.posting d

/-- Whether a boundary of the twin runs on the shadow (R420): what it releases is kept, not written. -/
def shadowing (d : Device) : Bool := d.onTaken && d.twin.state ≠ .split

/-- A packet that waits for its queue. -/
def postPacket (q : Nat) (ws : List W64) (d : Device) : Device :=
  { d with bnd := { d.bnd with posting := d.bnd.posting ++ [(q, ws)] } }

/-- A packet noted among those that the own role's boundary releases (R426). -/
def noteReleased (q : Nat) (ws : List W64) (d : Device) : Device :=
  if d.bnd.ops.isEmpty || d.onTaken then d
  else { d with bnd := { d.bnd with released := d.bnd.released ++ [(q, ws)] } }

/-- A completion record enters the queue of its ring, after those that wait (R368); the taken role's ring q is ring
32 + q (R425). -/
def complete (cq code opcode kind xstatus handle : Nat) (tag : W64) (step result : Nat) (d : Device) : Device :=
  let ws := completionWords code opcode kind xstatus handle tag step result
  if shadowing d then postPacket (64 + cq) ws d
  else
    let ring := if d.onTaken && kind ≠ 2 then (cq + 32) % 64 else cq
    flushPosting (postPacket (64 + cqFor d ring) ws (noteReleased (64 + cq) ws d))

/-- The completion of a descriptor (KIND 0) at the boundary of step `step`. -/
def completeDesc (f : Fetched) (code handle step result : Nat) (d : Device) : Device :=
  complete (cqOf f) code (opcodeOf f) 0 0 handle (tagOf f) step result d

/-- An event completion of a request (KIND 1). -/
def completeReq (q : Request) (code xstatus step result : Nat) (d : Device) : Device :=
  complete q.cq.val code 0x10 1 xstatus (q.gen * 2 ^ 14 + q.slot) q.tag step result d

/-! ### FATAL (R401, R402) -/

/-- Descriptors that a boundary in progress has not applied yet: those admitted, until action 4 begins, then those left. -/
def boundaryDescs (b : Boundary) : List Fetched :=
  (if b.ops.contains .edits then b.admitted else []) ++ b.ops.filterMap fun o => match o with
    | .apply f | .haltApply f | .restart f => some f
    | _ => none

/-- The waiting descriptors of a role: held submits and held resumes. -/
def roleDescs (r : Role) : List Fetched :=
  r.held.map (·.fetched) ++ r.reqs.flatMap (fun e => e.2.heldResumes)

/-- Whether a fetched descriptor belongs to the taken role: in SPLIT, those of work rings 32 to 63 (R425). -/
def ofTaken (d : Device) (f : Fetched) : Bool := d.twin.state = .split && 32 ≤ f.ring.val

/-- The turn of one role. -/
def inTurn (taken : Bool) (f : Device → Device) (d : Device) : Device :=
  if d.twin.taken.isNone || d.onTaken = taken then f d else swapRoles (f (swapRoles d))

/-- Every descriptor that the device holds and has not completed, and whether it is the taken role's. -/
def pendingDescs (d : Device) : List (Bool × Fetched) :=
  (boundaryDescs d.bnd ++ d.hif.fetched ++ d.hif.queries).map (fun f => (ofTaken d f, f)) ++
    (roleDescs d.role).map (fun f => (d.onTaken, f)) ++
    ((d.twin.taken.map roleDescs).getD []).map fun f => (!d.onTaken, f)

/-- The request handle that a descriptor names, for its completion (R366). -/
def namedHandle (f : Fetched) : Nat :=
  if (0x11 ≤ opcodeOf f && opcodeOf f ≤ 0x14) || opcodeOf f = 0x60 then handleOf f else 0

/-- The device stops at an error of a level: every pending descriptor, an active STEP_LOG and an unfinished TWIN_ATTACH among
them, completes with DEVICE_FATAL on the ring of its role (R425); the ports go down, which DOWN_EVT shows (R322, R401), and PHASE
is HALTED, which only a reset leaves (R473). It ends a boundary in progress, so what waited for the boundary's end is served
(R480). -/
def fatalAt (level block info : Nat) (d : Device) : Device :=
  if d.job.fatal then d
  else
    let descs := pendingDescs d
    let n := d.job.number
    let d := postEvent .fatal level block 0xF n info d
    let d := descs.foldl (fun d f => inTurn f.1 (completeDesc f.2 codeFatal (namedHandle f.2) n 0) d) d
    let d := if d.hif.log.mode = 0 then d
      else inTurn false (complete d.hif.log.cq codeFatal 0x50 0 0 0 d.hif.log.tag n 0) d
    let d := if d.twin.state = .attaching || d.twin.state = .syncing then
        complete d.twin.cq codeFatal 0x41 0 0 0 d.twin.tag n 0 d
      else d
    serveWaiting { d with
      job := { d.job with fatal := true, halted := true }
      boot := { d.boot with phase := .halted, loading := none }
      work := Work.idle
      bnd := { Boundary.none with posting := d.bnd.posting }
      hif := { d.hif with fetched := [], queries := [], log := { d.hif.log with mode := 0 } }
      role := { d.role with held := [] }
      twin := { d.twin with taken := d.twin.taken.map fun r => { r with held := [] } }
      fab := { d.fab with up := 0#8, downEvt := d.fab.downEvt ||| d.fab.up, twinUp := false } }

/-- The whole device stops. -/
def goFatal (info : Nat) (d : Device) : Device := fatalAt 3 0xFF info d

end Sys2Proof.Machine
end

