-- ==== Sys2Proof/Machine/Queues.lean ====
section
/-!
DEFINITION. The queue pool and the drain engine (R378 to R392): packets arriving, the rings in host memory and the status
page (R350, R351), unread timeouts, consumer commands, and the pool's errors.
-/
namespace Sys2Proof.Machine

/-! ### Host rings (R349 to R351) -/

/-- Entries of a ring. -/
def ringSize (c : RingCfg) : Nat := 2 ^ c.log2

/-- Entries that a ring has room for (R386); a disabled ring has none. -/
def ringRoom (c : RingCfg) (prod cons : Nat) : Nat :=
  if c.en then ringSize c - (prod + 2 ^ 32 - cons) % 2 ^ 32 else 0

/-- Write one count of the status page and, with it, the copy of CFG_STEP_NUMBER (R350, R351). -/
def statusWrite (off v : Nat) (d : Device) : Device :=
  let stepWord := d.job.number + 2 ^ 63 * ofBit d.job.inFlight
  emitAll [.hostWrite (statusBase d + off) (bytesOfNat 8 v), .hostWrite (statusBase d + 1544) (bytesOfNat 8 stepWord)] d

/-- Room of completion ring n. -/
def cqRoom (d : Device) (n : Nat) : Nat :=
  ringRoom (ringCfg d (.hifCq (fin64 n))) (Tab.getD d.hif.cqProd n 0) (Tab.getD d.hif.cqCons n 0)

/-- Room of token ring n. -/
def tqRoom (d : Device) (n : Nat) : Nat :=
  ringRoom (ringCfg d (.hifTq (fin64 n))) (Tab.getD d.hif.tqProd n 0) (Tab.getD d.hif.tqCons n 0)

/-- Host address of entry `count` of a ring (R350). -/
def ringEntry (c : RingCfg) (count size : Nat) : Nat := c.base + count % ringSize c * size

/-! ### Packets (R379, R380) -/

/-- The whole packets of a queue's words and the words of a packet that has no END yet. -/
def splitPackets : List QWord → List (List QWord) × List QWord
  | [] => ([], [])
  | w :: t =>
    let r := splitPackets t
    if w.last then ([w] :: r.1, r.2)
    else
      match r.1 with
      | [] => ([], w :: r.2)
      | p :: ps => ((w :: p) :: ps, r.2)

/-- Whole packets that a queue holds. -/
def packetsOf (x : QState) : List (List QWord) := (splitPackets x.words).1

/-- Whether some word is poisoned (R391). -/
def poisoned (p : List QWord) : Bool := p.any fun w => w.tag = 1 || w.tag = 2

/-- Whether the packet is a gap marker (R385). -/
def isMarker (p : List QWord) : Bool := p.any fun w => w.tag = 3

/-- The bytes of a packet's words. -/
def packetBytes (p : List QWord) : List Byte := p.flatMap fun w => bytesOfNat 8 w.data.toNat

/-- A gap record (R387): HANDLE 0, INDEX the count, TOKEN 0, flags 0, STEP. -/
def gapRecord (count step : Nat) : List Byte :=
  bytesOfNat 4 0 ++ bytesOfNat 4 count ++ bytesOfNat 4 0 ++ bytesOfNat 2 0 ++ bytesOfNat 2 step

/-! ### Words arriving (R384, R389) -/

/-- Words of a producer's packet that have come once one more has: none are open after an END. -/
def wordsSoFar (n : Nat) (last : Bool) : Nat := if last then 0 else n + 1

/-- The queue after one word of its producer; `none` where the producer of a STALL queue waits. -/
def acceptWord (d : Device) (q : Nat) (w : QIn) : Option QState :=
  let x := queueOf d q
  let word := queueWord w.data w.last (if w.bad then 1 else 0)
  let begun := wordsSoFar x.begun w.last
  if x.swallow then some { x with swallow := !w.last, begun := begun }
  else if x.refusing then some { x with refusing := !w.last, begun := begun }
  else if 0 < x.begun then some { addWords x [word] with begun := begun }
  else if queueFull d q then
    match fullKind d q with
    | .stall => none
    | .flag => some { x with overrun := true, refusing := !w.last, begun := begun }
    | .gap => some { x with gap := min (x.gap + 1) 0xFFFFFFFF, refusing := !w.last, begun := begun }
  else
    some { addWords (acceptFirst d.job.number x) [word] with begun := begun }

/-- Words that the producer of a queue holds back, behind those that it holds back already. -/
def holdBack (q : Nat) (ws : List QIn) (d : Device) : Device :=
  let x := queueOf d q
  if ws.isEmpty then d else setQueue q { x with port := x.port ++ ws } d

/-- Words of one producer in order; at a full STALL queue it waits with the rest, and nothing is lost (R384). -/
def acceptWords (q : Nat) : List QIn → Device → Device
  | [], d => d
  | w :: t, d =>
    match acceptWord d q w with
    | some x => acceptWords q t (setQueue q x d)
    | none => holdBack q (w :: t) d

/-- After words have left a queue: its producer goes on with those that it held back. -/
def refill (q : Nat) (d : Device) : Device :=
  let x := queueOf d q
  if x.port.isEmpty then d else acceptWords q x.port (setQueue q { x with port := [] } d)

/-- The words of the last packet of a producer that has no END yet: those that came, and those that it holds back. -/
def openWords (x : QState) : Nat := x.port.foldl (fun n w => wordsSoFar n w.last) x.begun

/-- Whether some packet that the words continue or begin is longer than PKTMAX; `n` words of it are there. -/
def overlong (pktMax : Nat) : Nat → List QIn → Bool
  | _, [] => false
  | n, w :: t => decide (pktMax < n + 1) || overlong pktMax (wordsSoFar n w.last) t

/-- Whether the words are one whole packet. -/
def wholePacket (ws : List QIn) : Bool := !ws.isEmpty && ((ws.map (·.last)).dropLast.all (!·)) && (ws.getLast?.map (·.last)).getD false

/-- Whether words can arrive at a queue (R380): queues 0 to 128 take whole packets, and no packet is longer than PKTMAX. -/
def canArrive (d : Device) (q : Nat) (ws : List QIn) : Bool :=
  (128 < q || wholePacket ws) && !overlong (queuePktMax q) (openWords (queueOf d q)) ws

/-- The message that an event record sends when it enters queue 128 (R405): a packet whose KIND is not CORRECTED. -/
def eventMessage (before : Nat) (ws : List QIn) (d : Device) : Device :=
  let entered := before < heldWords (queueOf d 128)
  let kind := (ws.head?.map fun w => w.data.toNat % 256).getD 1
  whenD (entered && kind ≠ 1) (msix 0) d

/-- QUEUE_PACKET (R380, R384): the words of packets arrive at a queue, after those that their producer holds back. DESIGN CHOICE
(notes/assumptions 111): words that R380 excludes do not arrive. -/
def devQueuePacket (q : Fin 1024) (ws : List QIn) (d : Device) : Device :=
  if !powered d || !canArrive d q.val ws then d
  else if !(queueOf d q.val).port.isEmpty then holdBack q.val ws d
  else
    let before := heldWords (queueOf d q.val)
    let d := acceptWords q.val ws d
    if q.val = 128 then eventMessage before ws d else d

/-- QUEUE_PACKET. -/
def execQueuePacket (q : Fin 1024) (ws : List QIn) (s : State) : Host.Outcome State Fault Refusal :=
  lift (devQueuePacket q ws) s

/-- The marker steps of the words that remain: a queue's markers belong to its last marker words. -/
def keepMarkers (x : QState) (ws : List QWord) : List Nat :=
  x.markers.drop (x.markers.length - ((ws ++ x.beyond).filter (fun w => w.tag = 3)).length)

/-- A queue that holds only the words given. -/
def withWords (x : QState) (ws : List QWord) : QState := { x with words := ws, markers := keepMarkers x ws }

/-! ### Errors of the pool (R391) -/

/-- A word that failed its parity: TAG POISON_POOL, DATA and END free values. -/
def poisonWord (ctr : Nat) (w : QWord) : QWord :=
  { w with data := BitVec.ofNat 64 (Config.free ctr), last := bitOf (Config.free (ctr + 1)) 0, tag := 2 }

/-- The words whose numbers are listed, poisoned. -/
def poisonWords (ctr : Nat) (bad : List Nat) (ws : List QWord) : List QWord :=
  (ws.zip (List.range ws.length)).map fun p => if bad.contains p.2 then poisonWord (ctr + 2 * p.2) p.1 else p.1

/-- The steps of the markers that are not poisoned: walks the words with the markers' steps. -/
def goodMarkers (bad : List Nat) : List (QWord × Nat) → List Nat → List Nat
  | [], ms => ms
  | (w, k) :: t, ms =>
    if w.tag = 3 then
      (if bad.contains k then goodMarkers bad t (ms.drop 1) else ms.headD 0 :: goodMarkers bad t (ms.drop 1))
    else goodMarkers bad t ms

/-- The words that a queue has in front of a next pointer of which both copies fail, where one of its slabs has that pointer. -/
def lostAt (d : Device) (q : Nat) (rd : PoolRead) : Option Nat :=
  (rd.lost.map fun k => 8 * (k + 1) - (chainOfQueue d q).skip).filter (· < (queueOf d q).words.length)

/-- A queue whose words after the first `n` nothing reaches any more. -/
def cutQueue (n : Nat) (x : QState) : QState :=
  { x with words := x.words.take n, beyond := x.words.drop n ++ x.beyond, cut := true }

/-- What the pool found while it read a queue: poisoned words and pointer errors, with their counts. Where both copies
of a pointer fail, the words after it cannot be reached, and the device stops. -/
def poolRead (q : Nat) (rd : PoolRead) (d : Device) : Device :=
  let x := queueOf d q
  let bad := rd.words.filter (· < x.words.length)
  let lost := lostAt d q rd
  let x := { x with
    words := poisonWords d.freeCtr bad x.words
    markers := goodMarkers bad (x.words.zip (List.range x.words.length)) x.markers }
  let d := { setQueue q (match lost with
      | some n => cutQueue n x
      | none => x) d with
    freeCtr := if bad.isEmpty then d.freeCtr else d.freeCtr + 2 * x.words.length
    errs := { d.errs with
      parityWords := satAdd 32 d.errs.parityWords bad.length
      parityPointer := satAdd 16 d.errs.parityPointer (rd.pointers + 2 * ofBit lost.isSome) } }
  let d := (List.replicate rd.pointers ()).foldl (fun d _ => countCorrected 3 0xFF 0 d) d
  if lost.isSome then goFatal 0 d else d

/-- One stored copy of a next pointer: 17 bits and their even parity (R378). -/
def pointerCopy (next : Nat) : BitVec 18 :=
  BitVec.ofNat 18 (next % 2 ^ 17 + 2 ^ 17 * (((List.range 17).filter (bitOf next)).length % 2))

/-- The next pointers of slabs in order: each but the last names the slab after it, in two copies (R378). -/
def nextPointers : List Nat → List (Nat × BitVec 18 × BitVec 18)
  | a :: b :: t => (a, pointerCopy b, pointerCopy b) :: nextPointers (b :: t)
  | _ => []

/-- The next pointers that the pool holds for a queue. -/
def queuePointers (d : Device) (q : Nat) : List (Nat × BitVec 18 × BitVec 18) :=
  nextPointers ((chainOfQueue d q).slabs.map (slabBase d q + ·))

/-! ### The drain engine (R386, R387) -/

/-- The record of one token packet, the marker steps left, and the device. -/
def tokenRecord (p : List QWord) (markers : List Nat) (d : Device) : List Byte × List Nat × Device :=
  if poisoned p then
    let t := takeFree d
    (gapRecord 1 t.1, markers.drop (p.filter (·.tag = 3)).length, t.2)
  else if isMarker p then
    (gapRecord ((p.head?.map fun w => w.data.toNat).getD 0) (markers.headD 0), markers.drop 1, d)
  else (padTo 16 (packetBytes p), markers, d)

/-- After a record of a ring: the status page and the message on the ring's vector (R351, R372, R386). -/
def ringDone (off prod vec : Nat) (d : Device) : Device :=
  let d := statusWrite off prod d
  whenD (vec ≠ 0) (msix vec) d

/-- Write token records in order to ring n. -/
def writeTokens (n : Nat) : List (List QWord) → Device → Device
  | [], d => d
  | p :: t, d =>
    let x := queueOf d n
    let r := tokenRecord p x.markers d
    let d := setQueue n { x with words := x.words.drop p.length, markers := r.2.1 } r.2.2
    let c := ringCfg d (.hifTq (fin64 n))
    let prod := Tab.getD d.hif.tqProd n 0
    let next := (prod + 1) % 2 ^ 32
    let d := emit (.hostWrite (ringEntry c prod 16) r.1) d
    writeTokens n t (ringDone (1024 + 8 * n) next c.vec { d with hif := { d.hif with tqProd := Tab.put d.hif.tqProd n next } })

/-- Drain token queue n: every whole packet for which the ring has room (R386). -/
def drainTokens (n : Nat) (d : Device) : Device :=
  refill n (writeTokens n ((packetsOf (queueOf d n)).take (tqRoom d n)) d)

/-- Write completion records in order to ring n; a poisoned packet becomes a DEVICE_FATAL record and stops the device
(R387); a DEVICE_FATAL record sends a message on vector 0 (R372). -/
def writeCompletions (n : Nat) : List (List QWord) → Device → Device
  | [], d => d
  | p :: t, d =>
    let x := queueOf d (64 + n)
    let bad := poisoned p
    let bytes := if bad then bytesOfNat 32 codeFatal else padTo 32 (packetBytes p)
    let d := setQueue (64 + n) { x with words := x.words.drop p.length } d
    let c := ringCfg d (.hifCq (fin64 n))
    let prod := Tab.getD d.hif.cqProd n 0
    let d := emit (.hostWrite (ringEntry c prod 32) bytes) d
    let next := (prod + 1) % 2 ^ 32
    let d := ringDone (512 + 8 * n) next c.vec { d with hif := { d.hif with cqProd := Tab.put d.hif.cqProd n next } }
    let d := if field bytes 0 1 = codeFatal then msix 0 d else d
    writeCompletions n t (if bad then goFatal 0 d else d)

/-- Drain completion queue of ring n (R386); the packets that waited for room in it follow. -/
def drainCompletions (n : Nat) (d : Device) : Device :=
  refill (64 + n) (writeCompletions n ((packetsOf (queueOf d (64 + n))).take (cqRoom d n)) d)

/-- Whether the batch condition of a token queue holds (R386). -/
def batchReady (d : Device) (n : Nat) : Bool :=
  let batch := regField d (.queTqCfg (fin64 n)) 1 6
  batch ≤ (packetsOf (queueOf d n)).length && batch ≤ tqRoom d n

/-- Whether the drain engine takes packets from a queue (R386). -/
def drainReady (d : Device) (q : Nat) : Bool :=
  if q < 64 then batchReady d q else !(packetsOf (queueOf d q)).isEmpty && 0 < cqRoom d (q - 64)

/-- DRAIN (R386): rings are written once the configuration is locked, and words are read where packets are taken. -/
def devDrain (q : Fin 128) (rd : PoolRead) (d : Device) : Device :=
  if !powered d || !d.cfgLocked || !drainReady d q.val then d
  else
    let d := poolRead q.val rd d
    if q.val < 64 then drainTokens q.val d else drainCompletions (q.val - 64) d

/-- DRAIN. -/
def execDrain (q : Fin 128) (rd : PoolRead) (s : State) : Host.Outcome State Fault Refusal := lift (devDrain q rd) s

/-- UNREAD_TIMEOUT (R388): a token queue with a whole packet and room in its ring drains; queue 128 with a whole packet
sends a message; a completion queue has no timeout. -/
def devUnreadTimeout (q : Fin 129) (rd : PoolRead) (d : Device) : Device :=
  let due := !(packetsOf (queueOf d q.val)).isEmpty
  if !powered d || !due then d
  else if q.val < 64 then whenD (d.cfgLocked && 0 < tqRoom d q.val) (fun d => drainTokens q.val (poolRead q.val rd d)) d
  else if q.val = 128 then msix 0 d
  else d

/-- UNREAD_TIMEOUT. -/
def execUnreadTimeout (q : Fin 129) (s : State) (rd : PoolRead := PoolRead.clean) : Host.Outcome State Fault Refusal :=
  lift (devUnreadTimeout q rd) s

/-! ### Consumer commands (R389) -/

/-- The words after the first END word; none where no END word is held. -/
def afterEnd : List QWord → Option (List QWord)
  | [] => none
  | w :: t => if w.last then some t else afterEnd t

/-- POP. -/
def popQueue (q : Nat) (d : Device) : Device :=
  let x := queueOf d q
  refill q (setQueue q (withWords x (x.words.drop 1)) d)

/-- DROP_REST. -/
def dropRestQueue (q : Nat) (d : Device) : Device :=
  let x := queueOf d q
  match afterEnd x.words with
  | some ws => refill q (setQueue q (withWords x ws) d)
  | none =>
    if 0 < x.begun then refill q (setQueue q { withWords x [] with swallow := true, refusing := false } d)
    else d

/-- FLUSH. -/
def flushQueue (q : Nat) (d : Device) : Device :=
  let x := queueOf d q
  refill q (setQueue q { withWords x [] with gap := 0, swallow := x.swallow || decide (0 < x.begun), refusing := false } d)

/-- POP command; reading the head word may find it bad (R391). -/
def devPop (q : Fin 1024) (rd : PoolRead) (d : Device) : Device :=
  whenD (powered d && !(queueOf d q.val).words.isEmpty)
    (fun d => popQueue q.val (poolRead q.val { rd with words := rd.words.filter (· = 0) } d)) d

/-- POP. -/
def execPop (q : Fin 1024) (rd : PoolRead) (s : State) : Host.Outcome State Fault Refusal := lift (devPop q rd) s

/-- DROP_REST. -/
def execDropRest (q : Fin 1024) (s : State) : Host.Outcome State Fault Refusal :=
  lift (fun d => whenD (powered d) (dropRestQueue q.val) d) s

/-- FLUSH. -/
def execFlush (q : Fin 1024) (s : State) : Host.Outcome State Fault Refusal :=
  lift (fun d => whenD (powered d) (flushQueue q.val) d) s

end Sys2Proof.Machine
end

