-- ==== Sys2Proof/Machine/Numbers.lean ====
section
/-!
DEFINITION. Number formats and conversion (R57 to R79): exact values, decoding, the one rounding mode, overflow,
subnormals, integer conversion, block scales and the block encoder.
-/
namespace Sys2Proof.Machine

/-- An exact value: NaN, an infinity, or (-1)^neg * m * 2^e (a zero keeps its sign). -/
inductive Val where
  | nan
  | inf (neg : Bool)
  | fin (neg : Bool) (m : Nat) (e : Int)
  deriving DecidableEq, Repr

/-- Positive zero. -/
def Val.zero : Val := .fin false 0 0

/-- Whether a value is a zero of either sign. -/
def Val.isZero : Val → Bool
  | .fin _ 0 _ => true
  | _ => false

/-- Whether a value is an infinity or NaN. -/
def Val.nonFinite : Val → Bool
  | .fin .. => false
  | _ => true

/-- The value negated (R67: NaN signs are not propagated). -/
def Val.neg : Val → Val
  | .nan => .nan
  | .inf s => .inf (!s)
  | .fin s m e => .fin (!s) m e

/-- The magnitude. -/
def Val.abs : Val → Val
  | .nan => .nan
  | .inf _ => .inf false
  | .fin _ m e => .fin false m e

/-- An integer as an exact value. -/
def ofInt (i : Int) : Val := .fin (i < 0) i.natAbs 0

/-- The value times 2^k, exactly. -/
def Val.scaleBy (k : Int) : Val → Val
  | .fin s m e => .fin s m (e + k)
  | v => v

/-- m * 2^e as a numerator over 2^sh, for exponents at or above -sh. -/
def alignTo (sh : Int) (m : Nat) (e : Int) : Nat := m * 2 ^ (e - sh).toNat

/-- Whether m1 * 2^e1 is below m2 * 2^e2. -/
def magLt (m1 : Nat) (e1 : Int) (m2 : Nat) (e2 : Int) : Bool :=
  let sh := min e1 e2
  decide (alignTo sh m1 e1 < alignTo sh m2 e2)

/-- A magnitude with its sign. -/
def signed (neg : Bool) (m : Nat) : Int := if neg then -(m : Int) else m

/-- The exact sum of two finite values (R93: a zero sum is -0 only when both addends are -0). -/
def addFin (s1 : Bool) (m1 : Nat) (e1 : Int) (s2 : Bool) (m2 : Nat) (e2 : Int) : Val :=
  let sh := min e1 e2
  let t := signed s1 (alignTo sh m1 e1) + signed s2 (alignTo sh m2 e2)
  if t = 0 then .fin (s1 && s2 && m1 == 0 && m2 == 0) 0 0 else .fin (t < 0) t.natAbs sh

/-- The exact sum, with INVALID for opposite infinities (R67, R93). -/
def addVal : Val → Val → Val × BitVec 7
  | .nan, _ => (.nan, 0#7)
  | _, .nan => (.nan, 0#7)
  | .inf a, .inf b => if a = b then (.inf a, 0#7) else (.nan, flagInvalid)
  | .inf a, .fin .. => (.inf a, 0#7)
  | .fin .., .inf b => (.inf b, 0#7)
  | .fin s1 m1 e1, .fin s2 m2 e2 => (addFin s1 m1 e1 s2 m2 e2, 0#7)

/-- The exact product, with INVALID for 0 * infinity (R67, R92). -/
def mulVal : Val → Val → Val × BitVec 7
  | .nan, _ => (.nan, 0#7)
  | _, .nan => (.nan, 0#7)
  | .inf a, .inf b => (.inf (a != b), 0#7)
  | .inf a, .fin s m _ => if m = 0 then (.nan, flagInvalid) else (.inf (a != s), 0#7)
  | .fin s m _, .inf b => if m = 0 then (.nan, flagInvalid) else (.inf (s != b), 0#7)
  | .fin s1 m1 e1, .fin s2 m2 e2 => (.fin (s1 != s2) (m1 * m2) (e1 + e2), 0#7)

/-- Whether `a` is below `b`; NaN compares with nothing and the zeros are equal. -/
def ltVal : Val → Val → Bool
  | .nan, _ => false
  | _, .nan => false
  | .inf a, .inf b => a && !b
  | .inf a, .fin .. => a
  | .fin .., .inf b => !b
  | .fin s1 m1 e1, .fin s2 m2 e2 =>
    let sh := min e1 e2
    decide (signed s1 (alignTo sh m1 e1) < signed s2 (alignTo sh m2 e2))

/-! ### Formats (R58, R59, R62) -/

/-- Width in bits (R58). -/
def codeWidth : FCode → Nat
  | .fp32 => 32
  | .bf16 | .fp16 => 16
  | .e4m3 | .e5m2 | .int8 | .uint8 => 8
  | .e2m1 | .int4 | .uint4 => 4

/-- Whether a code is an integer format (R62). -/
def isIntCode : FCode → Bool
  | .int8 | .uint8 | .int4 | .uint4 => true
  | _ => false

/-- Whether a code may be scaled (R58). -/
def codeScales : FCode → Bool
  | .fp32 | .bf16 | .fp16 => false
  | _ => true

/-- The code of bits [3:0] of a format byte (R58). -/
def fcodeOf (n : Nat) : Option FCode :=
  match n with
  | 0 => some .fp32 | 1 => some .bf16 | 2 => some .fp16 | 3 => some .e4m3 | 4 => some .e5m2 | 5 => some .e2m1
  | 6 => some .int8 | 7 => some .uint8 | 8 => some .int4 | 9 => some .uint4
  | _ => none

/-- A format byte, or none where it is invalid (R57, R58). -/
def fmtOf (b : Nat) : Option Fmt :=
  match fcodeOf (b % 16) with
  | none => none
  | some c =>
    if b / 32 ≠ 0 then none
    else if bitOf b 4 && !codeScales c then none
    else some { code := c, scaled := bitOf b 4 }

/-- An unscaled format. -/
def plainFmt (c : FCode) : Fmt := { code := c, scaled := false }

/-- The ARITH field, or none where a reserved bit is set (R64). -/
def arithOf (n : Nat) : Option Arith :=
  if n / 4 ≠ 0 then none else some { sat := bitOf n 0, ftz := bitOf n 1 }

/-- The parameters of a floating-point format (R59): mantissa bits, exponent of the smallest subnormal, the largest
finite encoding, the threshold T as tm * 2^te, the encodings of infinity and NaN where there are any, and whether FTZ
acts on it (R68). -/
structure FpFormat where
  width : Nat
  mbits : Nat
  qmin : Int
  maxEnc : Nat
  tm : Nat
  te : Int
  infEnc : Option Nat
  nanEnc : Option Nat
  flushes : Bool
  deriving DecidableEq, Repr

/-- The table of R59, with the canonical NaN of R61. -/
def fpFormat : FCode → FpFormat
  | .bf16 => { width := 16, mbits := 7, qmin := -133, maxEnc := 0x7F7F, tm := 2 ^ 9 - 1, te := 119,
               infEnc := some 0x7F80, nanEnc := some 0x7FC0, flushes := true }
  | .fp16 => { width := 16, mbits := 10, qmin := -24, maxEnc := 0x7BFF, tm := 2 ^ 12 - 1, te := 4,
               infEnc := some 0x7C00, nanEnc := some 0x7E00, flushes := true }
  | .e4m3 => { width := 8, mbits := 3, qmin := -9, maxEnc := 0x7E, tm := 29, te := 4,
               infEnc := none, nanEnc := some 0x7F, flushes := false }
  | .e5m2 => { width := 8, mbits := 2, qmin := -16, maxEnc := 0x7B, tm := 15, te := 12,
               infEnc := some 0x7C, nanEnc := some 0x7E, flushes := false }
  | .e2m1 => { width := 4, mbits := 1, qmin := -1, maxEnc := 7, tm := 7, te := 0,
               infEnc := none, nanEnc := none, flushes := false }
  | _ => { width := 32, mbits := 23, qmin := -149, maxEnc := 0x7F7FFFFF, tm := 2 ^ 25 - 1, te := 103,
           infEnc := some 0x7F800000, nanEnc := some 0x7FC00000, flushes := true }

/-- The sign bit of a format at its place. -/
def signBit (p : FpFormat) (neg : Bool) : Nat := if neg then 2 ^ (p.width - 1) else 0

/-- The exact value of a floating-point encoding (R59, R60). -/
def decodeFp (p : FpFormat) (bits : Nat) : Val :=
  let neg := bitOf bits (p.width - 1)
  let mag := bits % 2 ^ (p.width - 1)
  let m := mag % 2 ^ p.mbits
  let e := mag / 2 ^ p.mbits
  if p.infEnc = some mag then .inf neg
  else if mag > p.maxEnc then .nan
  else if e = 0 then .fin neg m p.qmin
  else .fin neg (2 ^ p.mbits + m) (p.qmin + (e - 1))

/-- Whether an encoding is a non-zero subnormal (R68). -/
def isSubnormal (p : FpFormat) (bits : Nat) : Bool :=
  let mag := bits % 2 ^ (p.width - 1)
  mag != 0 && mag / 2 ^ p.mbits == 0

/-- 2^-F of a scaled integer element as its exponent (R62). -/
def intShift : FCode → Int
  | .int8 => -6
  | .uint8 => -7
  | .int4 => -2
  | .uint4 => -3
  | _ => 0

/-- The integer that an integer element holds (R62). -/
def intOf (c : FCode) (bits : Nat) : Int :=
  match c with
  | .int8 => signedOf 8 bits
  | .int4 => signedOf 4 bits
  | _ => ((bits % 2 ^ codeWidth c : Nat) : Int)

/-- The element part of an encoding: its value before any block scale (R59, R62, R71). -/
def elemPart (f : Fmt) (bits : Nat) : Val :=
  if isIntCode f.code then (ofInt (intOf f.code bits)).scaleBy (if f.scaled then intShift f.code else 0)
  else decodeFp (fpFormat f.code) bits

/-- Reading an element part under ARITH: with FTZ a subnormal FP32, BF16 or FP16 reads as zero of its sign (R68). -/
def readPart (f : Fmt) (a : Arith) (bits : Nat) : Val × BitVec 7 :=
  let p := fpFormat f.code
  if a.ftz && !isIntCode f.code && p.flushes && isSubnormal p bits then
    (.fin (bitOf bits (p.width - 1)) 0 0, flagFtz)
  else (elemPart f bits, 0#7)

/-- The exponent of a block scale, or none for the NaN scale 0xFF (R70). -/
def scaleExp (b : Nat) : Option Int := if b % 256 = 255 then none else some ((b % 256 : Nat) - 127 : Int)

/-- An element with its block's scale (R71). -/
def readScaled (f : Fmt) (a : Arith) (scale bits : Nat) : Val × BitVec 7 :=
  if f.scaled then
    match scaleExp scale with
    | none => (.nan, 0#7)
    | some k => ((elemPart f bits).scaleBy k, 0#7)
  else readPart f a bits

/-! ### Rounding (R65 to R69) -/

/-- m * 2^e rounded to an integer, ties to even (R65). -/
def rneInt (m : Nat) (e : Int) : Nat :=
  if e ≥ 0 then m * 2 ^ e.toNat
  else
    let d := (-e).toNat
    let h := m / 2 ^ d
    let r := m % 2 ^ d
    let half := 2 ^ (d - 1)
    if r > half ∨ (r = half ∧ h % 2 = 1) then h + 1 else h

/-- The encoding, without sign, of a magnitude below the threshold (R65). -/
def roundMag (p : FpFormat) (m : Nat) (e : Int) : Nat :=
  if m = 0 then 0
  else
    let q := max p.qmin ((m.log2 : Int) + e - p.mbits)
    (q - p.qmin).toNat * 2 ^ p.mbits + rneInt m (e - q)

/-- Whether a magnitude overflows (R66). -/
def overflows (p : FpFormat) (m : Nat) (e : Int) : Bool := m != 0 && !magLt m e p.tm p.te

/-- The encoding of an overflowing value (R66). -/
def overflowEnc (p : FpFormat) (sat : Bool) : Nat :=
  if sat then p.maxEnc else p.infEnc.getD p.maxEnc

/-- Conversion of an exact value to a floating-point format (R65 to R68). -/
def roundFp (p : FpFormat) (a : Arith) : Val → Nat × BitVec 7
  | .nan =>
    match p.nanEnc with
    | some n => (n, 0#7)
    | none => (0, flagInvalid)
  | .inf s =>
    match p.infEnc with
    | some i => (signBit p s + i, 0#7)
    | none => (signBit p s + p.maxEnc, flagOvf)
  | .fin s m e =>
    if overflows p m e then (signBit p s + overflowEnc p a.sat, flagOvf)
    else
      let r := roundMag p m e
      if a.ftz && p.flushes && isSubnormal p r then (signBit p s, flagFtz) else (signBit p s + r, 0#7)

/-- The limit range of an integer destination (R69). -/
def intRange (f : Fmt) : Int × Int :=
  match f.code, f.scaled with
  | .int8, false => (-128, 127)
  | .int8, true => (-127, 127)
  | .int4, false => (-8, 7)
  | .int4, true => (-7, 7)
  | .uint4, _ => (0, 15)
  | _, _ => (0, 255)

/-- An integer limited to a range, with INT_RANGE where it leaves it (R69). -/
def limitInt (r : Int × Int) (i : Int) : Int × BitVec 7 :=
  if i > r.2 then (r.2, flagIntRange) else if i < r.1 then (r.1, flagIntRange) else (i, 0#7)

/-- An integer as the bits of an element. -/
def intBits (c : FCode) (i : Int) : Nat := (BitVec.ofInt (codeWidth c) i).toNat

/-- Conversion to an integer format of a value already divided by scale and 2^-F (R67, R69). -/
def roundInt (f : Fmt) : Val → Nat × BitVec 7
  | .nan => (0, flagInvalid)
  | .inf s => (intBits f.code (if s then (intRange f).1 else (intRange f).2), flagIntRange)
  | .fin s m e =>
    let n := (rneInt m e : Int)
    let r := limitInt (intRange f) (if s then -n else n)
    (intBits f.code r.1, r.2)

/-- One conversion to an unscaled format (R65 to R69). -/
def roundTo (c : FCode) (a : Arith) (v : Val) : Nat × BitVec 7 :=
  if isIntCode c then roundInt (plainFmt c) v else roundFp (fpFormat c) a v

/-- One conversion to FP32. -/
def roundF32 (a : Arith) (v : Val) : BitVec 32 × BitVec 7 :=
  let r := roundFp (fpFormat .fp32) a v
  (BitVec.ofNat 32 r.1, r.2)

/-- The exact value of an FP32 encoding. -/
def f32Val (x : BitVec 32) : Val := decodeFp (fpFormat .fp32) x.toNat

/-- An FP32 input under ARITH (R68). -/
def readF32 (a : Arith) (x : BitVec 32) : Val × BitVec 7 := readPart (plainFmt .fp32) a x.toNat

/-! ### The block encoder (R72 to R76) -/

/-- The threshold of a scaled element format (R59, R62) as tm * 2^te. -/
def blockThreshold : FCode → Nat × Int
  | .int8 => (255, -7)
  | .uint8 => (511, -8)
  | .int4 => (15, -3)
  | .uint4 => (31, -4)
  | c => ((fpFormat c).tm, (fpFormat c).te)

/-- emax of step 4 of R72. -/
def blockEmax : FCode → Int
  | .e4m3 => 8
  | .e5m2 => 15
  | .e2m1 => 2
  | _ => 0

/-- The largest magnitude of a list, as (m, e). -/
def largestMag : List Val → Nat × Int
  | [] => (0, 0)
  | .fin _ m e :: vs =>
    let r := largestMag vs
    if magLt r.1 r.2 m e then (m, e) else r
  | _ :: vs => largestMag vs

/-- The exponent that steps 3 to 6 of R72 choose for a largest magnitude that is not 0. -/
def blockExp (c : FCode) (m : Nat) (e : Int) : Int :=
  let k := (m.log2 : Int) + e - blockEmax c
  let t := blockThreshold c
  let k := if magLt m (e - k) t.1 t.2 then k else k + 1
  max (-127) (min 127 k)

/-- One element of a finite block with scale exponent `k` (step 7 of R72, R75). -/
def blockElem (c : FCode) (k : Int) (v : Val) : Nat × Raised :=
  match v with
  | .fin s m e =>
    let r : Nat × BitVec 7 :=
      if isIntCode c then roundInt { code := c, scaled := true } (.fin s m (e - k - intShift c))
      else
        let p := fpFormat c
        if overflows p m (e - k) then (signBit p s + p.maxEnc, flagOvf)
        else (signBit p s + roundMag p m (e - k), 0#7)
    let vanished := m != 0 && (elemPart { code := c, scaled := true } r.1).isZero
    (r.1, { flags := r.2 ||| flagIf vanished flagBlkUfl, ufl := ofBit vanished, nonfin := 0 })
  | _ => (0, noneRaised)

/-- The block encoder: scale byte and 32 elements (R72 to R76); values beyond an edge are not in the list. -/
def encodeBlock (c : FCode) (vs : List Val) : Nat × List Nat × Raised :=
  let fill := List.replicate (32 - vs.length) 0
  if vs.any Val.nonFinite then
    (0xFF, List.replicate 32 0, { flags := flagBlkNonfinite, ufl := 0, nonfin := 1 })
  else if vs.all Val.isZero then (0x7F, List.replicate 32 0, noneRaised)
  else
    let top := largestMag vs
    let k := blockExp c top.1 top.2
    let es := vs.map (blockElem c k)
    ((k + 127).toNat, es.map (·.1) ++ fill, joinAll (es.map (·.2)))

/-! ### Packed elements (R63) -/

/-- Elements of a width packed into bytes, the first in the low bits. -/
def packElems (w : Nat) (es : List Nat) : List Byte :=
  if w = 4 then
    (pairUp es).map fun p => BitVec.ofNat 8 (p.1 % 16 + 16 * (p.2 % 16))
  else (es.map (bytesOfNat (w / 8))).flatten
where
  /-- Neighbours in pairs, an odd last one with 0. -/
  pairUp : List Nat → List (Nat × Nat)
    | [] => []
    | [a] => [(a, 0)]
    | a :: b :: r => (a, b) :: pairUp r

/-- The element of index `i` of packed bytes. -/
def elemAt (w : Nat) (bs : List Byte) (i : Nat) : Nat :=
  if w = 4 then bitsOf (field bs (i / 2) 1) (4 * (i % 2)) 4 else field bs (i * (w / 8)) (w / 8)

end Sys2Proof.Machine
end

