-- ==== Sys2Proof/Machine/Reals.lean ====
section
/-!
DEFINITION. Correctly rounded functions (R157, R159, R176): quotient, reciprocal square root, exp and tanh. Each gives
an exact value or a value with many more bits than FP32 needs and a last bit that says "not exact", so that one
rounding of it is the correct rounding (notes/assumptions 40).
-/
namespace Sys2Proof.Machine

/-- floor of the square root of `n`, deciding bits `b - 1` down to 0 of the root. -/
def sqrtBits (n : Nat) : Nat → Nat → Nat
  | 0, r => r
  | b + 1, r =>
    let t := r + 2 ^ b
    if t * t ≤ n then sqrtBits n b t else sqrtBits n b r

/-- floor of the square root. -/
def isqrt (n : Nat) : Nat := sqrtBits n (n.log2 / 2 + 1) 0

/-- A magnitude known as q * 2^e from below, with a last bit that says whether something was cut off. -/
def withSticky (neg : Bool) (q : Nat) (exact : Bool) (e : Int) : Val :=
  .fin neg (2 * q + ofBit (!exact)) (e - 1)

/-- The quotient: x / 0 is a signed infinity; 0 / 0 and infinity / infinity are NaN with INVALID (R67). -/
def divVal : Val → Val → Val × BitVec 7
  | .nan, _ => (.nan, 0#7)
  | _, .nan => (.nan, 0#7)
  | .inf _, .inf _ => (.nan, flagInvalid)
  | .inf a, .fin s _ _ => (.inf (a != s), 0#7)
  | .fin s _ _, .inf b => (.fin (s != b) 0 0, 0#7)
  | .fin s1 m1 e1, .fin s2 m2 e2 =>
    if m2 = 0 then (if m1 = 0 then (.nan, flagInvalid) else (.inf (s1 != s2), 0#7))
    else if m1 = 0 then (.fin (s1 != s2) 0 0, 0#7)
    else
      let n := m1 * 2 ^ (64 + m2.log2)
      (withSticky (s1 != s2) (n / m2) (n % m2 == 0) (e1 - e2 - 64 - m2.log2), 0#7)

/-- The reciprocal square root of R157. -/
def rsqrtVal : Val → Val × BitVec 7
  | .nan => (.nan, 0#7)
  | .inf s => if s then (.nan, flagInvalid) else (.fin false 0 0, 0#7)
  | .fin s m e =>
    if m = 0 then (.inf false, 0#7)
    else if s then (.nan, flagInvalid)
    else
      -- m * 2^e with an even exponent; the root of 2^(2k) / m
      let m := if e % 2 = 0 then m else 2 * m
      let e := if e % 2 = 0 then e else e - 1
      let k := 64 + m.log2
      let r := isqrt (2 ^ (2 * k) / m)
      (withSticky false r (r * r * m == 2 ^ (2 * k)) (-(k : Int) - e / 2), 0#7)

/-- Bits behind the binary point of the fixed-point exponential. -/
def expBits : Nat := 448

/-- sum of y^i / i!, from term `t` with number `i`, in fixed point. -/
def expSeries (y : Nat) : Nat → Nat → Nat → Nat
  | 0, _, _ => 0
  | fuel + 1, i, t => t + expSeries y fuel (i + 1) (t * y / 2 ^ expBits / (i + 1))

/-- `n` squarings in fixed point. -/
def squareTimes : Nat → Nat → Nat
  | 0, a => a
  | n + 1, a => squareTimes n (a * a / 2 ^ expBits)

/-- exp of m * 2^e (at most 256) in fixed point: the argument is divided by 2^10 and the result squared ten times. -/
def expFixed (m : Nat) (e : Int) : Nat :=
  let sh := e + expBits - 10
  let y := if sh ≥ 0 then m * 2 ^ sh.toNat else m / 2 ^ (-sh).toNat
  squareTimes 10 (expSeries y 96 0 (2 ^ expBits))

/-- exp: exact at 0, elsewhere not representable (R159, R176). -/
def expVal : Val → Val
  | .nan => .nan
  | .inf s => if s then .fin false 0 0 else .inf false
  | .fin s m e =>
    if m = 0 then .fin false 1 0
    else if !magLt m e 128 0 then (if s then .fin false 1 (-400) else .fin false 1 400)
    else if s then withSticky false (2 ^ (2 * expBits) / expFixed m e) false (-(expBits : Int))
    else withSticky false (expFixed m e) false (-(expBits : Int))

/-- tanh = (exp(2x) - 1) / (exp(2x) + 1) (R159). -/
def tanhVal : Val → Val
  | .nan => .nan
  | .inf s => .fin s 1 0
  | .fin s m e =>
    if m = 0 then .fin s 0 0
    else if !magLt m e 64 0 then .fin s (2 ^ 100 - 1) (-100)
    else
      let x := expFixed m (e + 1)
      withSticky s ((x - 2 ^ expBits) * 2 ^ expBits / (x + 2 ^ expBits)) false (-(expBits : Int))

/-- max of R161: NaN where an input is NaN, max(+0, -0) = +0, no flag. -/
def maxVal (a b : Val) : Val :=
  match a, b with
  | .nan, _ => .nan
  | _, .nan => .nan
  | a, b =>
    if ltVal a b then b
    else if ltVal b a then a
    else match a with
      | .fin true 0 _ => b
      | a => a

end Sys2Proof.Machine
end

