-- ==== Sys2Proof/Machine/Dot.lean ====
section
/-!
DEFINITION. The dot-product contract (R87 to R102): group terms, the FP32 accumulator, the integer path, INT32 output.
-/
namespace Sys2Proof.Machine

/-- One element as it enters a product (R90): its exact element part and the exponent of its scale. -/
structure Elem where
  v : Val
  k : Int
  deriving DecidableEq, Repr

/-- The group size of a product (R89): the wider width decides. -/
def groupSize (a b : FCode) : Nat :=
  let w := max (codeWidth a) (codeWidth b)
  if w = 32 then 1 else if w = 16 then 16 else 32

/-- Whether a product runs on the integer path (R88). -/
def onIntPath (a b : Fmt) : Bool := isIntCode a.code && !a.scaled && isIntCode b.code && !b.scaled

/-- The products of one group: exact element products, in order. -/
def groupProducts (xs ys : List Elem) : List (Val × BitVec 7) :=
  List.zipWith (fun x y => mulVal x.v y.v) xs ys

/-- The exact sum of finite values; a zero sum is -0 only if every value is -0 (R92). -/
def sumExact : List Val → Val
  | [] => .fin true 0 0
  | v :: vs => (addVal v (sumExact vs)).1

/-- The group term of R92. -/
def groupTerm (xs ys : List Elem) : Val × BitVec 7 :=
  if xs.any (fun x => x.v = .nan) || ys.any (fun y => y.v = .nan) then (.nan, 0#7)
  else
    let ps := groupProducts xs ys
    let vs := ps.map (·.1)
    if vs.any (· = .nan) then (.nan, flagInvalid)
    else
      let up := vs.any (· = .inf false)
      let down := vs.any (· = .inf true)
      if up && down then (.nan, flagInvalid)
      else if up then (.inf false, 0#7)
      else if down then (.inf true, 0#7)
      else
        let ka := (xs.head?.map (·.k)).getD 0
        let kb := (ys.head?.map (·.k)).getD 0
        ((sumExact vs).scaleBy (ka + kb), 0#7)

/-- One accumulation with one rounding (R93). -/
def accumulate (a : Arith) (acc : BitVec 32) (t : Val) : BitVec 32 × BitVec 7 :=
  let s := addVal (f32Val acc) t
  let r := roundF32 a s.1
  (r.1, s.2 ||| r.2)

/-- The floating-point path over the groups that remain (R93); `fuel` bounds their number. -/
def dotGroups (a : Arith) (g : Nat) : Nat → BitVec 32 → List Elem → List Elem → BitVec 32 × BitVec 7
  | 0, acc, _, _ => (acc, 0#7)
  | fuel + 1, acc, xs, ys =>
    match xs with
    | [] => (acc, 0#7)
    | _ =>
      let t := groupTerm (xs.take g) (ys.take g)
      let r := accumulate a acc t.1
      let rest := dotGroups a g fuel r.1 (xs.drop g) (ys.drop g)
      (rest.1, t.2 ||| r.2 ||| rest.2)

/-- The floating-point dot product (R93, R94): +0 when there are no elements. -/
def dotFp (a : Arith) (g : Nat) (xs ys : List Elem) : BitVec 32 × BitVec 7 :=
  dotGroups a g xs.length 0#32 xs ys

/-- The integer dot product (R96): exact, within 48 bits by R95. -/
def dotInt (xs ys : List Int) : Int := (List.zipWith (· * ·) xs ys).foldl (· + ·) 0

/-- The INT32 value of a 48-bit sum, with INT_SAT where it is limited (R97). -/
def toInt32 (s : Int) : Int × BitVec 7 :=
  if s > 2147483647 then (2147483647, flagIntSat)
  else if s < -2147483648 then (-2147483648, flagIntSat)
  else (s, 0#7)

/-- The ordered reduction of R101: each contribution exact, the running value starting as the first one, one FP32
rounding for each further one. -/
def orderedSum (a : Arith) : List Val → BitVec 32 × BitVec 7
  | [] => (0#32, 0#7)
  | v :: vs =>
    let r := roundF32 a v
    vs.foldl (fun acc t => let x := accumulate a acc.1 t; (x.1, acc.2 ||| x.2)) r

end Sys2Proof.Machine
end

