-- ==== Sys2Proof/Machine/Sentence.lean ====
section
/-!
DEFINITION. Reading a sentence image and the checks made at load: operand descriptors and loop tables (R111 to R117),
clauses and operations (R137 to R146), modifiers (R151 to R162), the separate form (R165), memory-side operations (R171
to R173), paged operands (R199), page-scatter (R203), sample points (R265), triggered operations (R301, R305, R306,
R314) and the image header, plan map and pools (R363 to R365). A field that breaks a rule gives `none` (R7).
-/
namespace Sys2Proof.Machine

/-- A value when a condition holds. -/
def whenOk {α : Type} (c : Bool) (a : α) : Option α := if c then some a else none

/-- The 48-bit address at an offset, whose upper 16 bits are reserved. -/
def addrField (bs : List Byte) (off : Nat) : Option Nat :=
  let v := field bs off 8
  whenOk (v < 2 ^ 48) v

/-- A signed 32-bit field. -/
def signedField (bs : List Byte) (off : Nat) : Int := signedOf 32 (field bs off 4)

/-! ### Operands and loops (R111, R116) -/

/-- An operand descriptor (R111, R199). -/
def parseOperand (bs : List Byte) : Option Operand := do
  let w0 := field bs 0 8
  let f ← fmtOf (bitsOf w0 48 8)
  let sc ← addrField bs 8
  let paged := bitOf w0 56
  let ok := w0 / 2 ^ 57 = 0 && (paged || f.scaled || sc = 0)
  whenOk ok { base := w0 % 2 ^ 48, fmt := f, paged := paged, scaleBase := sc }

/-- A statistics descriptor (R171), held in an operand: STATS in `base`, KLEN in `scaleBase`. -/
def parseStats (bs : List Byte) : Option Operand := do
  let st ← addrField bs 0
  let kl ← addrField bs 8
  whenOk (st % 8 = 0) { base := st, fmt := plainFmt .fp32, paged := false, scaleBase := kl }

/-- The operand that VECTOR and the normalising functions do not use. -/
def noOperand : Operand := { base := 0, fmt := plainFmt .fp32, paged := false, scaleBase := 0 }

/-- A loop role (R116). -/
def roleOf : Nat → LoopRole
  | 0 => .m
  | 1 => .n
  | 2 => .k
  | _ => .outer

/-- The bound source of a loop (R116). -/
def boundOf (src bound baddr : Nat) : Option BoundSrc :=
  match src with
  | 0 => whenOk (baddr = 0) (.const bound)
  | 1 => if h : bound < 64 then whenOk (baddr = 0) (.reg ⟨bound, h⟩) else none
  | 2 => whenOk (bound = 0 && baddr % 4 = 0) (.mem baddr)
  | _ => none

/-- A loop descriptor (R116). -/
def parseLoop (bs : List Byte) : Option Loop := do
  let b0 := field bs 0 1
  let ba ← addrField bs 8
  let role := roleOf (bitsOf b0 0 2)
  let pos := bitsOf b0 2 3
  let bound ← boundOf (bitsOf b0 5 2) (field bs 4 4) ba
  let ok := b0 < 128 && field bs 1 3 = 0 && field bs 28 4 = 0 && (if role = .k then pos = 7 else pos ≤ 5)
  whenOk ok { role := role, pos := pos, bound := bound, strideA := signedField bs 16, strideB := signedField bs 20,
              strideC := signedField bs 24 }

/-- A loop table: TM, CONTROL and the loops in use; the others are reserved (R115). -/
def parseLoops (bs : List Byte) : Option (Nat × Nat × List Loop) := do
  let n := bitsOf (field bs 0 1) 0 3
  let tm := field bs 2 2
  let loops ← ((pieces 32 6 (bs.drop 8)).take n).mapM parseLoop
  let ok := field bs 0 1 < 8 && field bs 1 1 = 0 && 3 ≤ n && n ≤ 6 && tm % 16 = 0 && 16 ≤ tm && tm ≤ 1536 &&
    allZero (bs.drop (8 + 32 * n))
  whenOk ok (tm, field bs 4 4, loops)

/-- The loops of a role, in table order. -/
def loopsOf (ls : List Loop) (r : LoopRole) : List Loop := ls.filter (·.role = r)

/-- The one loop of a role; a loop of bound 0 where the table has none. -/
def loopOf (ls : List Loop) (r : LoopRole) : Loop :=
  (loopsOf ls r).headD { role := r, pos := 0, bound := .const 0, strideA := 0, strideB := 0, strideC := 0 }

/-- The OUTER loops, lowest POS first (R139). -/
def outerLoops (ls : List Loop) : List Loop :=
  (List.range 6).flatMap fun p => ls.filter (fun l => l.role = .outer && l.pos = p)

/-- A constant bound (R116). -/
def constBound (l : Loop) : Option Nat :=
  match l.bound with
  | .const v => some v
  | _ => none

/-- Rule R117, item 5, for one stride of an operand. -/
def strideOk (f : Fmt) (s : Int) : Bool :=
  if f.scaled then s % 32 = 0 else if codeWidth f.code = 4 then s % 2 = 0 else true

/-- The checks of R117. The N stride of A is free in VECTOR (R165) and in the functions that read a score of A for each
column (R176; notes/assumptions 41); the N stride of a scaled C is 1 by item 6 alone. -/
def loopsOk (kind : OpKind) (a b c : Operand) (ls : List Loop) : Bool :=
  let m := loopOf ls .m
  let n := loopOf ls .n
  let k := loopOf ls .k
  let perColumn := kind ≠ .matmul && kind ≠ .dot
  let others := ls.filter (fun l => l.role ≠ .k)
  let kStride := fun (o : Operand) (s : Int) => if o.paged then s = 0 else s = 1
  (loopsOf ls .m).length = 1 && (loopsOf ls .n).length = 1 && (loopsOf ls .k).length = 1 &&
  (List.range (ls.length - 1)).all (fun p => (others.filter (·.pos = p)).length = 1) &&
  k.strideC = 0 && kStride a k.strideA && kStride b k.strideB && (!perColumn || k.bound = .const 1) &&
  m.strideB = 0 && (perColumn || n.strideA = 0) &&
  (!a.paged || ls.all (·.strideA = 0)) && (!b.paged || ls.all (·.strideB = 0)) &&
  others.all (fun l => strideOk a.fmt l.strideA && strideOk b.fmt l.strideB &&
    (l.role = .n || strideOk c.fmt l.strideC)) &&
  (if c.fmt.scaled then n.strideC = 1 else strideOk c.fmt n.strideC) &&
  ls.all (fun l => match l.bound with
    | .const v => v ≤ 2147483647
    | _ => true)

/-! ### Modifiers (R151 to R160) -/

/-- A modifier descriptor; reserved bits are checked here, the kind's own fields by `modOk` (R151). -/
def parseMod (bs : List Byte) : Option Modifier := do
  let b3 := field bs 3 1
  let a1 ← addrField bs 8
  let a2 ← addrField bs 16
  whenOk (b3 < 16 && field bs 28 4 = 0)
    { kind := field bs 0 1, param := field bs 1 1, fmt := field bs 2 1, src := b3 % 8, target := b3 / 8,
      imm0 := BitVec.ofNat 32 (field bs 4 4), addr := a1, addr2 := a2, imm1 := BitVec.ofNat 32 (field bs 24 4) }

/-- A format byte of side values: valid and unscaled (R153). -/
def sideFmtOk (b : Nat) : Bool :=
  match fmtOf b with
  | some f => !f.scaled
  | none => false

/-- The side value of a BIAS, SCALE or RESID slot: which sources are allowed, and what each leaves unused (R152, R153). -/
def sideOk (m : Modifier) (allowed : List Nat) : Bool :=
  allowed.contains m.src && m.addr2 = 0 && m.imm1 = 0#32 && m.param = 0 &&
  (if m.src = 0 then m.fmt = 0 && m.addr = 0
   else if m.src = 4 then m.fmt = 0 && m.addr = 0 && m.imm0 = 0#32
   else sideFmtOk m.fmt && m.imm0 = 0#32)

/-- A prologue slot (R152, R155 to R157). -/
def proOk (m : Modifier) : Bool :=
  match m.kind with
  | 0x01 => m.src = 0 && m.param < 4 && sideFmtOk m.fmt && m.imm0 = 0#32 && m.imm1 = 0#32 && m.addr2 = 0
  | 0x02 | 0x03 => sideOk m [0, 1]
  | 0x04 =>
    let d := m.imm0.toNat
    m.src = 0 && m.param < 2 && m.fmt = 0 && 2 ≤ d && d ≤ 256 && d % 2 = 0 && m.addr2 = 0 && m.imm1 = 0#32
  | 0x05 => m.src = 0 && m.fmt = 0 && m.target = 0 && m.addr2 = 0 && (m.param < 8 || m.param = 0xFF)
  | _ => false

/-- An epilogue slot (R152, R158 to R162); `tile` says LINK = TILE, `ntrig` is NTRIG of the image. -/
def epiOk (tile : Bool) (ntrig : Nat) (m : Modifier) : Bool :=
  let plain := m.fmt = 0 && m.src = 0
  m.target = 0 &&
  (match m.kind with
  | 0x10 => sideOk m [0, 1, 2]
  | 0x11 => sideOk m [0, 1, 2, 4] && (m.src ≠ 4 || tile)
  | 0x12 => plain && 1 ≤ m.param && m.param ≤ 9 && (m.param ≠ 7 && m.param ≠ 8 || tile) && m.addr = 0 &&
      m.addr2 = 0 && m.imm0 = 0#32 && m.imm1 = 0#32
  | 0x13 => sideOk m [3, 4] && (m.src ≠ 4 || tile)
  | 0x14 =>
    let win := bitOf m.param 1
    let tab := bitOf m.param 2
    plain && m.param < 16 && m.addr2 = 0 &&
    (if tab then 1 ≤ m.imm0.toNat && m.imm0.toNat ≤ 4096 && m.addr % 4 = 0 else m.imm0 = 0#32 && m.addr = 0) &&
    (if win then m.imm1 ≠ 0#32 else m.imm1 = 0#32)
  | 0x15 => plain && m.param = 0 && m.addr = 0 && m.addr2 = 0 && m.imm0 = 0#32 && m.imm1 = 0#32
  | 0x16 | 0x17 => plain && m.param < 4 && m.imm0 = 0#32 && m.imm1 = 0#32 && inBlock m.addr2
  | 0x18 => m.src = 0 && (m.fmt = 0x13 || m.fmt = 0x15) && m.param < 2 && m.addr2 = 0 && m.addr % 8 = 0 &&
      m.imm0.toNat % 32 = 0 && m.imm1.toNat % 32 = 0 && m.imm0.toNat ≤ m.imm1.toNat
  | 0x19 => plain && m.param = 0 && m.addr = 0 && m.addr2 = 0 && m.imm1 = 0#32 && m.imm0.toNat < ntrig
  | _ => false)

/-- The order rules of R158: one CONVERT at most, only statistics and SENDFAB after it, PAGESCATTER before it, SENDFAB
after it. -/
def epiOrderOk (kinds : List Nat) : Bool :=
  let after := (kinds.dropWhile (· ≠ 0x15)).drop 1
  let before := kinds.takeWhile (· ≠ 0x15)
  let hasConvert := kinds.contains 0x15
  after.all (fun k => k = 0x16 || k = 0x17 || k = 0x19) && (!kinds.contains 0x19 || (hasConvert && !before.contains 0x19))

/-! ### Operations (R140 to R142, R165, R171 to R173, R199) -/

/-- A prologue slot that works on an operand. -/
def targets (pro : List Modifier) (t : Nat) : Bool := pro.any (·.target = t)

/-- A paged operand B (R199). -/
def pagedOk (o : Operand) : Bool :=
  !o.paged || (o.scaleBase < 4 && o.fmt.scaled && (o.fmt.code = .e4m3 || o.fmt.code = .e2m1))

/-- The product fields of a MATMUL or DOT: AFMT, integer output, operands (R98, R142, R199). -/
def productOk (o : OpDesc) : Bool :=
  !o.a.paged && !o.c.paged && pagedOk o.b &&
  (targets o.pro 0 || o.afmtA = o.a.fmt) && (targets o.pro 1 || o.afmtB = o.b.fmt) &&
  (!o.intout || (onInt o && o.c.fmt = plainFmt .fp32 && o.epi.isEmpty)) &&
  o.pro.all (fun m => m.kind ≠ 0x01 || (o.loops.filter (·.role ≠ .k)).all fun l =>
    (if m.target = 0 then l.strideA else l.strideB) % ((32 * 2 ^ (m.param % 4) : Nat) : Int) = 0)
where
  /-- Whether both operands enter the array as unscaled integers (R88). -/
  onInt (o : OpDesc) : Bool :=
    isIntCode o.afmtA.code && !o.afmtA.scaled && isIntCode o.afmtB.code && !o.afmtB.scaled

/-- Contexts that an operation may use in a cell (R108); `fuse` is F. The memory-side functions count as P = 0 (R173). -/
def contextsFor (o : OpDesc) (fuse : Nat) : Nat :=
  match o.kind with
  | .matmul => min 8 (393216 / (o.tm * 64 * (if productOk.onInt o then 8 else 4) + fuse))
  | .vector => min 8 (393216 / (o.tm * 64 * 4 + fuse))
  | _ => 8

/-- An operation descriptor (R140). -/
def parseOp (ntrig : Nat) (bs : List Byte) : Option OpDesc := do
  let b0 := field bs 0 1
  let b1 := field bs 1 1
  let b2 := field bs 2 1
  let ar ← arithOf (b0 / 16)
  let (tm, control, loops) ← parseLoops (slice bs 80 200)
  let kind ← (match b0 % 16, control with
    | 1, 0 => some OpKind.matmul
    | 3, 0 => some OpKind.vector
    | 2, 1 => some OpKind.dot
    | 2, 2 => some OpKind.softmax
    | 2, 3 => some OpKind.recomp
    | 2, 4 => some OpKind.softgrad
    | _, _ => none)
  let link ← (match bitsOf b2 3 2 with
    | 0 => some Link.none
    | 1 => some Link.tile
    | 2 => some Link.band
    | _ => none)
  let product := kind = .matmul || kind = .dot
  let fa ← fmtOf (field bs 3 1)
  let fb ← fmtOf (field bs 4 1)
  let a ← parseOperand' kind (slice bs 32 16)
  let b ← (if product then parseOperand (slice bs 48 16)
           else if kind = .vector then whenOk (allZero (slice bs 48 16)) noOperand
           else parseStats (slice bs 48 16))
  let c ← parseOperand (slice bs 64 16)
  let npro := bitsOf b1 0 3
  let nepi := b1 / 16
  let pro ← ((pieces 32 4 (slice bs 288 128)).take npro).mapM parseMod
  let epi ← ((pieces 32 8 (slice bs 416 256)).take nepi).mapM parseMod
  let noc := bitOf b2 2
  let stepout := bitOf b2 1
  let tile := link = .tile
  let op : OpDesc := {
    kind := kind, arith := ar, intout := bitOf b2 0, stepout := stepout, noc := noc, link := link,
    afmtA := fa, afmtB := fb, a := a, b := b, c := c, tm := tm, loops := loops, pro := pro, epi := epi }
  let ok := bitOf b1 3 = false && npro ≤ 4 && nepi ≤ 8 && b2 < 32 && allZero (slice bs 5 27) &&
    allZero (slice bs 280 8) && allZero (slice bs (288 + 32 * npro) (32 * (4 - npro))) &&
    allZero (slice bs (416 + 32 * nepi) (32 * (8 - nepi))) && pro.all proOk && epi.all (epiOk tile ntrig) &&
    epiOrderOk (epi.map (·.kind)) && loopsOk kind a b c loops && (!noc || (c.base = 0 && c.scaleBase = 0)) &&
    !(noc && stepout) && kindOk op
  whenOk ok op
where
  /-- Operand A: SOFTGRAD holds DADDR where a scale base would stand (R171). -/
  parseOperand' (kind : OpKind) (bs : List Byte) : Option Operand :=
    if kind = .softgrad then do
      let w0 := field bs 0 8
      let f ← fmtOf (bitsOf w0 48 8)
      let sc ← addrField bs 8
      whenOk (w0 / 2 ^ 56 = 0) { base := w0 % 2 ^ 48, fmt := f, paged := false, scaleBase := sc }
    else parseOperand bs
  /-- The rules of the operation's kind (R142, R165, R173, R199). -/
  kindOk (o : OpDesc) : Bool :=
    let z := plainFmt .fp32
    let tilesOk := o.link ≠ .tile
    match o.kind with
    | .matmul => productOk o
    | .dot => tilesOk && productOk o && o.epi.all (fun m => m.kind ≠ 0x18 && m.kind ≠ 0x19)
    | .vector => tilesOk && o.pro.isEmpty && !o.intout && o.afmtA = z && o.afmtB = z && !o.a.paged && !o.c.paged
    | .softmax | .recomp =>
      tilesOk && o.pro.isEmpty && o.epi.isEmpty && !o.intout && o.afmtA = z && o.afmtB = z && o.a.fmt = z &&
      !o.a.paged && !o.c.paged && normFmt o.c.fmt
    | .softgrad =>
      tilesOk && o.pro.isEmpty && o.epi.isEmpty && !o.intout && o.afmtA = z && o.afmtB = z && o.a.fmt = z &&
      !o.c.paged && o.c.fmt = z
  /-- The probability formats of R171. -/
  normFmt (f : Fmt) : Bool := f = plainFmt .fp32 || f = plainFmt .bf16 || f = { code := .e4m3, scaled := true }

/-! ### Clauses (R137, R138, R143 to R146) -/

/-- The loop's shape that fused operations must share (R144, R146). -/
def loopShape (l : Loop) : LoopRole × Nat × BoundSrc := (l.role, l.pos, l.bound)

/-- The shapes of the loops of some roles, lowest POS first. -/
def shapes (ls : List Loop) (rs : List LoopRole) : List (LoopRole × Nat × BoundSrc) :=
  (List.range 6).flatMap fun p => (ls.filter (fun l => rs.contains l.role && l.pos = p)).map loopShape

/-- Neighbouring operations of a clause. -/
def neighbours : List OpDesc → List (OpDesc × OpDesc)
  | a :: b :: r => (a, b) :: neighbours (b :: r)
  | _ => []

/-- The columns that a PAGESCATTER slot with PARAM[0] = 1 keeps out of C, as [first, end) (R160). -/
def keptRanges (o : OpDesc) : List (Nat × Nat) :=
  (o.epi.filter fun m => m.kind = 0x18 && m.param % 2 = 1).map fun m => (m.imm0.toNat, m.imm1.toNat)

/-- Whether a column is kept out of C (R160). -/
def keptFromC (o : OpDesc) (col : Nat) : Bool := (keptRanges o).any fun k => k.1 ≤ col && col < k.2

/-- The first column from `n` on in none of the ranges: one pass over them for each passes them all. -/
def nextWritten (ks : List (Nat × Nat)) (n : Nat) : Nat :=
  ks.foldl (fun n _ => ks.foldl (fun n k => if k.1 ≤ n && n < k.2 then k.2 else n) n) n

/-- The end of the last column below `n` in none of the ranges. -/
def endWritten (ks : List (Nat × Nat)) (n : Nat) : Nat :=
  ks.foldl (fun n _ => ks.foldl (fun n k => if k.1 < n && n ≤ k.2 then k.1 else n) n) n

/-- The first and last index of a loop that C is written at: every one but the columns kept out of it. -/
def writtenIndices (o : OpDesc) (l : Loop) (bound : Nat) : Option (Nat × Nat) :=
  let lo := if l.role = .n then nextWritten (keptRanges o) 0 else 0
  let hi := if l.role = .n then endWritten (keptRanges o) bound else bound
  if lo < hi then some (lo, hi - 1) else none

/-- The lowest and highest element offset of C that an operation writes at some bounds (R112, R160); none where it writes
nothing. -/
def extentOf (o : OpDesc) (bounds : List (Loop × Nat)) : Option (Int × Int) :=
  ((bounds.filter (·.1.role ≠ .k)).mapM fun b =>
    (writtenIndices o b.1 b.2).map fun i => (b.1.strideC * (i.1 : Int), b.1.strideC * (i.2 : Int))).map fun ends =>
      ends.foldl (fun e p => (e.1 + min p.1 p.2, e.2 + max p.1 p.2)) (0, 0)

/-- The byte offset of an element offset (R112). -/
def byteOffset (w : Nat) (x : Int) : Int := if w = 4 then x / 2 else x * ((w / 8 : Nat) : Int)

/-- Whether an extent of C, with its scales, lies in block memory (R145). -/
def extentInBlock (c : Operand) (lo hi : Int) : Bool :=
  let w := codeWidth c.fmt.code
  let hi := if c.fmt.scaled then hi + (31 - hi % 32) else hi
  let first : Int := c.base + byteOffset w lo
  let last : Int := c.base + byteOffset w hi + (if w = 4 then 1 else (w / 8 : Nat)) - 1
  let sFirst : Int := c.scaleBase + lo / 32
  let sLast : Int := c.scaleBase + hi / 32
  let inside := fun (v : Int) => decide ((blockBase : Int) ≤ v) && decide (v < (blockEnd : Int))
  inside first && inside last && (!c.fmt.scaled || (inside sFirst && inside sLast))

/-- Whether what an operation writes to C at some bounds lies in block memory (R145). -/
def bufferOk (o : OpDesc) (bounds : List (Loop × Nat)) : Bool :=
  match extentOf o bounds with
  | some e => extentInBlock o.c e.1 e.2
  | none => true

/-- Whether every bound of an operation is constant (R145). -/
def allConst (o : OpDesc) : Bool := o.loops.all fun l => (constBound l).isSome

/-- The band buffer of a producing operation at load (R145): all of it where every bound is constant. -/
def bandOk (o : OpDesc) : Bool :=
  if allConst o then bufferOk o (o.loops.filterMap fun l => (constBound l).map fun b => (l, b)) else inBlock o.c.base

/-- Whether an area of FP32 words lies in block memory. -/
def wordsInBlock (a n : Nat) : Bool := n = 0 || rangeInBlock a (4 * n)

/-- Words of the partial area of a ROWRED or COLRED slot at bounds: Ocount, Mbound, Nbound (R162). -/
def partialWords (kind oc mb nb : Nat) : Nat :=
  if kind = 0x16 then oc * mb * ((nb + 63) / 64) else if kind = 0x17 then oc * ((mb + 15) / 16) * nb else 0

/-- The partial areas of an operation at load (R162): the whole areas where every bound is constant, else ADDR2 alone,
which `epiOk` checks. -/
def partialsAtLoad (o : OpDesc) : Bool :=
  let b := fun r => (constBound (loopOf o.loops r)).getD 0
  let oc := ((loopsOf o.loops .outer).map fun l => (constBound l).getD 0).foldl (· * ·) 1
  !allConst o || o.epi.all fun m => wordsInBlock m.addr2 (partialWords m.kind oc (b .m) (b .n)) || (m.kind ≠ 0x16 && m.kind ≠ 0x17)

/-- Stage of each operation (R143). -/
def stageNumbers : Nat → List OpDesc → List Nat
  | _, [] => []
  | s, o :: r => let s' := if o.link = .tile then s else s + 1; s' :: stageNumbers s' r

/-- The stage numbers of a clause, from 0. -/
def stagesOf (ops : List OpDesc) : List Nat := (stageNumbers 0 ops).map (· - 1)

/-- A NORM slot's producer: an earlier stage with exactly one ROWRED at the slot's ADDR (R157). -/
def normOk (ops : List OpDesc) (stage : Nat) (m : Modifier) : Bool :=
  m.kind ≠ 0x05 || m.param = 0xFF ||
  (match (ops.zip (stagesOf ops))[m.param]? with
   | some (o, s) => s < stage && (o.epi.filter (fun e => e.kind = 0x16 && e.addr = m.addr)).length = 1
   | none => false)

/-- A pair of neighbours (R144, R145, R173). DESIGN CHOICE (notes/assumptions 124): LINK = BAND after a producer with NOC = 1, which
writes no band buffer, is invalid. -/
def linkOk (p : OpDesc × OpDesc) : Bool :=
  let roles := [LoopRole.m, LoopRole.n, LoopRole.outer]
  match p.2.link with
  | .tile =>
    p.1.tm = p.2.tm && shapes p.1.loops roles = shapes p.2.loops roles && p.1.kind = .matmul && p.2.kind = .matmul &&
    p.1.noc && !p.1.intout && p.1.c.fmt = plainFmt .fp32 &&
    p.1.epi.all (fun m => m.kind ≠ 0x15 && m.kind ≠ 0x18 && m.kind ≠ 0x19)
  | .band => bandOk p.1 && !p.1.noc
  | .none => true

/-- Whether a modifier or a function of the clause reads positions of rows (R138, R156, R160, R167). -/
def usesRows (o : OpDesc) : Bool :=
  o.kind = .softmax || o.kind = .recomp || o.kind = .softgrad ||
  o.pro.any (fun m => m.kind = 0x04 && m.target = 0) || o.epi.any (fun m => m.kind = 0x14 || m.kind = 0x18)

/-- Whether a modifier of the operation reads positions of columns. -/
def usesColumns (o : OpDesc) : Bool :=
  o.pro.any (fun m => m.kind = 0x04 && m.target = 1) || o.epi.any (fun m => m.kind = 0x14)

/-- F of R108 and R144. -/
def fuseBytes (ops : List OpDesc) : Nat :=
  match ops.find? (·.link = .tile) with
  | some o => o.tm * 64 * 4
  | none => 0

/-- A clause: header and operations (R137, R138); `bs` starts at the clause. "The same M loop and the same OUTER loops" of
R146 is read with the POS of the loops (notes/assumptions 89). -/
def parseClause (ntrig : Nat) (cls : Nat) (bs : List Byte) : Option Clause := do
  let n := field bs 0 1
  let pa ← addrField bs 8
  let pb ← addrField bs 16
  let ops ← (pieces 672 n (slice bs 64 (672 * n))).mapM (parseOp ntrig)
  let pc ← (match cls with
    | 0 => some PoolClass.shared
    | 1 => some PoolClass.prefill
    | 2 => some PoolClass.decode
    | _ => none)
  let stages := stagesOf ops
  let multi := 1 < (stages.getLastD 0) + 1
  let rows := [LoopRole.m, LoopRole.outer]
  let head := ops.head?
  let same := ops.all fun o =>
    match head with
    | some h => h.tm = o.tm && shapes h.loops rows = shapes o.loops rows
    | none => true
  let ok := 1 ≤ n && n ≤ 8 && field bs 1 7 = 0 && allZero (slice bs 24 40) && ops.length = n &&
    (match head with
     | some h => h.link = .none
     | none => false) &&
    (neighbours ops).all linkOk && (!multi || same) &&
    (ops.zip stages).all (fun p => p.1.pro.all (normOk ops p.2)) &&
    ops.all (fun o => 1 ≤ contextsFor o (fuseBytes ops)) && ops.all partialsAtLoad &&
    (pa = 0 || ops.any usesRows) && (pb = 0 || ops.any usesColumns)
  whenOk ok { posA := pa, posB := pb, cls := pc, ops := ops }

/-- Bytes of a clause in the image (R137). -/
def clauseBytes (bs : List Byte) : Nat := 64 + 672 * field bs 0 1

/-- Consecutive clauses with their class bytes. -/
def parseClauses (ntrig : Nat) : List Nat → List Byte → Option (List Clause)
  | [], _ => some []
  | c :: cs, bs => do
    let x ← parseClause ntrig c bs
    let n := clauseBytes bs
    if bs.length < n then none
    else
      let rest ← parseClauses ntrig cs (bs.drop n)
      some (x :: rest)

/-! ### Triggered operations (R301, R305, R306, R314) -/

/-- Whether an operation is a reduction. -/
def isReduction (op : Nat) : Bool := op = 1 || op = 2

/-- Whether an operation is a dispatch (R314). -/
def isDispatch (op : Nat) : Bool := op = 6 || op = 7

/-- An entry of the triggered-operation table (R301). -/
def parseTrig (bs : List Byte) : Option TrigEntry := do
  let b1 := field bs 1 1
  let b2 := field bs 2 1
  let b3 := field bs 3 1
  let trig := field bs 4 2
  let done := field bs 6 2
  let ty ← fmtOf (field bs 14 1)
  let dty ← fmtOf (field bs 15 1)
  let src ← addrField bs 16
  let dst ← addrField bs 24
  let aux ← addrField bs 32
  let nrows ← addrField bs 48
  let op := field bs 0 1
  let gate := field bs 12 2
  let e : TrigEntry := {
    op := op, group := b1 % 64, ored := bitOf b1 6, vc := b2, redMax := b3 = 1, trig := trig,
    done := done % 1024, doneEn := bitOf done 15, thresh := field bs 8 4, gate := gate, type := ty, dtype := dty,
    src := src, dst := dst, aux := aux, n := field bs 40 4, cap := field bs 44 4, nrows := nrows,
    peer := field bs 56 2, bpm := field bs 58 2, routes := field bs 60 4 }
  let plain := fun (f : Fmt) => !f.scaled
  let floats := fun (f : Fmt) => f = plainFmt .fp32 || f = plainFmt .bf16 || f = plainFmt .fp16
  let red := isReduction op
  let disp := isDispatch op
  let putOp := op = 9 || op = 10
  let ok := b1 < 128 && 1 ≤ op && op ≤ 10 && (!e.ored || red) && (b2 = 1 || (putOp && b2 = 3)) &&
    (if red then b3 ≤ 1 else b3 = 0) && trig < 1024 && bitsOf done 10 5 = 0 && (gate < 0x8000 || gate = 0xFFFF) &&
    (if red then floats ty && floats dty else plain ty && ty = dty) &&
    (disp || (e.cap = 0 && nrows = 0 && e.bpm = 0 && e.routes = 0)) &&
    (!disp || (1 ≤ e.bpm && e.bpm ≤ 16384 && 1 ≤ e.routes && e.routes ≤ 16)) &&
    (op = 4 || putOp || op = 8 || e.peer = 0) && (op ≠ 8 || e.peer < 4096) &&
    (codeWidth ty.code ≠ 4 || e.n % 2 = 0)
  whenOk ok e

/-! ### Sample points, plan map, pools (R265, R364, R365) -/

/-- A sample point (R265). -/
def parseSample (bs : List Byte) : Option SamplePoint := do
  let lg ← addrField bs 8
  let ls ← addrField bs 16
  let f ← fmtOf (field bs 2 1)
  let v := field bs 24 4
  let cl := field bs 0 2
  let ok := cl < 0x8000 && field bs 3 1 = 0 && (f = plainFmt .fp32 || f = plainFmt .bf16) && 2 ≤ v && v ≤ 262144 &&
    v ≤ field bs 4 4
  whenOk ok { clause := cl, fmt := f, pitch := field bs 4 4, logits := lg, list := ls, v := v, draftOut := field bs 28 4 }

/-- A plan-map entry (R364). -/
def parsePlan (bs : List Byte) : Option PlanEntry := do
  let ad ← addrField bs 8
  let k := field bs 0 1
  let size := field bs 4 4
  whenOk (field bs 1 1 = 0 && 1 ≤ k && k ≤ 12 && rangeInMap ad size)
    { kind := k, index := field bs 2 2, size := size, addr := ad }

/-- A slot pool (R365). -/
def parsePool (bs : List Byte) : Option PoolEntry := do
  let ba ← addrField bs 8
  let t := field bs 0 1
  let g := field bs 4 4
  let ok := t < 2 && field bs 1 3 = 0 && ba % 512 = 0 &&
    (if t = 0 then rangeInBlock ba (512 * g) && (g = 0 || blockOf ba = blockOf (ba + 512 * g - 1))
     else rangeInHbm ba (512 * g))
  whenOk ok { tier := t, granules := g, base := ba }

/-- Whether two ranges share a byte. -/
def rangesMeet (a n b m : Nat) : Bool := n != 0 && m != 0 && a < b + m && b < a + n

/-- Whether no two pools overlap (R365). -/
def poolsApart : List PoolEntry → Bool
  | [] => true
  | p :: ps => ps.all (fun q => !rangesMeet p.base (512 * p.granules) q.base (512 * q.granules)) && poolsApart ps

/-- Whether a section of `n` bytes lies inside the image at a multiple of 8 (R363). -/
def sectionOk (len off n : Nat) : Bool := off % 8 = 0 && off + n ≤ len

/-- The bucket sizes: strictly ascending multiples of 16, at least 16 (R363). -/
def bucketsOk : Nat → List Nat → Bool
  | _, [] => true
  | low, b :: bs => low < b && b % 16 = 0 && 16 ≤ b && bucketsOk b bs

/-- A directory's bytes (R197). -/
def directorySize (layers heads : Nat) : Nat := 32 * 16384 * layers * heads

/-- Every SENDFAB slot of the clauses, as entry numbers (R160). -/
def sendfabEntries (cs : List Clause) : List Nat :=
  cs.flatMap fun c => c.ops.flatMap fun o => (o.epi.filter (·.kind = 0x19)).map (·.imm0.toNat)

/-- A PAGESCATTER column range at a constant N bound (R203). -/
def scatterOk (o : OpDesc) : Bool :=
  o.epi.all fun m => m.kind ≠ 0x18 ||
    (match constBound (loopOf o.loops .n) with
     | some n => m.imm1.toNat ≤ n
     | none => true)

/-- A sentence image (R363 to R365) at device address `dst`: every check that needs the image alone. -/
def parseSentence (dst : Nat) (bs : List Byte) : Option Sentence := do
  let len := bs.length
  let nclause := field bs 4 2
  let ntrig := field bs 6 2
  let nsample := field bs 8 1
  let nbucket := field bs 9 1
  let nplan := field bs 10 2
  let npool := field bs 12 2
  let cOff := field bs 16 4
  let clsOff := field bs 20 4
  let tOff := field bs 24 4
  let sOff := field bs 28 4
  let plOff := field bs 32 4
  let poOff := field bs 36 4
  let dir ← addrField bs 72
  let fwa ← addrField bs 88
  let fws ← addrField bs 96
  let layers := field bs 80 2
  let heads := field bs 82 2
  let head := field bs 0 2 = 1 && field bs 2 2 = 0 && 1 ≤ nclause && nclause ≤ 32768 && ntrig ≤ 4096 && nsample ≤ 64 &&
    1 ≤ nbucket && nbucket ≤ 8 && 1 ≤ nplan && 1 ≤ npool && npool ≤ 256 && field bs 14 2 = 0 && heads ≤ 16 &&
    1 ≤ heads && field bs 84 4 = 0 && allZero (slice bs 104 24) && 128 ≤ len && sectionOk len cOff 0 &&
    sectionOk len clsOff nclause && sectionOk len tOff (64 * ntrig) && sectionOk len sOff (32 * nsample) &&
    sectionOk len plOff (16 * nplan) && sectionOk len poOff (16 * npool)
  let _ ← whenOk head ()
  let clauses ← parseClauses ntrig ((slice bs clsOff nclause).map (·.toNat)) (bs.drop cOff)
  let trig ← (pieces 64 ntrig (slice bs tOff (64 * ntrig))).mapM parseTrig
  let samples ← (pieces 32 nsample (slice bs sOff (32 * nsample))).mapM parseSample
  let plan ← (pieces 16 nplan (slice bs plOff (16 * nplan))).mapM parsePlan
  let pools ← (pieces 16 npool (slice bs poOff (16 * npool))).mapM parsePool
  let sizes := (pieces 4 8 (slice bs 40 32)).map natOfBytes
  let buckets := sizes.take nbucket
  let dirBytes := directorySize layers heads
  let named := sendfabEntries clauses
  let indexOk := fun (p : PlanEntry) =>
    if p.kind = 0x0A then p.index < nsample else if p.kind = 0x0B then p.index = 0 else p.index < nclause
  let ok := bucketsOk 0 buckets && (sizes.drop nbucket).all (· = 0) && plan.all indexOk && poolsApart pools &&
    samples.all (fun s => s.clause < nclause) &&
    (samples.zip (List.range nsample)).all (fun p =>
      plan.any (fun e => e.kind = 0x0A && e.index = p.2 && e.addr = p.1.list)) &&
    trig.all (fun e => e.gate = 0xFFFF || e.gate < nclause) &&
    (trig.zip (List.range ntrig)).all (fun p => p.1.thresh ≠ 0 || named.contains p.2) &&
    trig.all (fun e => e.op ≠ 8 || (match trig[e.peer]? with
      | some d => isDispatch d.op
      | none => false)) &&
    clauses.all (fun c => c.ops.all scatterOk) &&
    fwa % 2 ^ 21 = 0 && fws % 2 ^ 21 = 0 && fws ≠ 0 && rangeInHbm fwa fws && rangeInMap dir dirBytes && dir % 32 = 0 &&
    pools.all (fun p => !rangesMeet fwa fws p.base (512 * p.granules)) &&
    plan.all (fun p => !rangesMeet fwa fws p.addr p.size) && !rangesMeet fwa fws dir dirBytes &&
    !rangesMeet fwa fws dst len
  whenOk ok { dst := dst, len := len, clauses := clauses, trig := trig, samples := samples, buckets := buckets,
              plan := plan, pools := pools, dir := dir, dirLayers := layers, dirHeads := heads, fwArea := fwa,
              fwSize := fws, digest := [] }

end Sys2Proof.Machine
end

