-- ==== Sys2Proof/Machine/Operands.lean ====
section
/-!
DEFINITION. How step work reads and writes memory (R112, R113, R447, R450) and every operand form: strided operands
(R112), paged operands through a page-list set (R197 to R202), side values (R153), positions (R139). Work runs over a
record `Run` of what it has read, written and raised; nothing outside the record changes while a tile runs.
-/
namespace Sys2Proof.Machine

/-- Step work in progress: memory, what its accesses found, what it raised, whether it faulted (R113, R198), and what
it leaves for the boundary: empty rows (R180), skipped rewrites (R204), written positions (R204), the addresses written
to C by a STEPOUT operation (R142), and bytes handed to fabric entries (R303). `wrote` holds the addresses of C and of
pages that the run wrote, `words` the ranges that it wrote besides C, `reads` the ranges that it read. Of the operation that runs, `shared` are the addresses where what it writes is unpredictable
(R114, R150, R178, R347), `foreign` those where what it reads is, and `foreignA` the same for what it reads through A,
which may be a band buffer (R145), each as (start, length). `cellBytes` are what the tile's cell-local storage takes, by offset in the
context's accumulator area (R108). `encoded` are the rows (0) and columns (1) of operations whose prologue encoding has been
counted, as (operation, target, number) (R102). `scattered` are the blocks of pages written, by tier and address of the scale (R205),
and `free` counts free values. -/
structure Run where
  mem : Mem
  events : List MemEvent
  raised : Raised
  fault : Bool
  emptyRows : Nat
  rewrites : Nat
  written : List Written
  outBytes : List Nat
  handed : List (Nat × Nat × Byte)
  wrote : List Nat
  words : List (Nat × Nat)
  reads : List (Nat × Nat)
  shared : List (Nat × Nat)
  foreign : List (Nat × Nat)
  foreignA : List (Nat × Nat)
  cellBytes : List (Nat × List Byte)
  encoded : List (Nat × Nat × Nat)
  scattered : List (Nat × Nat)
  free : Nat
  deriving DecidableEq, Repr

/-- Nothing done yet; `encoded` comes from the clause. -/
def startRun (m : Mem) (encoded : List (Nat × Nat × Nat)) (free : Nat) : Run :=
  { mem := m, events := [], raised := noneRaised, fault := false, emptyRows := 0, rewrites := 0, written := [],
    outBytes := [], handed := [], wrote := [], words := [], reads := [], shared := [], foreign := [], foreignA := [], cellBytes := [], encoded := encoded,
    scattered := [], free := free }

/-- Step work as a function over its record. -/
abbrev Ev := StateM Run

/-- A fault of the step (R113, R198). -/
def evFault : Ev Unit := modify fun r => { r with fault := true }

/-- A fault when a condition fails. -/
def evCheck (c : Bool) : Ev Unit := if c then pure () else evFault

/-- Raise flags and counts. -/
def evRaise (x : Raised) : Ev Unit := modify fun r => { r with raised := r.raised.join x }

/-- Raise flags only. -/
def evFlags (f : BitVec 7) : Ev Unit := evRaise (raise f)

/-- Work whose counts are those of one event, however often it runs (R102): a second time it raises its flags alone. -/
def evOnce {α : Type} (key : Nat × Nat × Nat) (x : Ev α) : Ev α := do
  let before ← get
  let v ← x
  modify fun r =>
    if before.encoded.contains key then
      { r with raised := { r.raised with ufl := before.raised.ufl, nonfin := before.raised.nonfin } }
    else { r with encoded := key :: r.encoded }
  pure v

/-- A value with the flags of its making. -/
def evFlagged {α : Type} (x : α × BitVec 7) : Ev α := do
  evFlags x.2
  pure x.1

/-- A byte that nothing determines (R4). -/
def freeByte (k : Nat) : Byte := BitVec.ofNat 8 (Config.free k)

/-- `n` free bytes from count `k`. -/
def freeRun (k n : Nat) : List Byte := (List.range n).map fun i => freeByte (k + i)

/-- `n` free bytes. -/
def evFreeBytes (n : Nat) : Ev (List Byte) := do
  let r ← get
  set { r with free := r.free + n }
  pure (freeRun r.free n)

/-- Whether an address lies in one of some ranges. -/
def inSpans (ss : List (Nat × Nat)) (a : Nat) : Bool := ss.any fun s => s.1 ≤ a && a < s.1 + s.2

/-- Whether one of some ranges shares a byte with `n` bytes at `a`. -/
def meetsSpans (ss : List (Nat × Nat)) (a n : Nat) : Bool := ss.any fun s => rangesMeet s.1 s.2 a n

/-- Addresses as ranges: neighbours that follow one another are one range. -/
def spansOf (xs : List Nat) : List (Nat × Nat) :=
  xs.foldr (fun a acc =>
    match acc with
    | (b, n) :: r => if a + 1 = b then (a, n + 1) :: r else (a, 1) :: acc
    | [] => [(a, 1)]) []

/-- How step work reads bytes: an address and a length. -/
abbrev Reader := Int → Nat → Ev (List Byte)

/-- The bytes read from `a`, those at the addresses `open'` replaced by free values from count `k`. -/
def openBytes (open' : List (Nat × Nat)) (k a : Nat) (bs : List Byte) : List Byte :=
  (bs.zip (List.range bs.length)).map fun p => if inSpans open' (a + p.2) then freeByte (k + p.2) else p.1

/-- Read `n` bytes of device memory: outside the map the step faults and nothing is read (R113). What the addresses
`open'` give is unpredictable (R150). -/
def evReadOpen (open' : List (Nat × Nat)) : Reader := fun a n => do
  if a < 0 || !rangeInMap a.toNat n then
    evFault
    pure (List.replicate n 0#8)
  else
    let r ← get
    let t := touchRange r.mem a.toNat n
    let met := meetsSpans open' a.toNat n
    let seen := (a.toNat, n)
    set { r with
      mem := t.2.1, events := r.events ++ t.2.2, free := if met then r.free + n else r.free
      reads := if r.reads.contains seen then r.reads else seen :: r.reads }
    pure (if met then openBytes open' r.free a.toNat t.1 else t.1)

/-- A read of the operation that runs. -/
def evRead : Reader := fun a n => do evReadOpen (← get).foreign a n

/-- A read through its operand A. -/
def evReadA : Reader := fun a n => do evReadOpen (← get).foreignA a n

/-- A little-endian number of device memory. -/
def evNat (a : Int) (n : Nat) : Ev Nat := do
  let bs ← evRead a n
  pure (natOfBytes bs)

/-- A little-endian number read through a reader. -/
def evNatBy (rd : Reader) (a : Int) (n : Nat) : Ev Nat := do
  let bs ← rd a n
  pure (natOfBytes bs)

/-- Write bytes of device memory (R113, R447); a step that has faulted or met an uncorrectable word writes nothing more. -/
def evWrite (a : Int) (bs : List Byte) : Ev Unit := do
  let r ← get
  if r.fault || anyUncorrectable r.events then pure ()
  else if a < 0 || !rangeInMap a.toNat bs.length then evFault
  else
    let t := writeRange r.mem a.toNat bs
    set { r with mem := t.1, events := r.events ++ t.2 }

/-- One byte of C as it is to be written: one that another output element of the operation or another operation of the clause
wrote becomes unpredictable (R114, R150). -/
def evByteC (p : Int × Byte) : Ev (Int × Byte) := do
  let r ← get
  let a := p.1.toNat
  if inSpans r.shared a || r.wrote.contains a then
    set { r with free := r.free + 1 }
    pure (p.1, freeByte r.free)
  else
    set { r with wrote := a :: r.wrote }
    pure p

/-- Write bytes that are no element of C: those that another operation of the clause writes too are unpredictable
(R150). -/
def evWriteApart (a : Int) (bs : List Byte) : Ev Unit := do
  modify fun r => { r with words := r.words ++ [(a.toNat, bs.length)] }
  let r ← get
  if meetsSpans r.shared a.toNat bs.length then
    set { r with free := r.free + bs.length }
    evWrite a (openBytes r.shared r.free a.toNat bs)
  else evWrite a bs

/-- Write one FP32 word. -/
def evWrite32 (a : Int) (v : BitVec 32) : Ev Unit := evWriteApart a (bytesOfNat 4 v.toNat)

/-- Read one FP32 word under ARITH through a reader. -/
def evReadF32By (rd : Reader) (ar : Arith) (a : Int) : Ev Val := do
  let w ← evNatBy rd a 4
  evFlagged (readF32 ar (BitVec.ofNat 32 w))

/-- Read one FP32 word under ARITH. -/
def evReadF32 (ar : Arith) (a : Int) : Ev Val := evReadF32By evRead ar a

/-- An FP32 value that enters an operation from no memory (an immediate, the fuse value): with FTZ a subnormal one is
read as zero of its sign (R68). -/
def evInput (ar : Arith) (v : Val) : Ev Val := do
  match v with
  | .fin s m x =>
    if ar.ftz && m != 0 && magLt m x 1 (-126) then
      evFlags flagFtz
      pure (.fin s 0 0)
    else pure v
  | v => pure v

/-! ### Strided operands (R112) -/

/-- The encoding of the element at offset `x` of an area of width `w`. -/
def evBits (rd : Reader) (w : Nat) (base : Nat) (x : Int) : Ev Nat := do
  if w = 4 then
    let b ← evNatBy rd (base + x / 2) 1
    pure (if x % 2 = 0 then b % 16 else b / 16)
  else evNatBy rd (base + x * ((w / 8 : Nat) : Int)) (w / 8)

/-- An element of an unscaled format, at its exact value (R153). -/
def evSide (rd : Reader) (f : Fmt) (ar : Arith) (base : Nat) (x : Int) : Ev Val := do
  let b ← evBits rd (codeWidth f.code) base x
  evFlagged (readPart f ar b)

/-- The element at offset `x` of a strided operand (R90, R112): element part and scale exponent; under the NaN scale
the element is NaN (R71). -/
def evElem (rd : Reader) (o : Operand) (ar : Arith) (x : Int) : Ev Elem := do
  let b ← evBits rd (codeWidth o.fmt.code) o.base x
  if o.fmt.scaled then
    let s ← evNatBy rd (o.scaleBase + x / 32) 1
    match scaleExp s with
    | none => pure { v := .nan, k := 0 }
    | some k => pure { v := elemPart o.fmt b, k := k }
  else
    let v ← evFlagged (readPart o.fmt ar b)
    pure { v := v, k := 0 }

/-- An element at its exact value. -/
def elemVal (e : Elem) : Val := e.v.scaleBy e.k

/-! ### Loops at issued bounds (R118, R123, R139) -/

/-- The bounds of an operation's loops, in table order. -/
abbrev Bounds := List (Loop × Nat)

/-- The bound of the loop of a role. -/
def boundFor (bs : Bounds) (r : LoopRole) : Nat := ((bs.find? (·.1.role = r)).map (·.2)).getD 0

/-- The OUTER loops with their bounds, lowest POS first (R139). -/
def outerBounds (bs : Bounds) : Bounds :=
  (List.range 6).flatMap fun p => bs.filter (fun l => l.1.role = .outer && l.1.pos = p)

/-- Ocount (R139). -/
def outerCount (bs : Bounds) : Nat := ((outerBounds bs).map (·.2)).foldl (· * ·) 1

/-- The indices of the OUTER loops for the number `o`, lowest POS varying fastest (R139). -/
def outerIndices : Bounds → Nat → List (Loop × Nat)
  | [], _ => []
  | (l, b) :: r, o => (l, o % b) :: outerIndices r (o / b)

/-- Which stride of a loop. -/
inductive Which where
  | a | b | c
  deriving DecidableEq, Repr

/-- The stride of an operand. -/
def strideOf (w : Which) (l : Loop) : Int :=
  match w with
  | .a => l.strideA
  | .b => l.strideB
  | .c => l.strideC

/-- The element offset of R112 for row m, column n, reduction index k and outer number o. -/
def elemOffset (bs : Bounds) (w : Which) (m n k o : Nat) : Int :=
  let st := fun r => ((bs.find? (·.1.role = r)).map (fun l => strideOf w l.1)).getD 0
  st .m * (m : Int) + st .n * (n : Int) + st .k * (k : Int) +
    ((outerIndices (outerBounds bs) o).map fun p => strideOf w p.1 * (p.2 : Int)).foldl (· + ·) 0

/-! ### Page-list sets (R197 to R202) -/

/-- A page-list set descriptor (R197). -/
structure PageSet where
  layer : Nat
  head0 : Nat
  nheads : Nat
  dh : Nat
  parts : Nat
  dir : Nat
  dirLayers : Nat
  dirHeads : Nat
  nseq : Nat
  seqtab : Nat
  rowmap : Nat
  deriving DecidableEq, Repr

/-- The descriptor of 64 bytes, or none where it breaks R197 (R198). -/
def parseSet (bs : List Byte) : Option PageSet := do
  let dir ← addrField bs 8
  let seqtab ← addrField bs 24
  let rowmap ← addrField bs 32
  let s : PageSet := {
    layer := field bs 0 2, head0 := field bs 2 1, nheads := field bs 3 1, dh := field bs 4 2, parts := field bs 6 2,
    dir := dir, dirLayers := field bs 16 2, dirHeads := field bs 18 2, nseq := field bs 20 4, seqtab := seqtab,
    rowmap := rowmap }
  let ok := s.layer < s.dirLayers && 1 ≤ s.nheads && s.nheads ≤ 16 && s.head0 + s.nheads ≤ s.dirHeads &&
    1 ≤ s.dirHeads && s.dirHeads ≤ 16 && s.dh % 32 = 0 && 32 ≤ s.dh && s.dh ≤ 512 && 1 ≤ s.parts && s.parts ≤ 3 &&
    dir % 32 = 0 && allZero (bs.drop 40)
  whenOk ok s

/-- A set descriptor that breaks a rule, for a step that has faulted. -/
def noSet : PageSet :=
  { layer := 0, head0 := 0, nheads := 1, dh := 32, parts := 1, dir := 0, dirLayers := 1, dirHeads := 1, nseq := 0,
    seqtab := 0, rowmap := 0 }

/-- The page-list set of 64 bytes at an address, which is a multiple of 8 (R197). -/
def setAt (a : Nat) (bs : List Byte) : Option PageSet := if a % 8 = 0 then parseSet bs else none

/-- Read a page-list set; one that breaks R197 faults the step (R198). -/
def evSet (a : Nat) : Ev PageSet := do
  let bs ← evRead a 64
  match setAt a bs with
  | some s => pure s
  | none =>
    evFault
    pure noSet

/-- What paged operands look at during a step: the walker's snapshot of the lists (R196) and the positions reported
before the clause's issue (R202). -/
structure Walk where
  lists : List PageList
  written : List Written
  deriving DecidableEq, Repr

/-- The list of a key; one that firmware never touched is empty. -/
def listOf (ls : List PageList) (k : ListKey) : PageList :=
  (ls.find? (·.key = k)).getD
    { key := k, dh := 0, npos := 0, gen := 0, cap := 0, entriesAt := 0, nshared := 0, entries := [], lastGain := 0, gains := [] }

/-- Whether a position of a list has both its parts written (R204). -/
def bothParts (ws : List Written) (k : ListKey) (p : Nat) : Bool :=
  ws.contains { key := k, pos := p, part := 0 } && ws.contains { key := k, pos := p, part := 1 }

/-- The length of the run of written positions from `p` (R202, R206); `fuel` bounds it. -/
def writtenRun (ws : List Written) (k : ListKey) : Nat → Nat → Nat
  | 0, _ => 0
  | fuel + 1, p => if bothParts ws k p then 1 + writtenRun ws k fuel (p + 1) else 0

/-- The key count of a list (R168, R202). -/
def keyCount (w : Walk) (k : ListKey) : Nat :=
  let n := (listOf w.lists k).npos
  n + writtenRun w.written k w.written.length n

/-- The SEQTAB word of an entry (R197, R200). An index at or above NSEQ names none: R200 says so of an OUTER index, R204 is
silent on a ROWMAP word (notes/assumptions 90). -/
def evSeq (s : PageSet) (i : Nat) : Ev (Option Nat) := do
  if s.nseq ≤ i then pure none
  else
    let w ← evNat (s.seqtab + 4 * i) 4
    if w = 0xFFFFFFFF then pure none
    else if w < 16384 then pure (some w)
    else
      evFault
      pure none

/-- Device address of the head of a list of a set (R197). -/
def setHead (s : PageSet) (k : ListKey) : Nat := s.dir + 32 * ((k.slot * s.dirLayers + k.layer) * s.dirHeads + k.head)

/-- The list that outer number `o` selects (R200). -/
def evListFor (s : PageSet) (o : Nat) : Ev (Option ListKey) := do
  let q ← evSeq s (o / s.nheads)
  pure (q.map fun slot => { dir := s.dir, slot := slot, layer := s.layer, head := s.head0 + o % s.nheads })

/-- Element bytes per position and part (R190). -/
def partBytes (dh : Nat) (fp4 : Bool) : Nat := if fp4 then dh / 2 else dh

/-- Bytes of a slot (R190). -/
def slotBytes (dh : Nat) (fp4 : Bool) : Nat := 512 * (partBytes dh fp4 + dh / 32)

/-- Byte offset in a slot of an element (its byte) and of its scale: place q, part (0 K, 1 V), dimension d (R190). -/
def placeOf (dh : Nat) (fp4 : Bool) (q part dim : Nat) : Nat × Nat :=
  let e := partBytes dh fp4
  let s := dh / 32
  (part * 256 * e + q * e + (if fp4 then dim / 2 else dim), 512 * e + part * 256 * s + q * s + dim / 32)

/-- `n` bytes at an offset of a page's slot, from device memory or the host spill area (R194, R200). -/
def evSlot (e : PageEntry) (off n : Nat) : Ev (List Byte) := do
  if e.tier = 2 then
    let r ← get
    pure (readBytes r.mem.spill (e.slot + off) n)
  else evRead (e.slot + off) n

/-- The walker reads an entry of a list; what it says is in the list (R193; notes/assumptions 75). -/
def evEntry (l : PageList) (i : Nat) : Ev Unit := do
  let _ ← evRead (l.entriesAt + 8 * i) 8

/-- The element of key `key`, dimension `dim` of a list's part (R190, R200): FMT 0x15 over an FP8 page faults (R201). -/
def evKey (fmt : Fmt) (dh part : Nat) (l : PageList) (key dim : Nat) : Ev Elem := do
  match l.entries[key / 256]? with
  | none =>
    evFault
    pure { v := .nan, k := 0 }
  | some e =>
    if fmt.code = .e2m1 && !e.fp4 then
      evFault
      pure { v := .nan, k := 0 }
    else
      evEntry l (key / 256)
      let at' := placeOf dh e.fp4 (key % 256) part dim
      let b ← evSlot e at'.1 1
      let s ← evSlot e at'.2 1
      let v := natOfBytes b
      let f : Fmt := { code := if e.fp4 then .e2m1 else .e4m3, scaled := true }
      let bits := if e.fp4 then bitsOf v (4 * (dim % 2)) 4 else v
      match scaleExp (natOfBytes s) with
      | none => pure { v := .nan, k := 0 }
      | some k => pure { v := elemPart f bits, k := k }

/-! ### Positions (R139, R167) -/

/-- The position word PAD (R167). -/
def padPos : Nat := 0xFFFFFFFF

/-- The position of row number `i` or column number `i`. -/
def evPos (base i : Nat) : Ev Nat := evNat (base + 4 * i) 4

end Sys2Proof.Machine
end

