-- ==== Sys2Proof/Machine/Particles.lean ====
section
/-!
DEFINITION. Particles (R32, R298, R334): their bytes, sending with retry, receiving with the checks of R32 and R298.
-/
namespace Sys2Proof.Machine

def typeStart : Nat := 0x01
def typeDone : Nat := 0x02
def typeAbort : Nat := 0x03
def typeWant : Nat := 0x04
def typeCollFail : Nat := 0x10
def typeCredit : Nat := 0x20

/-- The particle's first 28 bytes. For EXPORT_CREDIT, `status` is LIST and `step` is CREDIT. -/
def particleBody (p : Particle) : List Byte :=
  bytesOfNat 1 p.type ++ bytesOfNat 1 p.status ++ bytesOfNat 2 p.group ++ bytesOfNat 4 p.gen ++
    bytesOfNat 6 p.step ++ bytesOfNat 2 0 ++ bytesOfNat 2 p.sender ++ bytesOfNat 2 p.entry ++ bytesOfNat 8 0

/-- The 32 bytes of a particle, with its CRC. -/
def particleBytes (p : Particle) : List Byte := particleBody p ++ bytesOfNat 4 (crc32c (particleBody p))

/-- The fields that 32 bytes hold. -/
def particleFields (bs : List Byte) : Particle :=
  { type := field bs 0 1, status := field bs 1 1, group := field bs 2 2, gen := field bs 4 4, step := field bs 8 6,
    sender := field bs 16 2, entry := field bs 18 2 }

/-- Whether the fields that a particle's type does not use are 0 and its codes are not reserved (R32, R298, R334). -/
def particleOk (p : Particle) : Bool :=
  if p.type = typeDone then p.status ≤ 1 && p.group = 0 && p.entry = 0
  else if p.type = typeStart || p.type = typeAbort || p.type = typeWant then p.status = 0 && p.group = 0 && p.entry = 0
  else if p.type = typeCollFail then 1 ≤ p.status && p.status ≤ 5 && p.group < 64 && p.entry < 4096
  else if p.type = typeCredit then p.group = 0 && p.sender = 0 && p.entry = 0
  else false

/-- The particle that bytes spell; none where the CRC or a reserved field is wrong (R32). -/
def parseParticle (bs : List Byte) : Option Particle :=
  let p := particleFields bs
  if particleOk p && particleBytes p = bs then some p else none

/-! ### Sending (R298) -/

/-- Send a particle to a node: a copy on every up port, kept until acknowledged. A mirror sends nothing (R421). -/
def sendParticle (node : Nat) (p : Particle) (d : Device) : Device :=
  if mirrors d then d
  else
    let t : TxParticle := { node := node, particle := p, resends := 0 }
    emit (.particle d.fab.up node p)
      { d with fab := { d.fab with
          particles := Tab.put d.fab.particles d.fab.nextId t
          nextId := d.fab.nextId + 1 } }

/-- The ranks of a group other than some ones. -/
def otherRanks (members : Nat) (mine : List Nat) : List Nat := (List.range members).filter fun r => !mine.contains r

/-- The ranks that this device serves in the partition: its own, and the taken one in SPLIT (R424). -/
def servedRanks (d : Device) : List Nat :=
  if d.twin.state = .split then [myRank d, d.twin.rank] else [myRank d]

/-- Whether this device acts as member 0 (R33, R424). -/
def isLead (d : Device) : Bool := (servedRanks d).contains 0

/-- Send a particle to every other member of the partition. -/
def sendMembers (p : Particle) (d : Device) : Device :=
  (otherRanks (memberCount d) (servedRanks d)).foldl (fun d r => sendParticle (partitionNode d r) p d) d

/-- A step particle of this member (R32). -/
def stepParticle (d : Device) (type status step : Nat) : Particle :=
  { type := type, status := status, group := 0, gen := d.job.gen, step := step, sender := myRank d, entry := 0 }

/-! ### Receiving -/

/-- A frame that R286 does not discard, on one of the virtual channels of its type (R288). -/
def frameOk (d : Device) (vcs : List Nat) (f : Frame) : Bool :=
  f.fcsOk && f.etype = regField d .fabFrame 0 16 && f.bytesOnWire ≤ 9216 && f.version = 1 && f.rsvZero &&
    vcs.contains f.vc && f.len = f.payload.length && f.len ≤ 8192

/-- Discard a frame (R286, R295): only its count changes. -/
def discardFrame (d : Device) : Device := { d with errs := { d.errs with discards := satAdd 20 d.errs.discards 1 } }

/-- A frame with no payload that answers a frame: its header comes back with source and destination exchanged, and RANK is
this member's own rank in the frame's group (R287). -/
def answerFrame (d : Device) (f : Frame) : Frame :=
  { f with
    fcsOk := true, etype := regField d .fabFrame 0 16, bytesOnWire := 70, version := 1, rsvZero := true, len := 0
    src := nodeId d, dst := f.src, rank := ((groupOf d f.group).map (·.myRank)).getD 0, flags := 0#7, agree := 0#64
    payload := [] }

/-- The frame of a particle that this device sends to a node. -/
def particleFrame (d : Device) (node : Nat) (p : Particle) : Frame :=
  { fcsOk := true, etype := regField d .fabFrame 0 16, bytesOnWire := 102, version := 1, rsvZero := true, vc := 0, len := 32
    src := nodeId d, dst := node, gen := p.gen, group := p.group, frag := 0, nfrag := 0, rank := p.sender, entry := p.entry
    flags := 0#7, step := p.step, piece := 0, index := 0, phase := 0, crc := crc32c (particleBytes p), agree := 0#64
    payload := particleBytes p }

/-- Acknowledge a particle's frame on the port it came by (R298). -/
def ackParticle (pin : ParticleIn) (d : Device) : Device := emit (.frame pin.port.val 0x02 (answerFrame d pin.frame)) d

/-- Receive a particle of a type: its frame is discarded and counted where R286 does not take it; a bad particle is discarded
and counted (R32); a copy of one acted on is acknowledged and has no effect (R298); a stale one is discarded and counted
(R31); any other is acknowledged and acts. A mirror takes none from its own ports (R421). -/
def receiveParticle (type : Nat) (pin : ParticleIn) (current : Device → Particle → Bool)
    (act : Particle → Device → Device) (d : Device) : Device :=
  if mirrors d then d
  else if !frameOk d [0] pin.frame then discardFrame d
  else
    match parseParticle pin.frame.payload with
    | none => countStale d
    | some p =>
      if p.type ≠ type then countStale d
      else if d.fab.seen.contains (pin.frame.src, p) then ackParticle pin d
      else if current d p then
        let d := ackParticle pin d
        act p { d with fab := { d.fab with seen := d.fab.seen ++ [(pin.frame.src, p)] } }
      else countStale d

/-- The unacknowledged particle that an acknowledgement names, by its node, its header and its CRC. -/
def matchesParticle (f : Frame) (t : TxParticle) : Bool :=
  t.node = f.src && t.particle.gen = f.gen && t.particle.step = f.step && t.particle.group = f.group &&
    t.particle.entry = f.entry && crc32c (particleBytes t.particle) = f.crc

/-- PARTICLE_RETRY_TIMEOUT (R298): resend every copy, or give the particle up after the last resend. A mirror sends no frame
(R421). -/
def devParticleRetryTimeout (id : Nat) (d : Device) : Device :=
  match Tab.find d.fab.particles id with
  | none => d
  | some t =>
    if !powered d || d.job.fatal || mirrors d then d
    else if t.resends < regField d .fabRetry 24 4 then
      emit (.particle d.fab.up t.node t.particle)
        { d with fab := { d.fab with particles := Tab.put d.fab.particles id { t with resends := t.resends + 1 } } }
    else { d with fab := { d.fab with particles := Tab.drop d.fab.particles id } }

/-- PARTICLE_RETRY_TIMEOUT. -/
def execParticleRetryTimeout (id : Nat) (s : State) : Host.Outcome State Fault Refusal :=
  lift (devParticleRetryTimeout id) s

end Sys2Proof.Machine
end

