-- ==== Sys2Proof/Machine/Ports.lean ====
section
/-!
DEFINITION. What leaves a fabric port and in which order (R290, R292, R293, R295 to R297): the frames of a chunk, the port
of a chunk, the bound of 256, the deficit round robin of the virtual channels and the round robin of the groups.
-/
namespace Sys2Proof.Machine

/-- Bytes of a chunk and of a frame (R290). -/
def chunkSize : Nat := 65536
def frameSize : Nat := 8192

/-! ### The frames of a chunk (R287, R290) -/

/-- The payloads of a chunk's frames; an empty chunk has one empty frame. -/
def framePieces (bs : List Byte) : List (List Byte) :=
  if bs.isEmpty then [[]] else pieces frameSize (bs.length / frameSize + 1) bs

/-- Bytes that surround the payload of a frame: MAC addresses, the 802.1Q tag where FAB_FRAME asks for it, EtherType, header and
FCS (R286). -/
def frameOverhead (d : Device) : Nat := 66 + 4 * regField d .fabFrame 28 1

/-- The frames of a chunk (R287, R290). -/
def chunkFrames (d : Device) (c : Chunk) : List Frame :=
  let ps := framePieces c.bytes
  let crc := crc32c c.bytes
  let n := ps.length
  (ps.zip (List.range n)).map fun p =>
    { fcsOk := true, etype := regField d .fabFrame 0 16, bytesOnWire := frameOverhead d + p.1.length, version := 1, rsvZero := true,
      vc := c.vc, len := p.1.length, src := nodeId d, dst := c.dst, gen := c.gen, group := c.group, frag := p.2,
      nfrag := n - 1, rank := c.rank, entry := c.entry, flags := c.flags, step := c.step, piece := c.piece,
      index := c.index, phase := c.phase, crc := crc, agree := c.agree, payload := p.1 }

/-! ### The port of a chunk (R293, R295) -/

/-- Whether fabric port p is up. -/
def portUp (d : Device) (p : Nat) : Bool := d.fab.up.getLsbD p

/-- The port for a chunk whose rule names port p: p, or the next up port in ascending order modulo 8; p where none is
up (R293). -/
def routePort (d : Device) (p : Nat) : Nat :=
  (((List.range 8).map fun k => (p + k) % 8).find? (portUp d)).getD (p % 8)

/-- Whether a chunk belongs to the switch's planes: it is never moved to another port (R293). -/
def isPlaneChunk (t : TxChunk) : Bool := t.chunk.ftype = 0x10 || t.chunk.ftype = 0x13 || t.chunk.ftype = 0x15

/-- Unacknowledged chunks that have left on a port (R295). -/
def inFlightOn (d : Device) (p : Nat) : Nat := (d.fab.chunks.filter fun e => e.2.port = p && !e.2.waiting).length

/-- Whether a chunk is ready on a port: it is to leave once more, or waits and the port has room (R295). -/
def readyOn (d : Device) (port : Nat) (t : TxChunk) : Bool :=
  t.port = port && (t.again || (t.waiting && decide (inFlightOn d port < 256)))

/-! ### The order of a port (R296, R297) -/

/-- The place of a chunk of VC1 in the order of R297: the turn of its group after the group served last, then its entry,
PHASE, PIECE and INDEX. -/
def turnOf (d : Device) (port : Nat) (c : Chunk) : List Nat :=
  [(c.group + 63 - Tab.getD d.fab.lastGroup port 63) % 64, c.entry, c.phase, c.piece, c.index]

/-- The ready chunk of a virtual channel that its port takes next: on VC1 the first one by R297, on another channel the one
that has waited longest. DESIGN CHOICE (notes/assumptions 104): the spec orders no other channel. -/
def nextChunk (d : Device) (port vc : Nat) : Option (Nat × TxChunk) :=
  (d.fab.chunks.filter fun e => readyOn d port e.2 && e.2.chunk.vc = vc).foldl (fun best e =>
    match best with
    | none => some e
    | some b => if vc = 1 && decide (turnOf d port e.2.chunk < turnOf d port b.2.chunk) then some e else some b) none

/-- A chunk leaves: it waits no longer, and its group is the one that VC1 of its port served last. An ORED_OPEN is answered
and not acknowledged, so nothing of it is kept (R309). -/
def takeChunk (id : Nat) (t : TxChunk) (d : Device) : Device :=
  { d with fab := { d.fab with
      chunks := if t.chunk.ftype = 0x10 then Tab.drop d.fab.chunks id
        else Tab.put d.fab.chunks id { t with waiting := false, again := false }
      lastGroup := if t.chunk.vc = 1 then Tab.put d.fab.lastGroup t.port t.chunk.group else d.fab.lastGroup } }

/-- A port while it sends: the channel whose turn it is, and by channel the bytes it may still send and the frames it has
left of the chunk it is sending. -/
structure PortRun where
  turn : Nat
  deficits : Tab Nat
  frames : Tab (List (Nat × Frame))
  deriving DecidableEq, Repr

/-- The quantum of a channel (R296). -/
def quantum (d : Device) (vc : Nat) : Nat := regField d .fabVcWeight (4 * (vc - 1)) 4 * 9216

/-- The turn goes to the next of VC1, VC2 and VC3, which gets its quantum. A channel that gives its turn up with no frame
left keeps no bytes. -/
def passTurn (d : Device) (r : PortRun) : PortRun :=
  let keep := if (Tab.getD r.frames r.turn []).isEmpty then 0 else Tab.getD r.deficits r.turn 0
  let next := r.turn % 3 + 1
  let ds := Tab.put r.deficits r.turn keep
  { r with turn := next, deficits := Tab.put ds next (Tab.getD ds next 0 + quantum d next) }

/-- Whether no channel of a port has anything to send. -/
def portIdle (d : Device) (port : Nat) (r : PortRun) : Bool :=
  [1, 2, 3].all fun v => (Tab.getD r.frames v []).isEmpty && (nextChunk d port v).isNone

/-- Send by the deficit round robin of R296; `fuel` bounds the frames and turns. -/
def serveLoop : Nat → Nat → PortRun → Device → Device
  | 0, _, _, d => d
  | fuel + 1, port, r, d =>
    match Tab.getD r.frames r.turn [] with
    | (ftype, f) :: rest =>
      let have' := Tab.getD r.deficits r.turn 0
      if f.bytesOnWire ≤ have' then
        serveLoop fuel port
          { r with deficits := Tab.put r.deficits r.turn (have' - f.bytesOnWire), frames := Tab.put r.frames r.turn rest }
          (emit (.frame port ftype f) d)
      else serveLoop fuel port (passTurn d r) d
    | [] =>
      match nextChunk d port r.turn with
      | some (id, t) =>
        serveLoop fuel port
          { r with frames := Tab.put r.frames r.turn ((chunkFrames d t.chunk).map fun f => (t.chunk.ftype, f)) }
          (takeChunk id t d)
      | none =>
        if portIdle d port r then
          { d with fab := { d.fab with turn := Tab.put d.fab.turn port (r.turn % 3 + 1) } }
        else serveLoop fuel port (passTurn d r) d

/-- A port sends what is ready. A frame needs at most three turns, so each chunk at most 40 passes of the loop. -/
def servePort (d : Device) (port : Nat) : Device :=
  let n := (d.fab.chunks.filter fun e => readyOn d port e.2).length
  if n = 0 then d
  else
    let v := Tab.getD d.fab.turn port 1
    serveLoop (40 * n + 8) port { turn := v, deficits := [(v, quantum d v)], frames := [] } d

/-- Every port sends what is ready on it. The frames of VC0 and the answers of one frame have left at once before. DESIGN
CHOICE (notes/assumptions 104): what one command makes ready is ready together. A mirror sends none (R421). -/
def serve (d : Device) : Device := if mirrors d then d else (List.range 8).foldl servePort d

/-! ### Sending a chunk (R292, R293, R295) -/

/-- The chunk of an entry noted for R(n) (R421). -/
def noteChunk (c : Chunk) (d : Device) : Device :=
  if c.ftype = 0x01 || c.ftype = 0x13 then
    { d with work := { d.work with
      sentCrcs := d.work.sentCrcs ++ [(c.entry, c.phase, c.piece, c.index, crc32c c.bytes)] } }
  else d

/-- Give a chunk to a port, which sends it when it next serves what is ready. A mirror sends none, and none of its own waits
for an acknowledgement (R421). -/
def sendOn (port : Nat) (c : Chunk) (d : Device) : Device :=
  let d := noteChunk c d
  if mirrors d then d else
  let t : TxChunk := { chunk := c, port := port, resends := 0, waiting := true, again := false }
  { d with fab := { d.fab with
    chunks := d.fab.chunks ++ [(d.fab.nextId, t)]
    nextId := d.fab.nextId + 1 } }

/-- Send a chunk by the port rule of its operation (R293). -/
def sendChunk (port : Nat) (c : Chunk) (d : Device) : Device := sendOn (routePort d port) c d

/-- Take chunks out of the table. -/
def takeOut (gone : TxChunk → Bool) (d : Device) : Device :=
  { d with fab := { d.fab with chunks := d.fab.chunks.filter fun e => !gone e.2 } }

/-- Take chunks out of the table; those that waited for their room leave (R295). -/
def dropChunks (gone : TxChunk → Bool) (d : Device) : Device := serve (takeOut gone d)

/-- Take one chunk out of the table. -/
def dropChunk (id : Nat) (d : Device) : Device := { d with fab := { d.fab with chunks := Tab.drop d.fab.chunks id } }

/-- A chunk is to leave once more, whole, on a port, which counts as a resend (R292, R328). -/
def markAgain (id : Nat) (port : Nat) (d : Device) : Device :=
  match Tab.find d.fab.chunks id with
  | none => d
  | some t =>
    { d with
      fab := { d.fab with
        chunks := Tab.put d.fab.chunks id { t with port := port, resends := t.resends + 1, waiting := false, again := true } }
      errs := { d.errs with resends := satAdd 20 d.errs.resends 1 } }

/-- Resend a chunk whole on a port. -/
def resendChunk (id : Nat) (port : Nat) (d : Device) : Device := serve (markAgain id port d)

end Sys2Proof.Machine
end

