-- ==== Sys2Proof/Machine/Faults.lean ====
section
/-!
DEFINITION. Fault classes and job restart (R401 to R413): discarding a step, fences, the automatic restart, halting, and how
accesses of step work report errors of memory (R449, R450).
-/
namespace Sys2Proof.Machine

/-- The step before `n`, modulo 2^48. -/
def stepBefore (n : Nat) : Nat := (n + 2 ^ 48 - 1) % 2 ^ 48

/-! ### Discarding and fencing (R407, R413) -/

/-- What a role keeps of its collection when its step is discarded: the items logged before the step was composed. -/
def discardCollect (r : Role) : Role := { r with
    col := { Collect.none with before := r.col.before, halts := r.col.halts, edits := r.col.edits } }

/-- Discard the step in flight (R407): its work, its fabric entries and its queued firmware edits go, and d of R236 is again that of
the boundary before it; the committed state, exports and fetched descriptors stay. -/
def discardStep (d : Device) : Device :=
  let d := toOwn d
  takeOut (fun t => t.chunk.ftype ≠ 0x20) { d with
    work := d.work.over
    poolD := if d.job.inFlight then d.poolLast else d.poolD
    role := discardCollect d.role
    twin := { d.twin with taken := d.twin.taken.map discardCollect }
    fab := { d.fab with
      entries := []
      counters := []
      receive := [] }
    job := { d.job with
      inFlight := false, localDone := false, doneSent := false, doneFrom := [], startOrdered := false,
      wantNoted := false, wantSent := false, faulted := false, aborted := false } }

/-- Group 0 of a role with a partition generation (R299). -/
def regen (g : Nat) (r : Role) : Role :=
  match Tab.find r.groups 0 with
  | some x => { r with groups := Tab.put r.groups 0 { x with gen := g } }
  | none => r

/-- Adopt a partition generation (R32, R299), in every role that the device serves. -/
def adoptGen (g : Nat) (d : Device) : Device :=
  { d with
    job := { d.job with gen := g }
    role := regen g d.role
    twin := { d.twin with taken := d.twin.taken.map (regen g) } }

/-- What an error names for a fence: level, block, cell and the cells to clear (R402, R413); nothing for an MSU group
or a sampler. -/
def fenceOf : ErrorSite → Option (Nat × Nat × Nat × List (Nat × Nat))
  | .cell g c => some (0, g.val, c.val, [(g.val, c.val)])
  | .vectorEngine g | .tileCounter g | .pageWalker g =>
    some (1, g.val, 0xF, (List.range 12).map fun c => (g.val, c))
  | .msu _ | .sampler _ | .regionManager _ => none

/-- Apply one fence: the active cells among those named go; a block without an active cell is fenced too. A fence that would pass
below the floor makes the error FATAL, and nothing more is fenced (R413). -/
def applyFence (site : ErrorSite) (d : Device) : Device :=
  match fenceOf site with
  | none => d
  | some (level, block, cell, cells) =>
    let gone := cells.filter fun p => cellActive d p.1 p.2
    let left := gone.foldl (fun a p => a &&& ~~~(cellBit p.1 p.2)) d.active
    if d.job.fatal || (if level = 1 then d.errs.fencedBlocks.contains block else gone.isEmpty) then d
    else if countCells left < regField d .cfgRestart 8 11 then goFatal 0 d
    else
      let d := { d with
        active := left
        errs := { d.errs with
          fenceCells := d.errs.fenceCells + gone.length
          fenceBlocks := d.errs.fenceBlocks + (if level = 1 then 1 else 0)
          fencedBlocks := d.errs.fencedBlocks ++ (if level = 1 then [block] else []) } }
      postEvent .fence level block cell d.job.number gone.length d

/-- Apply the fences of the discarded step (R413). -/
def applyFences (d : Device) : Device :=
  let named := d.job.named
  named.foldl (fun d s => applyFence s d) { d with job := { d.job with named := [] } }

/-! ### Halting and restarting (R408, R410) -/

/-- The step in a HALT record: the last one whose boundary this member performed. -/
def haltInfo (d : Device) : Nat := d.job.lastBoundary.getD (stepBefore 0)

/-- Halt (R410): write the HALT record and wait for the host. -/
def haltMember (d : Device) : Device :=
  let d := deviceEvent .halt d.job.number (haltInfo d) d
  { d with job := { d.job with halted := true, haltGen := d.job.gen, awaitReady := false, ready := [], agreement := false } }

/-- Item 2 of R408 after boundary c: discard, adopt the generation, fence, then write the RESTART record; a member that
observed an AGREEMENT error halts in its place (R410). Answers whether the member is ready. -/
def itemTwo (gen : Nat) (d : Device) : Bool × Device :=
  let agreement := d.job.agreement
  let d := applyFences (adoptGen gen (discardStep d))
  if d.job.fatal then (false, d)
  else if agreement then (false, haltMember d)
  else (true, deviceEvent .restart d.job.number (stepBefore d.job.number) { d with job := { d.job with halted := false } })

/-- Send ready to member 0: STEP_DONE for c with the new generation, for every rank this device serves (R408, R424). -/
def sendReady (d : Device) : Device :=
  (servedRanks d).foldl
    (fun d r => sendParticle (partitionNode d 0)
      { stepParticle d typeDone 0 (stepBefore d.job.number) with sender := r } d) d

/-- Member 0 once every rank is ready: STEP_START for d goes out and the step may begin (R408 item 4). -/
def tryReady (d : Device) : Device :=
  if d.job.awaitReady && (List.range (memberCount d)).all (fun r => d.job.ready.contains r) then
    let d := { d with job := { d.job with awaitReady := false, ready := [], startOrdered := true } }
    sendMembers { stepParticle d typeStart 0 d.job.number with sender := 0 } d
  else d

/-- The restart that member 0 decides (R408, R410): past the limit it halts; a step that it has completed stays until JOB_RESTART
says what becomes of it (R412). The chunks for which the discarded ones make room leave after its particles (R296). -/
def restartBegin (d : Device) : Device :=
  let c := stepBefore d.job.number
  let n := (if d.job.restartFrom = c then d.job.restarts else 0) + 1
  if n > regField d .cfgRestart 0 8 then serve (haltMember (if d.job.localDone then d else discardStep d))
  else
    let d := sendMembers { stepParticle d typeAbort 0 d.job.number with sender := 0 } d
    let r := itemTwo ((d.job.gen + 1) % 2 ^ 32) { d with job := { d.job with restarts := n, restartFrom := c } }
    if r.1 then
      let d := r.2
      serve (tryReady { d with job := { d.job with awaitReady := true, ready := servedRanks d } })
    else serve r.2

/-- A member other than 0 reports its fault (R34, R36): STEP_DONE with FAULT before its own, STEP_ABORT after it. -/
def reportFault (d : Device) : Device :=
  if d.job.aborted then d
  else
    let n := d.job.number
    let p := if d.job.doneSent then stepParticle d typeAbort 0 n else stepParticle d typeDone 1 n
    sendParticle (partitionNode d 0) p
      { d with job := { d.job with doneSent := true, aborted := true } }

/-- The step in flight or ordered is touched by a fault (R402, R408): member 0 restarts the job, another member stops the
step's work and reports. Where no step has begun or been ordered there is none to discard. -/
def faultNow (d : Device) : Device :=
  if d.job.fatal || d.job.halted then d
  else if !d.job.inFlight && !d.job.startOrdered then d
  else
    let d := toOwn d
    let d := { d with job := { d.job with faulted := true } }
    if isLead d then restartBegin d else reportFault d

/-- A fault that touches the step: during a boundary it waits for its end and counts for the next step (R36). -/
def faultStep (d : Device) : Device :=
  if !d.job.fatal && !d.job.halted && inBoundary d then { d with job := { d.job with scrubFault := true } } else faultNow d

/-- Whether there is a step for a STEP error to touch: one in flight or ordered, or the one after the boundary in progress
(R36, R402). -/
def stepTouched (d : Device) : Bool := d.job.inFlight || d.job.startOrdered || (inBoundary d && !d.job.halted)

/-- A STEP error (R401, R402): the record, the unit to fence, and the fault. Only a unit that an error names in a step is fenced
when that step is discarded (R413). -/
def stepError (level block cell info : Nat) (named : List ErrorSite) (d : Device) : Device :=
  let d := postEvent .stepFault level block cell d.job.number info d
  faultStep { d with job := { d.job with named := if stepTouched d then d.job.named ++ named else d.job.named } }

/-- A STEP error of the whole device. -/
def stepFault (info : Nat) (d : Device) : Device := stepError 3 0xFF 0xF info [] d

/-- An AGREEMENT error (R313, R401): INFO is the entry of the collective. -/
def agreementError (entry : Nat) (d : Device) : Device :=
  let d := deviceEvent .agreement d.job.number entry d
  faultStep { d with job := { d.job with agreement := true } }

/-! ### Accesses of step work (R449, R450) -/

/-- Note that a word may belong to a slot that is now lost (R414); the next action 4 looks at it. -/
def noteLost (w : Nat) (d : Device) : Device := { d with job := { d.job with lost := d.job.lost ++ [w] } }

/-- The record of an uncorrectable word that a reader doing step work finds (R450); one that a scrub has reported is not
counted twice, and the step's outcome applies (R452). -/
def stepBad (w : Nat) (stack : Bool) (d : Device) : Device :=
  let d := if d.job.scrubbed.contains w then { d with job := { d.job with scrubbed := d.job.scrubbed.erase w } }
    else noteUncorrectable w 0 stack d
  if inHub w then goFatal w d
  else
    let p := placeOfAddr w
    postEvent .stepFault p.1 p.2 0xF d.job.number w (noteLost w d)

/-- Report everything that one access of step work found: a record for each bad word, and one fault of the step. -/
def stepEvents (es : List MemEvent) (d : Device) : Device :=
  let d := eachEvent stepBad es d
  if anyUncorrectable es then faultStep d else d

/-- What a unit finds in a range of device memory, and its bytes. -/
def unitRead (a n : Nat) (d : Device) : List Byte × List MemEvent × Device :=
  let t := touchRange d.mem a n
  (t.1, t.2.2, { d with mem := t.2.1 })

/-- Bytes of memory that become unpredictable. -/
def freeSpans (ss : List (Nat × Nat)) (d : Device) : Device :=
  ss.foldl (fun d s => { d with
    freeCtr := d.freeCtr + s.2
    mem := { d.mem with bytes := writeBytes d.mem.bytes s.1 (freeRun d.freeCtr s.2) } }) d

/-- Counts that nothing determines. -/
def freeCounts (k : Nat) (c : StepCounts) : StepCounts :=
  { c with
    flags := BitVec.ofNat 7 (Config.free k), underflow := Config.free (k + 1), nonfinite := Config.free (k + 2)
    emptyRows := Config.free (k + 3), rewrites := Config.free (k + 4), nofinite := Config.free (k + 5)
    drops := Config.free (k + 6) }

/-- A list of values, each free. -/
def freeList {α : Type} (k : Nat) (f : α → Nat → α) (xs : List α) : List α :=
  (xs.zip (List.range xs.length)).map fun x => f x.1 (Config.free (k + x.2))

/-- What the step has handed to an entry becomes unpredictable: bytes, rows that wait for their places, flags of folds. -/
def freeEntry (e : Nat) (r : EntryRun) (d : Device) : Device :=
  let n := r.handedAt.length
  let bs := freeRun d.freeCtr n
  let rows := r.rows.foldl (fun (acc : List (Nat × Nat × List Byte) × Nat) x =>
    (acc.1 ++ [(x.1, x.2.1, freeRun acc.2 x.2.2.length)], acc.2 + x.2.2.length)) ([], d.freeCtr + n)
  let r := { r with
    handed := (r.handedAt.zip bs).foldl (fun m b => writeByte m b.1 b.2) r.handed
    rows := rows.1
    flags := freeList rows.2 (fun f v => (f.1, BitVec.ofNat 7 v)) r.flags }
  { d with freeCtr := rows.2 + r.flags.length, fab := { d.fab with entries := Tab.put d.fab.entries e r } }

/-- The bytes of a chunk of the step that may leave once more become unpredictable. -/
def freeChunk (id : Nat) (t : TxChunk) (d : Device) : Device :=
  if t.chunk.ftype = 0x20 then d
  else
    let n := t.chunk.bytes.length
    { d with
      freeCtr := d.freeCtr + n
      fab := { d.fab with
        chunks := Tab.put d.fab.chunks id { t with chunk := { t.chunk with bytes := freeRun d.freeCtr n } } } }

/-- What the step has given to the fabric becomes unpredictable (R347, R361). -/
def freeFabric (d : Device) : Device :=
  let d := d.fab.entries.foldl (fun d x => freeEntry x.1 x.2 d) d
  let d := d.fab.chunks.foldl (fun d x => freeChunk x.1 x.2 d) d
  let n := d.work.sentCrcs.length
  { d with
    freeCtr := d.freeCtr + n
    work := { d.work with
      sentCrcs := freeList d.freeCtr (fun c v => (c.1, c.2.1, c.2.2.1, c.2.2.2.1, v % 2 ^ 32)) d.work.sentCrcs } }

/-- The results that the step has so far become unpredictable (R347, R361): what its tiles and its collectives wrote, what it gave
to the fabric, its draws, its counts. -/
def freeResults (d : Device) : Device :=
  let wrote := (d.work.issue.map fun i => spansOf (i.wrote.map (·.2))).getD []
  let d := freeFabric (freeSpans (d.work.past ++ wrote) d)
  let k := d.freeCtr
  let w := d.work
  { d with
    freeCtr := k + 7 + w.drawn.length
    work := { w with
      counts := freeCounts k w.counts
      drawn := (w.drawn.zip (List.range w.drawn.length)).map fun x =>
        { x.1 with token := Config.free (k + 7 + x.2) % 2 ^ 32 } } }

/-- The host, or a copy of a load, writes `n` bytes at `a`: while a step is in flight what stood there is noted (R120), and where
the step has read there, its results become unpredictable (R347, R361). -/
def noteRaced (a n : Nat) (d : Device) : Device :=
  if !d.job.inFlight then d
  else
    let old := (List.range n).zip (readBytes d.mem.bytes a n)
    let d := { d with work := { d.work with
        raced := old.foldl (fun t p => if (Tab.find t (a + p.1)).isSome then t else Tab.put t (a + p.1) p.2) d.work.raced } }
    if meetsSpans d.work.read a n then freeResults d else d

/-- What the step reads is noted. -/
def noteRead (a n : Nat) (d : Device) : Device :=
  if d.work.read.contains (a, n) then d else { d with work := { d.work with read := (a, n) :: d.work.read } }

/-- Bytes that the host wrote while the step ran and that the step reads become unpredictable, in memory too (R347); those of a
load's copy stay what the copy wrote (R361). -/
def freeRaced (a n : Nat) (d : Device) : Device :=
  freeSpans ((d.work.raced.filter fun r => a ≤ r.1 && r.1 < a + n && !inSpans d.work.copied r.1).map fun r => (r.1, 1)) d

/-- Bytes at `a` of which those that the host has written since the step began are unpredictable (R347, R361). -/
def racedBytes (a : Nat) (bs : List Byte) (d : Device) : List Byte × Device :=
  if d.work.raced.any fun r => a ≤ r.1 && r.1 < a + bs.length then
    ((bs.zip (List.range bs.length)).map fun p =>
       if (Tab.find d.work.raced (a + p.2)).isSome then BitVec.ofNat 8 (Config.free (d.freeCtr + p.2)) else p.1,
     { d with freeCtr := d.freeCtr + bs.length })
  else (bs, d)

/-- A read of a unit that does step work; outside the map the step faults (R113). -/
def workRead (a n : Nat) (d : Device) : List Byte × Device :=
  if !rangeInMap a n then (List.replicate n 0#8, stepFault 0 d)
  else
    let r := unitRead a n d
    racedBytes a r.1 (freeRaced a n (noteRead a n (stepEvents r.2.1 r.2.2)))

/-- Several ranges inside the map that one command reads for the step: a bad word that more than one of them meets is one word
found (R450). -/
def readAll (rs : List (Nat × Nat)) (d : Device) : List (List Byte) × Device :=
  let r := rs.foldl (fun acc x =>
    let r := unitRead x.1 x.2 acc.2.2
    (acc.1 ++ [r.1], acc.2.1 ++ r.2.1, r.2.2)) (([] : List (List Byte)), ([] : List MemEvent), d)
  let d := rs.foldl (fun d x => freeRaced x.1 x.2 (noteRead x.1 x.2 d)) (stepEvents r.2.1 r.2.2)
  (rs.zip r.1).foldl (fun acc x =>
    let b := racedBytes x.1.1 x.2 acc.2
    (acc.1 ++ [b.1], b.2)) (([] : List (List Byte)), d)

/-- What the step writes besides its tiles is noted. -/
def noteWrote (a n : Nat) (d : Device) : Device := { d with work := { d.work with past := d.work.past ++ [(a, n)] } }

/-- A write of a unit that does step work (R447). -/
def workWrite (a : Nat) (bs : List Byte) (d : Device) : Device :=
  if !rangeInMap a bs.length then stepFault 0 d
  else
    let r := racedBytes a bs d
    let t := writeRange d.mem a r.1
    stepEvents t.2 { noteWrote a bs.length r.2 with mem := t.1 }

/-! ### Errors with a command of their own (R402) -/

/-- Level, block and cell of a named unit. -/
def sitePlace : ErrorSite → Nat × Nat × Nat
  | .cell g c => (0, g.val, c.val)
  | .vectorEngine g | .tileCounter g | .pageWalker g | .msu g => (1, g.val, 0xF)
  | .sampler _ | .regionManager _ => (2, 0xFF, 0xF)

/-- Whether a unit can report: it has not been fenced (R413). -/
def siteInUse (d : Device) : ErrorSite → Bool
  | .cell g c => cellActive d g.val c.val
  | .vectorEngine g | .tileCounter g | .pageWalker g => !d.errs.fencedBlocks.contains g.val
  | .msu _ | .sampler _ | .regionManager _ => true

/-- RESIDUE_MISMATCH (R402): a STEP error that names the unit; a parity error in a region manager's memory is FATAL. -/
def devResidueMismatch (site : ErrorSite) (d : Device) : Device :=
  if !fwRuns d || !siteInUse d site then d
  else
    let p := sitePlace site
    match site with
    | .regionManager _ => fatalAt p.1 p.2.1 0 d
    | _ => stepError p.1 p.2.1 p.2.2 0 [site] d

/-- RESIDUE_MISMATCH. -/
def execResidueMismatch (site : ErrorSite) (s : State) : Host.Outcome State Fault Refusal :=
  lift (devResidueMismatch site) s

/-- LINK_RETRY_TIMEOUT (R402): a retry within its budget corrects; past it the error is of class STEP. The link that a loop-back
tests runs with its retry off (R495). -/
def devLinkRetryTimeout (link : Fin 24) (exhausted : Bool) (d : Device) : Device :=
  if !fwRuns d || (d.test.busy && d.test.target = 4 && d.test.index = link.val) then d
  else if exhausted then stepError 2 0xFF 0xF 0 [] d
  else countCorrected 2 0xFF link.val d

/-- LINK_RETRY_TIMEOUT. -/
def execLinkRetryTimeout (link : Fin 24) (exhausted : Bool) (s : State) : Host.Outcome State Fault Refusal :=
  lift (devLinkRetryTimeout link exhausted) s

/-- HUB_CORE_WATCHDOG (R402): FATAL. -/
def execHubCoreWatchdog (s : State) : Host.Outcome State Fault Refusal :=
  lift (fun d => whenD (fwRuns d) (goFatal 0) d) s

/-- REGION_MANAGER_WATCHDOG (R402): FATAL, of a region. -/
def execRegionManagerWatchdog (_r : Fin 8) (s : State) : Host.Outcome State Fault Refusal :=
  lift (fun d => whenD (fwRuns d) (fatalAt 2 0xFF 0) d) s

/-! ### Waits that expire (R37, R410) -/

/-- STEP_DONE_TIMEOUT (R37): member 0 has reached local done and misses a STEP_DONE. -/
def devStepDoneTimeout (d : Device) : Device :=
  if !fwRuns d || d.job.halted || !isLead d || !d.job.inFlight || !d.job.localDone || inBoundary d then d
  else stepFault 0 d

/-- STEP_DONE_TIMEOUT. -/
def execStepDoneTimeout (s : State) : Host.Outcome State Fault Refusal := lift devStepDoneTimeout s

/-- READY_WAIT_TIMEOUT (R410): member 0 halts. -/
def devReadyWaitTimeout (d : Device) : Device :=
  if !fwRuns d || d.job.halted || !isLead d || !d.job.awaitReady then d else haltMember d

/-- READY_WAIT_TIMEOUT. -/
def execReadyWaitTimeout (s : State) : Host.Outcome State Fault Refusal := lift devReadyWaitTimeout s

/-- STEP_START_TIMEOUT (R37, R410): a member that has sent STEP_DONE, a ready included, writes STEP_FAULT, sends
STEP_ABORT to member 0 for the step of that STEP_DONE, and halts. -/
def devStepStartTimeout (d : Device) : Device :=
  let waits := !d.job.startOrdered && (d.job.doneSent || d.job.awaitReady)
  if !fwRuns d || d.job.halted || isLead d || !waits || inBoundary d then d
  else
    let n := if d.job.inFlight then d.job.number else stepBefore d.job.number
    let d := deviceEvent .stepFault n 0 d
    let d := sendParticle (partitionNode d 0) (stepParticle d typeAbort 0 n) d
    haltMember d

/-- STEP_START_TIMEOUT. -/
def execStepStartTimeout (s : State) : Host.Outcome State Fault Refusal := lift devStepStartTimeout s

end Sys2Proof.Machine
end

