-- ==== Sys2Proof/Machine/Fabric.lean ====
section
/-!
DEFINITION. The Darven transport (R285 to R295): frame checks, chunks with their frames, ports, retry, receive contexts.
-/
namespace Sys2Proof.Machine

/-- The node number that names the switch of a plane (R287). -/
def switchNode : Nat := 0xFFFFFFFF

/-! ### Twin records (R416, R417) -/

/-- Code of a record's kind (R417). -/
def twinKind : TwinRec → Nat
  | .hello _ => 1 | .sync _ => 2 | .result _ => 3 | .boundary _ => 4 | .order .. => 5 | .forward .. => 6 | .detach => 7

/-- The step or boundary that a twin record concerns (R417). -/
def twinStep (d : Device) : TwinRec → Nat
  | .sync r => r.step
  | .result r => r.step
  | .boundary r => r.step
  | .order n _ => n
  | .forward _ _ f => f.step
  | .hello _ | .detach => d.job.number

/-- DIGEST of a record (R417): R(n) of a RESULT, D(n) of a BOUNDARY. -/
def twinDigest : TwinRec → List Byte
  | .result r => r.digest
  | .boundary r => r.digest
  | _ => []

/-- Whether a record is a header alone (R417): DETACH, and a RESULT or BOUNDARY of the mirror. -/
def twinBare (fromMirror : Bool) : TwinRec → Bool
  | .detach => true
  | .result _ | .boundary _ => fromMirror
  | _ => false

/-- The bytes of a twin record, sent by this device or by its twin: its header (R417) and its sections, each with its TYPE in [7:0]
and LEN in [63:32]; their types and contents the spec does not lay out (notes/assumptions 14). -/
def twinBytes (d : Device) (own : Bool) (part : Nat) (r : TwinRec) : List Byte :=
  let bare := twinBare (d.twin.mode = 2 && d.twin.primary ≠ own) r
  let ss := if bare then [] else Config.twinSections d.twin.attachGen (2 * part + own.toNat)
  let body := ss.flatMap fun s => bytesOfNat 1 s.1 ++ bytesOfNat 3 0 ++ bytesOfNat 4 s.2.length ++ s.2
  let head := bytesOfNat 4 (twinKind r) ++ bytesOfNat 4 ss.length ++ bytesOfNat 8 (twinStep d r) ++
    bytesOfNat 8 (64 + body.length) ++ padTo 32 (twinDigest r) ++ bytesOfNat 4 0
  head ++ bytesOfNat 4 (crc32c head) ++ body

/-- RANK of the twin records that this device sends (R416): its own in group 0, the primary's where it is the mirror. -/
def twinRank (d : Device) : Nat :=
  if d.twin.mode = 2 && !d.twin.primary then (d.twin.peerHello.map (·.rank)).getD d.twin.rank else myRank d

/-- Chunks that one part holds (R416). -/
def partChunks : Nat := 32768

/-- The chunks of a twin record, sent by this device or by its twin: DATA on VC3, in parts from the running part number on
(R416). AGREE rests on the bytes of the HELLO records, which the spec does not lay out. -/
def twinChunks (d : Device) (own : Bool) (part : Nat) (r : TwinRec) : List Chunk :=
  let bs := twinBytes d own part r
  let cs := pieces chunkSize (bs.length / chunkSize + 1) bs
  (cs.zip (List.range cs.length)).map fun c =>
    { dst := d.twin.node, ftype := 0x01, vc := 3, gen := d.twin.attachGen, group := 0, rank := twinRank d, entry := 0
      flags := 0#7, step := twinStep d r, piece := (part + c.2 / partChunks) % 2 ^ 16, index := c.2 % partChunks, phase := 0
      agree := Config.twinAgree d.twin.attachGen, bytes := c.1 }

/-- The parts that chunks take. -/
def partsTaken (cs : List Chunk) : Nat := (cs.length + partChunks - 1) / partChunks

/-- Send a twin record: its chunks are kept until each is acknowledged (R292, R416). -/
def sendTwin (r : TwinRec) (d : Device) : Device :=
  let cs := twinChunks d true d.twin.nextRecord r
  emit (.twin d.twin.attachGen d.twin.nextRecord r)
    { d with
      fab := { d.fab with nextId := d.fab.nextId + cs.length }
      twin := { d.twin with
        unacked := d.twin.unacked ++ ((List.range cs.length).zip cs).map fun c =>
          { id := d.fab.nextId + c.1, kind := twinKind r, chunk := c.2, resends := 0 }
        nextRecord := d.twin.nextRecord + partsTaken cs } }

/-- Resend a chunk of a twin record and count it (R292, R328, R416). -/
def resendTwin (u : TwinSent) (d : Device) : Device :=
  emitAll ((chunkFrames d u.chunk).map fun f => .frame 8 0x01 f)
    { d with
      errs := { d.errs with resends := satAdd 20 d.errs.resends 1 }
      twin := { d.twin with
        unacked := d.twin.unacked.map fun x => if x.id = u.id then { x with resends := x.resends + 1 } else x } }

/-- Whether a frame of the twin port names a chunk: by its part number and its index in the part. -/
def namesTwin (f : Frame) (u : TwinSent) : Bool := u.chunk.piece = f.piece && u.chunk.index = f.index

/-- The unacknowledged chunk that a frame of the twin port names. -/
def twinNamed (d : Device) (f : Frame) : Option TwinSent := d.twin.unacked.find? (namesTwin f)

/-- Whether there is a pair, attaching or attached. -/
def pairExists (d : Device) : Bool :=
  match d.twin.state with
  | .unpaired | .lost | .split => false
  | _ => true

/-- Whether records of steps and boundaries go to the twin (R417, R418). -/
def sendsRecords (d : Device) : Bool :=
  match d.twin.state with
  | .paired | .mirrorPrimary | .mirror => true
  | .syncing => d.twin.syncSent
  | _ => false

/-! ### Ports (R285) -/

/-- A device that takes frames: powered, firmware running, configuration locked. -/
def fabricRuns (d : Device) : Bool := serving d

/-- PORT_UP (R285). -/
def devPortUp (port : Fin 8) (d : Device) : Device :=
  if !fwRuns d || (d.test.busy && d.test.target = 1 && d.test.index = port.val) then d
  else { d with fab := { d.fab with up := d.fab.up ||| (1#8 <<< port.val) } }

/-- PORT_UP. -/
def execPortUp (port : Fin 8) (s : State) : Host.Outcome State Fault Refusal := lift (devPortUp port) s

/-- The unacknowledged chunks of a port that has gone down leave again by link retry (R293); those that had not left yet
move to another port. -/
def moveChunks (port : Nat) (d : Device) : Device :=
  let ids := (d.fab.chunks.filter fun e => e.2.port = port && !isPlaneChunk e.2).map (·.1)
  ids.foldl (fun d id =>
    match Tab.find d.fab.chunks id with
    | some t =>
      let p := routePort d port
      if t.waiting then { d with fab := { d.fab with chunks := Tab.put d.fab.chunks id { t with port := p } } }
      else markAgain id p d
    | none => d) d

/-! ### Matching answers (R291, R292, R338) -/

/-- Whether an ACK or NAK names a chunk. -/
def matchesChunk (port : Nat) (f : Frame) (t : TxChunk) : Bool :=
  let c := t.chunk
  c.vc = f.vc && c.dst = f.src && c.gen = f.gen && c.group = f.group && c.step = f.step && c.entry = f.entry &&
    c.phase = f.phase && c.piece = f.piece && c.index = f.index && !t.waiting && (!isPlaneChunk t || t.port = port)

/-- The chunk that an ACK or NAK names. -/
def findChunk (d : Device) (port : Nat) (f : Frame) : Option (Nat × TxChunk) :=
  d.fab.chunks.find? fun e => matchesChunk port f e.2

/-- Whether the step tag or the generation of step traffic is not this device's (R31). -/
def staleFrame (d : Device) (f : Frame) : Bool :=
  !d.job.inFlight || f.step ≠ d.job.number || ((groupOf d f.group).map (·.gen)).getD 0 ≠ f.gen ||
    (groupOf d f.group).isNone

/-! ### Receive contexts (R291, R295) -/

/-- Whether a context holds the chunk of a frame. -/
def matchesRx (kind : Nat) (f : Frame) (x : RxChunk) : Bool :=
  x.kind = kind && x.src = f.src && x.gen = f.gen && x.group = f.group && x.step = f.step && x.entry = f.entry &&
    x.phase = f.phase && x.piece = f.piece && x.index = f.index

/-- A context with one more frame. -/
def rxAdd (f : Frame) (x : RxChunk) : RxChunk :=
  { x with frames := Tab.put x.frames f.frag f.payload, count := f.nfrag + 1 }

/-- A new context. -/
def rxNew (port kind : Nat) (f : Frame) : RxChunk :=
  { port := port, src := f.src, gen := f.gen, group := f.group, step := f.step, entry := f.entry, phase := f.phase,
    piece := f.piece, index := f.index, kind := kind, frames := [], count := f.nfrag + 1, arrived := false }

/-- Whether every frame of a chunk is present. -/
def rxWhole (x : RxChunk) : Bool := (List.range x.count).all fun k => (Tab.find x.frames k).isSome

/-- The bytes of a whole chunk. -/
def rxBytes (x : RxChunk) : List Byte := (List.range x.count).flatMap fun k => Tab.getD x.frames k []

/-- Replace the context of a frame, or add one. -/
def putRx (kind : Nat) (f : Frame) (x : RxChunk) : List RxChunk → List RxChunk
  | [] => [x]
  | y :: t => if matchesRx kind f y then x :: t else y :: putRx kind f x t

/-- The kind of the receive contexts of the twin port. -/
def twinRx : Nat := 0x81

/-- The answer to a frame of the twin port (R291, R416). -/
def sendTwinAnswer (ftype : Nat) (f : Frame) (d : Device) : Device :=
  emit (.frame 8 ftype { answerFrame d f with rank := twinRank d }) d

/-- A frame of a twin record (R291, R295, R416): its chunk is acknowledged once it is whole with a good CRC, and asked for again
where its CRC is wrong. The record acts once it is whole, which is a command of its own (notes/assumptions 14). -/
def twinData (f : Frame) (d : Device) : Device :=
  let old := d.fab.receive.find? (matchesRx twinRx f)
  if f.gen ≠ d.twin.attachGen || !pairExists d then countStale d
  else if (old.map (·.arrived)).getD false then sendTwinAnswer 0x02 f d
  else if old.isNone && 2048 ≤ (d.fab.receive.filter fun x => x.kind = twinRx && !x.arrived).length then discardFrame d
  else
    let x := rxAdd f (old.getD (rxNew 8 twinRx f))
    let keep := fun (x : RxChunk) (d : Device) => { d with fab := { d.fab with receive := putRx twinRx f x d.fab.receive } }
    if !rxWhole x then keep x d
    else if crc32c (rxBytes x) = f.crc then sendTwinAnswer 0x02 f (keep { x with arrived := true, frames := [] } d)
    else sendTwinAnswer 0x03 f (keep { x with frames := [] } d)

/-- Send ACK (0x02) or NAK (0x03) for a frame on the port it came by (R291). -/
def sendAnswer (ftype port : Nat) (f : Frame) (d : Device) : Device :=
  if mirrors d then d
  else emit (.frame port ftype (answerFrame d f)) d

end Sys2Proof.Machine
end

