-- ==== Sys2Proof/Machine/Collectives.lean ====
section
/-!
DEFINITION. Triggered operations and collectives (R301 to R320): firing, direct exchange, ordered reduction in the
switch, dispatches, agreement, failure, completion.
-/
namespace Sys2Proof.Machine

/-! ### Entries -/

/-- An entry that nothing has touched in this step. -/
def EntryRun.new : EntryRun :=
  { handed := [], handedAt := [], fired := false, method := .direct, answers := [], arrived := [], folded := [], sent := [],
    flags := [], counts := [], rows := [], failed := false, complete := false }

/-- The triggered-operation table of the loaded sentence. -/
def trigTable (d : Device) : List TrigEntry := (d.loaded.sentence.map (·.trig)).getD []

/-- An entry of the table. -/
def trigOf (d : Device) (e : Nat) : Option TrigEntry := (trigTable d)[e]?

/-- What an entry has done in this step. -/
def runOf (d : Device) (e : Nat) : EntryRun := Tab.getD d.fab.entries e EntryRun.new

/-- The run of an entry replaced. -/
def setRun (e : Nat) (r : EntryRun) (d : Device) : Device :=
  { d with fab := { d.fab with entries := Tab.put d.fab.entries e r } }

/-- Bytes of `n` elements of a format. -/
def bytesFor (f : Fmt) (n : Nat) : Nat := n * codeWidth f.code / 8

/-- First element of piece j of a reduction (R306). -/
def pieceStart (n members j : Nat) : Nat := j * n / members

/-- Elements of piece j of a reduction. -/
def pieceLen (n members j : Nat) : Nat := pieceStart n members (j + 1) - pieceStart n members j

/-- Chunks that hold some bytes. -/
def chunkCount (bytes : Nat) : Nat := (bytes + chunkSize - 1) / chunkSize

/-- Chunks of a piece that a member sends to another: an empty one too has a chunk, which carries the agreement (R313). -/
def sentChunks (bytes : Nat) : Nat := max 1 (chunkCount bytes)

/-- Offset and length of chunk i of a piece of some bytes. -/
def chunkRange (bytes i : Nat) : Nat × Nat := (chunkSize * i, min chunkSize (bytes - chunkSize * i))

/-- The agreement word (R312). -/
def agreeWord (t : TrigEntry) (typeByte gen : Nat) : W64 :=
  let op := if t.op = 10 then 9 else t.op
  let sz := if t.n < 2 ^ 31 then t.n else 2 ^ 31 + crc32c (bytesOfNat 8 t.n) % 2 ^ 31
  BitVec.ofNat 64 (op + 2 ^ 8 * typeByte + 2 ^ 16 * sz + 2 ^ 48 * (gen % 2 ^ 16))

/-- The code of an element format (R58). -/
def codeByte : FCode → Nat
  | .fp32 => 0x00 | .bf16 => 0x01 | .fp16 => 0x02 | .e4m3 => 0x03 | .e5m2 => 0x04 | .e2m1 => 0x05
  | .int8 => 0x06 | .uint8 => 0x07 | .int4 => 0x08 | .uint4 => 0x09

/-- The format byte of a format (R57). -/
def fmtByte (f : Fmt) : Nat := codeByte f.code + (if f.scaled then 0x10 else 0)

/-- Bytes from a list at an offset of an entry's source (R303): handed bytes of a NOC operation, a free value where one was
not handed; device memory otherwise. -/
def sourceBytes (d : Device) (e : Nat) (t : TrigEntry) (noc : Bool) (off n : Nat) : List Byte × Device :=
  if noc then
    let r := runOf d e
    let bs := (List.range n).map fun k =>
      if r.handedAt.contains (off + k) then readByte r.handed (off + k)
      else BitVec.ofNat 8 (Config.free (d.freeCtr + k))
    (bs, { d with freeCtr := d.freeCtr + n })
  else workRead (t.src + off) n d

/-- The operations whose SENDFAB names an entry, with their clause numbers (R160, R302). -/
def sendersOf (d : Device) (e : Nat) : List (Nat × OpDesc) :=
  let cs := (d.loaded.sentence.map (·.clauses)).getD []
  (cs.zip (List.range cs.length)).flatMap fun c =>
    (c.1.ops.filter fun o => o.epi.any fun m => m.kind = 0x19 && m.imm0.toNat = e).map fun o => (c.2, o)

/-- Whether an entry's source is what a NOC operation handed. -/
def entryNoc (d : Device) (e : Nat) : Bool := (sendersOf d e).any fun p => p.2.noc

/-! ### What is sent (R305 to R307) -/

/-- A chunk of an operation: the rank it goes to, its phase, piece and index, and where its bytes lie. -/
structure Part where
  dst : Nat
  phase : Nat
  piece : Nat
  index : Nat
  off : Nat
  len : Nat
  deriving DecidableEq, Repr

/-- The first chunks of one piece to one rank. -/
def partsOf (chunks dst phase piece off bytes : Nat) : List Part :=
  (List.range chunks).map fun i =>
    let r := chunkRange bytes i
    { dst := dst, phase := phase, piece := piece, index := i, off := off + r.1, len := r.2 }

/-- The chunks of one piece to a member: at least one (R313). -/
def pieceParts (dst phase piece off bytes : Nat) : List Part :=
  partsOf (sentChunks bytes) dst phase piece off bytes

/-- The chunks that a member sends in phase 0 of a direct exchange, dispatches and RETURN apart. DESIGN CHOICE (notes/assumptions 120):
a PUT_SEND to the own rank crosses no port (R306), and there is no PUT_RECV at that rank that its local copy could reach. -/
def directParts (t : TrigEntry) (members rank : Nat) : List Part :=
  let others := otherRanks members [rank]
  let whole := bytesFor t.type t.n
  match t.op with
  | 1 | 2 => others.flatMap fun j =>
      pieceParts j 0 j (bytesFor t.type (pieceStart t.n members j)) (bytesFor t.type (pieceLen t.n members j))
  | 3 => others.flatMap fun j => pieceParts j 0 rank 0 whole
  | 4 =>
    if rank = t.peer then others.flatMap fun j => pieceParts j 0 0 0 whole
    else [{ dst := t.peer, phase := 0, piece := 0, index := 0, off := 0, len := 0 }]
  | 5 => others.flatMap fun j => pieceParts j 0 j (j * whole) whole
  | 9 => if t.peer = rank then [] else pieceParts t.peer 0 0 0 whole
  | _ => []

/-- The contribution chunks that a member sends to the switch (R309). -/
def switchParts (t : TrigEntry) (members : Nat) : List Part :=
  (List.range members).flatMap fun j =>
    let bytes := bytesFor t.type (pieceLen t.n members j)
    partsOf (chunkCount bytes) j 0 j (bytesFor t.type (pieceStart t.n members j)) bytes

/-- The largest piece that an entry sends or expects, in bytes (R306). -/
def largestPiece (t : TrigEntry) (members : Nat) : Nat :=
  match t.op with
  | 1 => max (bytesFor t.type ((t.n + members - 1) / members)) (bytesFor t.dtype ((t.n + members - 1) / members))
  | 2 => bytesFor t.type ((t.n + members - 1) / members)
  | 6 | 7 | 8 => 0
  | _ => bytesFor t.type t.n

/-- The header of a chunk of an entry. -/
def entryChunk (d : Device) (e : Nat) (t : TrigEntry) (g : Group) (ftype dstNode : Nat) (p : Part) (flags : BitVec 7)
    (bs : List Byte) : Chunk :=
  { dst := dstNode, ftype := ftype, vc := t.vc, gen := g.gen, group := t.group, rank := g.myRank, entry := e,
    flags := flags, step := d.job.number, piece := p.piece, index := p.index, phase := p.phase,
    agree := if ftype = 0x01 then agreeWord t (fmtByte t.type) g.gen else 0#64, bytes := bs }

/-- Send one part to a member, once (R293). -/
def sendPart (e : Nat) (t : TrigEntry) (g : Group) (noc : Bool) (d : Device) (p : Part) : Device :=
  let r := runOf d e
  let key := (p.dst, p.phase, p.piece, p.index)
  if r.sent.contains key then d
  else
    let s := sourceBytes d e t noc p.off p.len
    let d := setRun e { r with sent := r.sent ++ [key] } s.2
    sendChunk ((p.index + p.piece + g.myRank) % 8)
      (entryChunk d e t g 0x01 (nodeOfRank g p.dst) p 0#7 s.1) d

/-- Whether every byte of a part has been handed (R303). -/
def partHanded (r : EntryRun) (p : Part) : Bool := (List.range p.len).all fun k => r.handedAt.contains (p.off + k)

/-- Whether an entry asks the switch first (R309). -/
def asksSwitch (d : Device) (t : TrigEntry) : Bool := t.ored && regField d .fabOredCtl 0 1 = 1

/-! ### Failure (R319, R320) -/

def reasonAgreement : Nat := 0x01
def reasonTimeout : Nat := 0x02
def reasonTransport : Nat := 0x03
def reasonCapacity : Nat := 0x04
def reasonConflict : Nat := 0x05

/-- Fail a collective (R320): COLL_FAIL to every other member of the group unless one was received, no more chunks of the
entry, and the step is touched by a fault. The chunks for which the entry's make room have to wait for its particles (R296): the
caller lets the ports serve. -/
def failCollective (e reason : Nat) (tell : Bool) (d : Device) : Device :=
  match trigOf d e with
  | none => d
  | some t =>
    let r := runOf d e
    if r.failed then d
    else
      let d := setRun e { r with failed := true } d
      let d := match tell, groupOf d t.group with
        | true, some g =>
          (otherRanks g.members [g.myRank]).foldl (fun d j =>
            sendParticle (nodeOfRank g j)
              { type := typeCollFail, status := reason, group := t.group, gen := g.gen, step := d.job.number,
                sender := g.myRank, entry := e } d) d
        | _, _ => d
      let d := takeOut (fun c => c.chunk.entry = e && c.chunk.ftype ≠ 0x20) d
      if reason = reasonAgreement then agreementError e d else stepFault 0 d

/-- Fail a collective at a command of its own; then the ports send what is ready. -/
def failNow (e reason : Nat) (tell : Bool) (d : Device) : Device := serve (failCollective e reason tell d)

/-! ### Receiving (R291, R307, R315 to R317) -/

/-- Where the bytes of a chunk go: device memory, the counts of a dispatch from a rank, an offset of the rows from a rank, or
nowhere. -/
inductive Dest where
  | memory (a : Nat)
  | counts (src : Nat)
  | rows (src off : Nat)
  | nothing
  deriving DecidableEq, Repr

/-- Slot size of the receive area of a reduction (R307). -/
def slotSize (t : TrigEntry) (members : Nat) : Nat :=
  roundUp (bytesFor t.type ((t.n + members - 1) / members)) 512

/-- Destination of a DATA chunk from rank `s` (none: the operation expects no such chunk). -/
def dataDest (t : TrigEntry) (members rank s phase piece index : Nat) : Option Dest :=
  let at' := chunkSize * index
  let whole := bytesFor t.type t.n
  match t.op, phase with
  | 1, 0 | 2, 0 =>
    if piece = rank && index < sentChunks (bytesFor t.type (pieceLen t.n members rank)) then
      some (.memory (t.aux + s * slotSize t members + at'))
    else none
  | 1, 1 =>
    if piece = s && index < chunkCount (bytesFor t.dtype (pieceLen t.n members s)) then
      some (.memory (t.dst + bytesFor t.dtype (pieceStart t.n members s) + at'))
    else none
  | 3, 0 => if piece = s && index < sentChunks whole then some (.memory (t.dst + s * whole + at')) else none
  | 4, 0 =>
    if rank = t.peer then (if index = 0 then some .nothing else none)
    else if s = t.peer && index < sentChunks whole then some (.memory (t.dst + at'))
    else none
  | 5, 0 => if piece = rank && index < sentChunks whole then some (.memory (t.dst + s * whole + at')) else none
  | 10, 0 => if s = t.peer && index < sentChunks whole then some (.memory (t.dst + at')) else none
  | 6, 0 | 7, 0 => if piece = rank && index = 0 then some (.counts s) else none
  | 6, 1 | 7, 1 | 8, 0 => if piece = rank then some (.rows s at') else none
  | _, _ => none

/-- Destination of a result chunk of the switch (R309): every piece for ALLREDUCE, the own piece for REDUCE_SCATTER. -/
def resultDest (t : TrigEntry) (members rank piece index : Nat) : Option Dest :=
  let bytes := bytesFor t.dtype (pieceLen t.n members piece)
  if chunkCount bytes ≤ index then none
  else if t.op = 1 && piece < members then
    some (.memory (t.dst + bytesFor t.dtype (pieceStart t.n members piece) + chunkSize * index))
  else if t.op = 2 && piece = rank then some (.memory (t.dst + chunkSize * index))
  else none

/-- `n` free bytes. -/
def freeBytes (n : Nat) (d : Device) : List Byte × Device :=
  ((List.range n).map fun k => BitVec.ofNat 8 (Config.free (d.freeCtr + k)), { d with freeCtr := d.freeCtr + n })

/-- The rank of a node in a group. -/
def rankOfNode (g : Group) (node : Nat) : Option Nat := (List.range g.members).find? fun r => nodeOfRank g r = node

/-! ### Folding (R307) -/

/-- Elements of one chunk of a format. -/
def chunkElems (f : Fmt) : Nat := chunkSize * 8 / codeWidth f.code

/-- One element of a list of encodings. -/
def elemOf (f : Fmt) (bs : List Byte) (i : Nat) : Val :=
  let w := codeWidth f.code / 8
  decodeFp (fpFormat f.code) (field bs (i * w) w)

/-- ARITH = 0. -/
def arithZero : Arith := { sat := false, ftz := false }

/-- One fold of an element: the running value and what it raises (R101, R307). -/
def foldElem (t : TrigEntry) (run v : Val) : BitVec 32 × BitVec 7 :=
  if t.redMax then ((roundF32 arithZero (maxVal run v)).1, 0#7)
  else
    let s := addVal run v
    let r := roundF32 arithZero s.1
    (r.1, s.2 ||| r.2)

/-- The flags of an element, if it raised any, joined to a list. -/
def noteFlags (fs : List (Nat × BitVec 7)) (i : Nat) (f : BitVec 7) : List (Nat × BitVec 7) :=
  if f = 0#7 then fs else Tab.put fs i (Tab.getD fs i 0#7 ||| f)

/-- Raise flags in the step (R81). -/
def raiseStep (f : BitVec 7) (d : Device) : Device :=
  { d with work := { d.work with counts := { d.work.counts with flags := d.work.counts.flags ||| f } } }

/-- Send the phase-1 chunks of the own piece whose elements are all reduced, to every other member (R307). -/
def sendResults (e : Nat) (t : TrigEntry) (g : Group) (d : Device) : Device :=
  let n := pieceLen t.n g.members g.myRank
  let bytes := bytesFor t.dtype n
  let per := chunkElems t.dtype
  let src := chunkElems t.type
  (List.range (chunkCount bytes)).foldl (fun d k =>
    let r := runOf d e
    let lo := per * k
    let hi := min n (lo + per)
    let ready := (List.range ((hi + src - 1) / src)).all fun c => c < lo / src || Tab.getD r.folded c 0 = g.members
    let dests := (otherRanks g.members [g.myRank]).filter fun j => !r.sent.contains (j, 1, g.myRank, k)
    if !ready || dests.isEmpty then d
    else
      let range := chunkRange bytes k
      let w := workRead (t.dst + bytesFor t.dtype (pieceStart t.n g.members g.myRank) + range.1) range.2 d
      let flags := orFlags ((r.flags.filter fun f => lo ≤ f.1 && f.1 < hi).map (·.2))
      dests.foldl (fun d j =>
        let r := runOf d e
        let d := setRun e { r with sent := r.sent ++ [(j, 1, g.myRank, k)] } d
        sendChunk ((k + g.myRank + g.myRank) % 8)
          (entryChunk d e t g 0x01 (nodeOfRank g j)
            { dst := j, phase := 1, piece := g.myRank, index := k, off := 0, len := range.2 } flags w.1) d) w.2) d

/-- Fold the contribution of one rank to one chunk of the own piece (R307). -/
def foldChunk (e : Nat) (t : TrigEntry) (g : Group) (rank c : Nat) (d : Device) : Device :=
  let n := pieceLen t.n g.members g.myRank
  let per := chunkElems t.type
  let lo := per * c
  let hi := min n (lo + per)
  let start := pieceStart t.n g.members g.myRank
  let off := bytesFor t.type lo
  let len := bytesFor t.type (hi - lo)
  let s := if rank = g.myRank then sourceBytes d e t (entryNoc d e) (bytesFor t.type start + off) len
    else workRead (t.aux + rank * slotSize t g.members + off) len d
  let area := t.aux + g.members * slotSize t g.members + 4 * lo
  let old := if rank = 0 then ([], s.2) else workRead area (4 * (hi - lo)) s.2
  let folded := (List.range (hi - lo)).map fun i =>
    let v := elemOf t.type s.1 i
    if rank = 0 then ((roundF32 arithZero v).1, 0#7)
    else foldElem t (f32Val (BitVec.ofNat 32 (field old.1 (4 * i) 4))) v
  let d := workWrite area (folded.flatMap fun x => bytesOfNat 4 x.1.toNat) old.2
  let last := rank + 1 = g.members
  let conv := folded.map fun x => roundTo t.dtype.code arithZero (f32Val x.1)
  let place := t.dst + bytesFor t.dtype ((if t.op = 1 then start else 0) + lo)
  let d := if last then workWrite place (conv.flatMap fun x => bytesOfNat (codeWidth t.dtype.code / 8) x.1) d else d
  let raised := (folded.zip conv).map fun p => p.1.2 ||| (if last then p.2.2 else 0#7)
  let r := runOf d e
  let d := raiseStep (orFlags raised) (setRun e { r with
    folded := Tab.put r.folded c (rank + 1)
    flags := (raised.zip (List.range raised.length)).foldl (fun fs p => noteFlags fs (lo + p.2) p.1) r.flags } d)
  if last && t.op = 1 then sendResults e t g d else d

/-! ### Dispatches (R314 to R317) -/

/-- A pair: row, route index, bin. -/
abbrev Pair := Nat × Nat × Nat

/-- What a dispatch reads when it fires: the row count, the route words, or none where they break R314. -/
def readRoutes (t : TrigEntry) (members : Nat) (d : Device) : Option (Nat × List Nat) × Device :=
  let c := workRead t.nrows 4 d
  let rows := natOfBytes c.1
  let w := t.routes * rows
  if !rangeInMap t.src (rows * bytesFor t.type t.n) || !rangeInMap t.aux (4 * w) then (none, stepFault 0 c.2)
  else
    let m := workRead t.aux (4 * w) c.2
    let words := (pieces 4 w m.1).map natOfBytes
    if words.all (fun b => b < members * t.bpm || b = 0xFFFFFFFF) then (some (rows, words), m.2)
    else (none, stepFault 0 m.2)

/-- The pairs of route words in row order. -/
def pairsOf (t : TrigEntry) (words : List Nat) : List Pair :=
  ((words.zip (List.range words.length)).filter fun p => p.1 < 0xFFFFFFFE).map fun p =>
    (p.2 / t.routes, p.2 % t.routes, p.1)

/-- The pairs of one bin. -/
def binPairs (ps : List Pair) (b : Nat) : List Pair := ps.filter (·.2.2 = b)

/-- The pairs destined for a member in their order (R314). -/
def memberPairs (t : TrigEntry) (ps : List Pair) (j : Nat) : List Pair :=
  (List.range t.bpm).flatMap fun b => binPairs ps (j * t.bpm + b)

/-- Overwrite the route words of dropped pairs and count them (R316). -/
def dropPairs (t : TrigEntry) (ps : List Pair) (d : Device) : Device :=
  let d := ps.foldl (fun d p => workWrite (t.aux + 4 * (p.1 * t.routes + p.2.1)) (bytesOfNat 4 0xFFFFFFFE) d) d
  { d with work := { d.work with counts := { d.work.counts with drops := d.work.counts.drops + ps.length } } }

/-- The rows of pairs, read from the source area. -/
def pairRows (e : Nat) (t : TrigEntry) (noc : Bool) (ps : List Pair) (d : Device) : List Byte × Device :=
  let row := bytesFor t.type t.n
  ps.foldl (fun acc p =>
    let s := sourceBytes acc.2 e t noc (p.1 * row) row
    (acc.1 ++ s.1, s.2)) ([], d)

/-- The count that source `s` sent for local bin `b`. -/
def countOf (r : EntryRun) (s b : Nat) : Nat := field (Tab.getD r.counts s []) (4 * b) 4

/-- The sum of a list. -/
def sumOf (xs : List Nat) : Nat := xs.foldl (· + ·) 0

/-- Pairs that source `s` sent. -/
def pairsFrom (t : TrigEntry) (r : EntryRun) (s : Nat) : Nat := sumOf ((List.range t.bpm).map (countOf r s))

/-- Total of a local bin. -/
def binTotal (members : Nat) (r : EntryRun) (b : Nat) : Nat := sumOf ((List.range members).map fun s => countOf r s b)

/-- R0 of R315. -/
def rowsStart (t : TrigEntry) (members : Nat) : Nat := roundUp (4 * t.bpm * (members + 1)) 512

/-- The row place of pair i of (local bin b, source s) in the receive area of a dispatch, in rows (R315, R316). -/
def rowPlace (t : TrigEntry) (members : Nat) (r : EntryRun) (b s i : Nat) : Nat :=
  if t.op = 7 then (b * members + s) * t.cap + i
  else
    sumOf ((List.range b).map (binTotal members r)) + sumOf ((List.range s).map fun k => countOf r k b) + i

/-- Every place of the pairs of source `s`, in stream order. -/
def placesFrom (t : TrigEntry) (members : Nat) (r : EntryRun) (s : Nat) : List Nat :=
  (List.range t.bpm).flatMap fun b => (List.range (countOf r s b)).map fun i => rowPlace t members r b s i

/-- Whether the counts fix the row places of source `s` (R315, R316): all of them of a counts-first dispatch. -/
def placesKnown (t : TrigEntry) (members : Nat) (r : EntryRun) (s : Nat) : Bool :=
  if t.op = 7 then (Tab.find r.counts s).isSome else (List.range members).all fun k => (Tab.find r.counts k).isSome

/-- Whether the counts of a counts-first dispatch are known and put a bin above CAP (R315). -/
def overCap (t : TrigEntry) (members : Nat) (r : EntryRun) : Bool :=
  t.op = 6 && placesKnown t members r 0 && (List.range t.bpm).any fun b => t.cap < binTotal members r b

/-- Route words without reporting anything: what an entry expects. -/
def routesPeek (q : TrigEntry) (d : Device) : List Nat :=
  let w := q.routes * natOfBytes (peekBytes d.mem q.nrows 4)
  (pieces 4 w (peekBytes d.mem q.aux (4 * w))).map natOfBytes

/-- The addresses of the rows that come from a rank, in stream order (R315 to R317); none while they are not fixed, and where a
bin above CAP fails the collective. -/
def rowAddresses (d : Device) (e : Nat) (t : TrigEntry) (members s : Nat) : Option (List Nat) :=
  let row := bytesFor t.type t.n
  if t.op = 8 then
    (trigOf d t.peer).map fun q =>
      (memberPairs q (pairsOf q (routesPeek q d)) s).map fun p => t.dst + (p.1 * q.routes + p.2.1) * row
  else
    let r := runOf d e
    if placesKnown t members r s && !overCap t members r then
      some ((placesFrom t members r s).map fun p => t.dst + rowsStart t members + p * row)
    else none

/-- The parts of units of `n` bytes that a range of a stream of them takes: the unit, the offset in it, and the length. -/
def unitParts (n lo len : Nat) : List (Nat × Nat × Nat) :=
  if n = 0 || len = 0 then []
  else
    let first := lo / n
    (List.range ((lo + len - 1) / n - first + 1)).map fun k =>
      let start := max lo ((first + k) * n)
      (first + k, start - (first + k) * n, min (lo + len) ((first + k + 1) * n) - start)

/-- Write bytes at an offset of a stream of units of `n` bytes to the units' addresses; a unit without one takes none. -/
def writeUnits (n : Nat) (addrs : Nat → Option Nat) (lo : Nat) (bs : List Byte) (d : Device) : Device :=
  (unitParts n lo bs.length).foldl (fun d p =>
    match addrs p.1 with
    | some a => workWrite (a + p.2.1) (slice bs (p.1 * n + p.2.1 - lo) p.2.2) d
    | none => d) d

/-- Write the rows that have come and whose places are fixed; others wait for the counts. -/
def placeRows (e : Nat) (t : TrigEntry) (members : Nat) (d : Device) : Device :=
  (runOf d e).rows.foldl (fun d p =>
    match rowAddresses d e t members p.1 with
    | some as => writeUnits (bytesFor t.type t.n) (fun i => as[i]?) p.2.1 p.2.2 d
    | none =>
      let r := runOf d e
      setRun e { r with rows := r.rows ++ [p] } d) (setRun e { runOf d e with rows := [] } d)

/-- Put the bytes of a chunk, or of a frame at an offset of it, where they belong (R291 item 1): counts of R315 by local bin and
source, rows at their places. -/
def placeBytes (e : Nat) (t : TrigEntry) (members : Nat) (dest : Dest) (off : Nat) (bs : List Byte) (d : Device) : Device :=
  if bs.isEmpty then d
  else
    match dest with
    | .memory a => workWrite (a + off) bs d
    | .counts s => writeUnits 4 (fun b => if b < t.bpm then some (t.dst + 4 * (b * members + s)) else none) off bs d
    | .rows s o =>
      let r := runOf d e
      placeRows e t members (setRun e { r with rows := r.rows ++ [(s, o + off, bs)] } d)
    | .nothing => d

/-- Whether a stream is larger than a piece may be (R306). -/
def streamTooLong (bytes : Nat) : Bool := chunkSize * 32768 < bytes

/-- Whether every byte that a SENDFAB handed under NOC = 0 lies in a source range of some bytes (R303). -/
def handedWithin (d : Device) (e n : Nat) : Bool := entryNoc d e || (runOf d e).handedAt.all fun o => decide (o < n)

/-- A chunk of a byte stream goes to a member once, or is copied where that is this member (R306). -/
def sendOnce (e : Nat) (t : TrigEntry) (g : Group) (dest : Dest) (p : Part) (read : Device → List Byte × Device) (d : Device) :
    Device :=
  let r := runOf d e
  let key := (p.dst, p.phase, p.piece, p.index)
  if r.sent.contains key then d
  else
    let s := read d
    let d := setRun e { runOf s.2 e with sent := r.sent ++ [key] } s.2
    if p.dst = g.myRank then placeBytes e t g.members dest 0 s.1 d
    else
      sendChunk ((p.index + p.piece + g.myRank) % 8) (entryChunk d e t g 0x01 (nodeOfRank g p.dst) p 0#7 s.1) d

/-! #### RETURN (R317) -/

/-- Rows that the receive area of a dispatch holds (R315, R316), which the source of its RETURN holds too (R317). -/
def dispatchRows (q : TrigEntry) (members : Nat) (r : EntryRun) : Nat :=
  if q.op = 7 then q.bpm * members * q.cap else sumOf ((List.range q.bpm).map (binTotal members r))

/-- The chunks of the rows that RETURN sends back to rank `s`, each with its ranges of the source: a row lies at the offset from
SRC that its slot has from DST + R0 of the dispatch. -/
def returnParts (t q : TrigEntry) (g : Group) (qr : EntryRun) (s : Nat) : List (Part × List (Nat × Nat)) :=
  let row := bytesFor t.type t.n
  let places := placesFrom q g.members qr s
  (pieceParts s 0 s 0 (places.length * row)).map fun p =>
    (p, (unitParts row p.off p.len).map fun u => (places.getD u.1 0 * bytesFor q.type q.n + u.2.1, u.2.2))

/-- The bytes of ranges of an entry's source. -/
def readRanges (e : Nat) (t : TrigEntry) (rs : List (Nat × Nat)) (d : Device) : List Byte × Device :=
  rs.foldl (fun acc p =>
    let x := sourceBytes acc.2 e t (entryNoc d e) p.1 p.2
    (acc.1 ++ x.1, x.2)) ([], d)

/-- Whether a stream of RETURN, to or from a rank, is beyond the limit of R306. -/
def returnTooLong (d : Device) (t q : TrigEntry) (g : Group) (qr : EntryRun) : Bool :=
  let row := bytesFor t.type t.n
  let back := pairsOf q (routesPeek q d)
  (List.range g.members).any fun s =>
    streamTooLong (pairsFrom q qr s * row) || streamTooLong ((memberPairs q back s).length * row)

/-- Send the chunks of RETURN for which a condition holds. -/
def sendReturn (e : Nat) (t q : TrigEntry) (g : Group) (ready : List (Nat × Nat) → Bool) (d : Device) : Device :=
  let qr := runOf d t.peer
  ((List.range g.members).filter (placesKnown q g.members qr)).foldl (fun d s =>
    ((returnParts t q g qr s).filter fun p => ready p.2).foldl (fun d p =>
      sendOnce e t g (.rows s p.1.off) p.1 (readRanges e t p.2) d) d) d

/-- Send the chunks of an entry whose bytes have all been handed (R303); those of an ordered reduction are held until the
decision, and those of RETURN until the counts of its dispatch say which they are. -/
def sendHanded (e : Nat) (d : Device) : Device :=
  match trigOf d e with
  | none => d
  | some t =>
    match groupOf d t.group with
    | none => d
    | some g =>
      let r := runOf d e
      if r.failed || (asksSwitch d t && !(r.fired && r.method = .direct)) then d
      else if t.op = 8 then
        match trigOf d t.peer with
        | none => d
        | some q =>
          if returnTooLong d t q g (runOf d t.peer) then d
          else sendReturn e t q g (fun rs => rs.all fun p => (List.range p.2).all fun k => r.handedAt.contains (p.1 + k)) d
      else ((directParts t g.members g.myRank).filter (partHanded r)).foldl (sendPart e t g (entryNoc d e)) d

/-- RETURN fires (R317): the chunks that are not sent yet. A stream that it would send or expect beyond the limit of R306 is a
fault. -/
def fireReturn (e : Nat) (t : TrigEntry) (g : Group) (d : Device) : Device :=
  match trigOf d t.peer with
  | none => stepFault 0 d
  | some q =>
    let qr := runOf d t.peer
    if !handedWithin d e (dispatchRows q g.members qr * bytesFor q.type q.n) || returnTooLong d t q g qr then stepFault 0 d
    else sendReturn e t q g (fun _ => true) d

/-- The route words of a dispatch as they stand. -/
def routesNow (q : TrigEntry) (d : Device) : List Nat × Device :=
  let c := workRead q.nrows 4 d
  let w := q.routes * natOfBytes c.1
  let m := workRead q.aux (4 * w) c.2
  ((pieces 4 w m.1).map natOfBytes, m.2)

/-- The results of RETURN that no row brings: +0 rows for pairs without one (R317). -/
def returnResults (t q : TrigEntry) (d : Device) : Device :=
  let row := bytesFor t.type t.n
  let ws := routesNow q d
  if row = 0 then ws.2
  else
    ((List.range ws.1.length).filter fun w => 0xFFFFFFFE ≤ ws.1.getD w 0).foldl (fun d w =>
      workWrite (t.dst + w * row) (List.replicate row 0#8) d) ws.2

/-! #### ALLTOALLV and EXPERT_CAP (R314 to R316) -/

/-- The counts of a rank have come: rows that waited for them are placed, and a RETURN of this dispatch may know its chunks. -/
def countsCame (e : Nat) (t : TrigEntry) (members s : Nat) (bs : List Byte) (d : Device) : Device :=
  let r := runOf d e
  let d := placeRows e t members (setRun e { r with counts := Tab.put r.counts s bs } d)
  let ts := trigTable d
  (((List.range ts.length).zip ts).filter fun x => x.2.op = 8 && x.2.peer = e).foldl (fun d x => sendHanded x.1 d) d

/-- Send the counts chunk of a dispatch to a rank. -/
def sendCounts (e : Nat) (t : TrigEntry) (g : Group) (j : Nat) (bs : List Byte) (d : Device) : Device :=
  let p : Part := { dst := j, phase := 0, piece := j, index := 0, off := 0, len := bs.length }
  let d := sendOnce e t g (.counts j) p (fun d => (bs, d)) d
  if j = g.myRank then countsCame e t g.members j bs d else d

/-- Send the rows of a dispatch to a rank in chunks. -/
def sendRows (e : Nat) (t : TrigEntry) (g : Group) (j : Nat) (bs : List Byte) (d : Device) : Device :=
  (partsOf (chunkCount bs.length) j 1 j 0 bs.length).foldl (fun d p =>
    sendOnce e t g (.rows j p.off) p (fun d => (slice bs p.off p.len, d)) d) d

/-- A dispatch fires (R314 to R316). -/
def fireDispatch (e : Nat) (t : TrigEntry) (g : Group) (d : Device) : Device :=
  let rr := readRoutes t g.members d
  match rr.1 with
  | none => rr.2
  | some (count, words) =>
    let all := pairsOf t words
    let bins := (all.map (·.2.2)).eraseDups
    let dropped := if t.op = 7 then bins.flatMap fun b => (binPairs all b).drop t.cap else []
    let kept := all.filter fun p => !dropped.contains p
    let row := bytesFor t.type t.n
    if !handedWithin d e (count * row) || (List.range g.members).any fun j => streamTooLong ((memberPairs t kept j).length * row)
    then stepFault 0 rr.2
    else
      let d := if t.op = 7 then dropPairs t dropped rr.2 else rr.2
      (List.range g.members).foldl (fun d j =>
        let counts := (List.range t.bpm).flatMap fun b => bytesOfNat 4 (binPairs kept (j * t.bpm + b)).length
        let d := sendCounts e t g j counts d
        let rows := pairRows e t (entryNoc d e) (memberPairs t kept j) d
        sendRows e t g j rows.1 rows.2) d

/-- The results of a dispatch that no chunk brings, once everything has arrived (R315, R316): the totals, and +0 in the slots
beyond a fill count. -/
def dispatchResults (e : Nat) (t : TrigEntry) (members : Nat) (d : Device) : Device :=
  let r := runOf d e
  let row := bytesFor t.type t.n
  let totals := (List.range t.bpm).flatMap fun b => bytesOfNat 4 (binTotal members r b)
  let d := workWrite (t.dst + 4 * (members * t.bpm)) totals d
  if t.op ≠ 7 then d
  else
    (List.range (t.bpm * members)).foldl (fun d k =>
      let fill := countOf r (k % members) (k / members)
      let zeros := List.replicate ((t.cap - fill) * row) 0#8
      if zeros.isEmpty then d
      else workWrite (t.dst + rowsStart t members + (k * t.cap + fill) * row) zeros d) d

/-! ### Ordered reduction in the switch (R308, R309) -/

/-- Entries that have opened with the switch and are not complete (R295). -/
def openOred (d : Device) : Nat :=
  (d.fab.entries.filter fun x => x.2.fired && x.2.method ≠ .direct && !x.2.complete && !x.2.failed).length

/-- The payload of ORED_OPEN (R308): CHUNKS counts the contribution chunks of this plane. -/
def openPayload (t : TrigEntry) (g : Group) (plane : Nat) : List Byte :=
  let chunks := ((switchParts t g.members).filter fun p => (p.index + p.piece) % 8 = plane).length
  bytesOfNat 8 (agreeWord t (fmtByte t.type) g.gen).toNat ++ bytesOfNat 4 g.members ++ bytesOfNat 4 chunks ++
    bytesOfNat 1 t.op ++ bytesOfNat 1 (ofBit t.redMax) ++ bytesOfNat 1 (fmtByte t.type) ++
    bytesOfNat 1 (fmtByte t.dtype) ++ bytesOfNat 4 t.n ++ bytesOfNat 8 0

/-- Ask the switch: ORED_OPEN on every up port; a down plane counts as REFUSE (R309). -/
def openSwitch (e : Nat) (t : TrigEntry) (g : Group) (d : Device) : Device :=
  let ports := (List.range 8).filter (portUp d)
  let down := (List.range 8).filter fun p => !portUp d p
  let d := ports.foldl (fun d p =>
    let c := entryChunk d e t g 0x10 switchNode { dst := 0, phase := 0, piece := 0, index := 0, off := 0, len := 32 } 0#7
      (openPayload t g p)
    sendOn p { c with agree := agreeWord t (fmtByte t.type) g.gen } d) d
  let r := runOf d e
  setRun e { r with method := .asking, answers := down.map fun p => (p, false) } d

/-- Send every contribution to its plane (R309 item 3). -/
def startSwitch (e : Nat) (t : TrigEntry) (g : Group) (d : Device) : Device :=
  (switchParts t g.members).foldl (fun d p =>
    let s := sourceBytes d e t (entryNoc d e) p.off p.len
    let r := runOf s.2 e
    let d := setRun e { r with sent := r.sent ++ [(p.dst, 0, p.piece, p.index)] } s.2
    sendOn ((p.index + p.piece) % 8) (entryChunk d e t g 0x13 switchNode p 0#7 s.1) d) d

/-- Copy this member's own share to itself (R306). -/
def selfCopy (e : Nat) (t : TrigEntry) (g : Group) (d : Device) : Device :=
  let whole := bytesFor t.type t.n
  let copy := fun (off dst : Nat) (d : Device) =>
    if whole = 0 then d
    else
      let s := sourceBytes d e t (entryNoc d e) off whole
      workWrite dst s.1 s.2
  match t.op with
  | 3 => copy 0 (t.dst + g.myRank * whole) d
  | 4 => if g.myRank = t.peer then copy 0 t.dst d else d
  | 5 => copy (g.myRank * whole) (t.dst + g.myRank * whole) d
  | _ => d

/-- Direct exchange begins (R307). -/
def startDirect (e : Nat) (t : TrigEntry) (g : Group) (d : Device) : Device :=
  let r := runOf d e
  let d := setRun e { r with method := .direct } d
  if isDispatch t.op then fireDispatch e t g d
  else if t.op = 8 then fireReturn e t g d
  else
    let d := (directParts t g.members g.myRank).foldl (sendPart e t g (entryNoc d e)) d
    selfCopy e t g d

/-- The decision once every plane has answered: a plane whose port is down counts as REFUSE (R309, R311). -/
def decide8 (e : Nat) (t : TrigEntry) (g : Group) (d : Device) : Device :=
  let r := runOf d e
  if r.method ≠ .asking || r.answers.length < 8 then d
  else if r.answers.all (fun a => a.2 && portUp d a.1) then
    let d := setRun e { r with method := .inSwitch } d
    if r.arrived.any fun a => a.2.1 = 0 then failCollective e reasonConflict true d else startSwitch e t g d
  else
    let d := { d with errs := { d.errs with refusals := satAdd 20 d.errs.refusals 1 } }
    let granted := (r.answers.filter (·.2)).map (·.1)
    let d := granted.foldl (fun d p =>
      sendOn p (entryChunk d e t g 0x15 switchNode { dst := 0, phase := 0, piece := 0, index := 0, off := 0, len := 0 } 0#7 [])
        d) d
    startDirect e t g d

/-- Add the answer of a plane that has not answered. -/
def addAnswer (e plane : Nat) (grant : Bool) (d : Device) : Device :=
  match trigOf d e with
  | none => d
  | some t =>
    match groupOf d t.group with
    | none => d
    | some g =>
      let r := runOf d e
      if r.method ≠ .asking || r.failed || r.answers.any (·.1 = plane) then d
      else decide8 e t g (setRun e { r with answers := r.answers ++ [(plane, grant)] } d)

/-! ### Firing and completing (R302, R304) -/

/-- Whether clause c of the step in flight has completed. -/
def clauseDone (d : Device) (c : Nat) : Bool :=
  decide (c < d.work.nextClause) && (d.work.issue.map (·.clause)) ≠ some c

/-- Whether an entry fires now (R302). -/
def shouldFire (d : Device) (e : Nat) (t : TrigEntry) : Bool :=
  let r := runOf d e
  !r.fired && !r.failed &&
    (if t.thresh ≠ 0 then t.thresh ≤ Tab.getD d.fab.counters t.trig 0
     else (sendersOf d e).all fun p => clauseDone d p.1) &&
    (!asksSwitch d t || openOred d < 64)

/-- Whether PEER is a rank of the group, for an operation whose PEER is one (R301). -/
def peerOk (t : TrigEntry) (g : Group) : Bool := (t.op ≠ 4 && t.op ≠ 9 && t.op ≠ 10) || decide (t.peer < g.members)

/-- Fire an entry: with no group, with a PEER that is no rank of it, or with a piece too large, the step faults (R301, R306). A
REDUCE_SCATTER expects a piece of DTYPE only from the switch (R307, R309). -/
def fireEntry (e : Nat) (t : TrigEntry) (d : Device) : Device :=
  let r := runOf d e
  let d := setRun e { r with fired := true } d
  match groupOf d t.group with
  | none => stepFault 0 d
  | some g =>
    let large := max (largestPiece t g.members)
      (if t.op = 2 && asksSwitch d t then bytesFor t.dtype ((t.n + g.members - 1) / g.members) else 0)
    if streamTooLong large || !peerOk t g then stepFault 0 d
    else if asksSwitch d t then decide8 e t g (openSwitch e t g d)
    else startDirect e t g d

/-- The chunks that an entry expects from others: rank, phase, piece, index. -/
def expected (t : TrigEntry) (g : Group) (r : EntryRun) : List (Nat × Nat × Nat × Nat) :=
  let others := otherRanks g.members [g.myRank]
  let whole := sentChunks (bytesFor t.type t.n)
  let idx := fun (n : Nat) (s phase piece : Nat) => (List.range n).map fun i => (s, phase, piece, i)
  match t.op with
  | 1 =>
    others.flatMap (fun s => idx (sentChunks (bytesFor t.type (pieceLen t.n g.members g.myRank))) s 0 g.myRank) ++
      others.flatMap fun s => idx (chunkCount (bytesFor t.dtype (pieceLen t.n g.members s))) s 1 s
  | 2 => others.flatMap fun s => idx (sentChunks (bytesFor t.type (pieceLen t.n g.members g.myRank))) s 0 g.myRank
  | 3 => others.flatMap fun s => idx whole s 0 s
  | 4 => if g.myRank = t.peer then others.map fun s => (s, 0, 0, 0) else idx whole t.peer 0 0
  | 5 => others.flatMap fun s => idx whole s 0 g.myRank
  | 10 => idx whole t.peer 0 0
  | 6 | 7 =>
    others.map (fun s => (s, 0, g.myRank, 0)) ++
      others.flatMap fun s => idx (chunkCount (pairsFrom t r s * bytesFor t.type t.n)) s 1 g.myRank
  | _ => []

/-- The results expected from the switch, as (2, 2, piece, index). -/
def expectedResults (t : TrigEntry) (g : Group) : List (Nat × Nat × Nat × Nat) :=
  ((List.range g.members).filter fun j => t.op = 1 || j = g.myRank).flatMap fun j =>
    (List.range (chunkCount (bytesFor t.dtype (pieceLen t.n g.members j)))).map fun i => (2, 2, j, i)

/-- What RETURN expects: the streams of its own pairs. -/
def expectedReturn (d : Device) (t q : TrigEntry) (g : Group) : List (Nat × Nat × Nat × Nat) :=
  let ps := pairsOf q (routesPeek q d)
  (otherRanks g.members [g.myRank]).flatMap fun j =>
    (List.range (sentChunks ((memberPairs q ps j).length * bytesFor t.type t.n))).map fun i => (j, 0, g.myRank, i)

/-- Whether every chunk of the own piece is folded. -/
def allFolded (t : TrigEntry) (g : Group) (r : EntryRun) : Bool :=
  (List.range (chunkCount (bytesFor t.type (pieceLen t.n g.members g.myRank)))).all fun c => Tab.getD r.folded c 0 = g.members

/-- Whether a fired entry has sent and received everything (R304). -/
def entryDone (d : Device) (e : Nat) (t : TrigEntry) : Bool :=
  let r := runOf d e
  match groupOf d t.group with
  | none => false
  | some g =>
    let acked := !(d.fab.chunks.any fun c => c.2.chunk.entry = e && (c.2.chunk.ftype = 0x01 || c.2.chunk.ftype = 0x13))
    let want := if r.method = .inSwitch then expectedResults t g
      else if t.op = 8 then ((trigOf d t.peer).map fun q => expectedReturn d t q g).getD []
      else expected t g r
    r.fired && !r.complete && !r.failed && r.method ≠ .asking && acked && want.all (fun x => r.arrived.contains x) &&
      (!isReduction t.op || r.method = .inSwitch || allFolded t g r)

/-- Whether a fired dispatch has a bin above CAP (R315). -/
def capFails (d : Device) (e : Nat) (t : TrigEntry) : Bool :=
  let r := runOf d e
  r.fired && !r.failed && !r.complete && (groupOf d t.group).any fun g => overCap t g.members r

/-- Raise an event counter (R302). -/
def raiseCounter (c n : Nat) (d : Device) : Device :=
  { d with fab := { d.fab with counters := Tab.put d.fab.counters c ((Tab.getD d.fab.counters c 0 + n) % 2 ^ 32) } }

/-- An entry completes: its results are written and DONE rises (R304). A bin above CAP fails a counts-first dispatch as soon as its
counts are known (R315). -/
def completeEntry (e : Nat) (t : TrigEntry) (d : Device) : Device :=
  match groupOf d t.group with
  | none => d
  | some g =>
    if capFails d e t then failCollective e reasonCapacity true d
    else
      let d := if isDispatch t.op then dispatchResults e t g.members d
        else if t.op = 8 then ((trigOf d t.peer).map fun q => returnResults t q d).getD d
        else d
      let d := setRun e { runOf d e with complete := true } d
      if t.doneEn then raiseCounter t.done 1 d else d

/-- The first entry with a property. -/
def firstEntry (d : Device) (p : Nat → TrigEntry → Bool) : Option (Nat × TrigEntry) :=
  let ts := trigTable d
  ((List.range ts.length).zip ts).find? fun x => p x.1 x.2

/-- Whether clause c waits on a GATE (R301, R302). -/
def gated (d : Device) (c : Nat) : Bool :=
  let ts := trigTable d
  ((List.range ts.length).zip ts).any fun x => x.2.gate = c && !(runOf d x.1).complete

/-- Whether every clause has completed or is held (R302). -/
def clausesRest (d : Device) : Bool :=
  let n := ((d.loaded.sentence.map (·.clauses)).getD []).length
  d.work.issue.isNone && (n ≤ d.work.nextClause || gated d d.work.nextClause)

/-- Whether the step cannot go on: every clause rests, no fired entry is incomplete, and some entry has not fired
(R302). -/
def stuck (d : Device) : Bool :=
  let ts := trigTable d
  let es := (List.range ts.length).map (runOf d)
  clausesRest d && es.all (fun r => !r.fired || r.complete) && es.any (fun r => !r.fired)

/-- Fire and complete entries until nothing more happens; `fuel` bounds the two events of each entry. -/
def settleLoop : Nat → Device → Device
  | 0, d => d
  | fuel + 1, d =>
    if !d.job.inFlight || d.job.faulted then d
    else
      match firstEntry d (fun e t => capFails d e t || entryDone d e t) with
      | some (e, t) => settleLoop fuel (completeEntry e t d)
      | none =>
        match firstEntry d (shouldFire d) with
        | some (e, t) => settleLoop fuel (fireEntry e t d)
        | none => if stuck d then stepFault 0 d else d

/-- Fire and complete entries; then the ports send what is ready. -/
def settle (d : Device) : Device := serve (settleLoop (2 * (trigTable d).length + 1) d)

/-- Hand the bytes of a tile to entries (R303): each entry that a SENDFAB of the tile names counts one tile (R302). -/
def handTile (named : List Nat) (bs : List (Nat × Nat × Byte)) (d : Device) : Device :=
  named.foldl (fun d e =>
    let mine := bs.filter (·.1 = e)
    let r := runOf d e
    let r := { r with
      handed := mine.foldl (fun m b => writeByte m b.2.1 b.2.2) r.handed
      handedAt := r.handedAt ++ mine.map (·.2.1) }
    let d := setRun e r d
    let d := match trigOf d e with
      | some t => raiseCounter t.trig 1 d
      | none => d
    sendHanded e d) d

end Sys2Proof.Machine
end

