-- ==== Sys2Proof/Machine/Pages.lean ====
section
/-!
DEFINITION. Page lists and slots (R190 to R216): entries and heads as words, references, pools, edits, the references of
prefix-tree nodes that follow edits (R258, R259).
-/
namespace Sys2Proof.Machine

/-! ### Entries and heads (R193, R194) -/

/-- The word of a page-list entry. -/
def entryWord (e : PageEntry) : Nat := e.slot + 2 ^ 48 * e.tier + 2 ^ 50 * ofBit e.fp4 + 2 ^ 51 * ofBit e.shared

/-- The entry that a word spells; none where it is invalid (R194). -/
def parseEntry (w : Nat) : Option PageEntry :=
  let slot := bitsOf w 0 48
  let tier := bitsOf w 48 2
  let ok := w < 2 ^ 52 && slot % 512 = 0 && tier ≠ 3 && (tier ≠ 0 || inBlock slot) && (tier ≠ 1 || inHbm slot)
  whenOk ok { slot := slot, tier := tier, fp4 := bitOf w 50, shared := bitOf w 51 }

/-- The 32 bytes of a page-list head. -/
def headBytes (l : PageList) : List Byte :=
  bytesOfNat 4 l.npos ++ bytesOfNat 4 l.entries.length ++ bytesOfNat 4 l.gen ++ bytesOfNat 4 l.cap ++
    bytesOfNat 8 l.entriesAt ++ bytesOfNat 8 l.nshared

/-! ### The directory of the sentence (R197, R363) -/

/-- DIR of the loaded sentence. -/
def mainDir (d : Device) : Nat := (d.loaded.sentence.map (·.dir)).getD 0

/-- DIR_LAYERS and DIR_HEADS of the loaded sentence. -/
def dirLayers (d : Device) : Nat := (d.loaded.sentence.map (·.dirLayers)).getD 0
def dirHeads (d : Device) : Nat := (d.loaded.sentence.map (·.dirHeads)).getD 0

/-- Layer and head of every list of the main directory, in directory order. -/
def dirPlaces (d : Device) : List (Nat × Nat) :=
  (List.range (dirLayers d)).flatMap fun l => (List.range (dirHeads d)).map fun h => (l, h)

/-- The key of a main list of a request slot. -/
def mainKey (d : Device) (slot layer head : Nat) : ListKey :=
  { dir := mainDir d, slot := slot, layer := layer, head := head }

/-- The main-list keys of a request slot. -/
def mainKeys (d : Device) (slot : Nat) : List ListKey := (dirPlaces d).map fun p => mainKey d slot p.1 p.2

/-- The dimension bound of a paged operand (R199). -/
def pagedDim (o : OpDesc) : Option Nat :=
  if o.b.paged then constBound (loopOf o.loops (if bitOf o.b.scaleBase 1 then .n else .k)) else none

/-- The largest head dimension that the sentence's paged operands give by constant bounds; 512 where none does
(notes/assumptions 12). -/
def sentenceDh (d : Device) : Nat :=
  let ops := ((d.loaded.sentence.map (·.clauses)).getD []).flatMap (·.ops)
  let ds := ops.filterMap pagedDim
  if ds.isEmpty then 512 else ds.foldl max 0

/-! ### Lists -/

/-- The list of a key in the current role. -/
def listAt (d : Device) (k : ListKey) : PageList := listOf d.role.lists k

/-- The lists with one replaced or added. -/
def putListIn : List PageList → PageList → List PageList
  | [], l => [l]
  | x :: t, l => if x.key = l.key then l :: t else x :: putListIn t l

/-- A list of the current role replaced or added. -/
def putList (l : PageList) (d : Device) : Device := { d with role := { d.role with lists := putListIn d.role.lists l } }

/-- The lists of a request slot. -/
def listsOfSlot (d : Device) (slot : Nat) : List PageList := d.role.lists.filter (·.key.slot = slot)

/-- The roles that the device holds: one, or two in SPLIT (R424). -/
def allRoles (d : Device) : List Role := d.role :: d.twin.taken.toList

/-- The head dimension of a main list's place: that of a list there, or the sentence's. -/
def dimAt (d : Device) (layer head : Nat) : Nat :=
  let ls := (allRoles d).flatMap (·.lists)
  ((ls.find? fun l => l.key.dir = mainDir d && l.key.layer = layer && l.key.head = head && l.dh ≠ 0).map (·.dh)).getD
    (sentenceDh d)

/-! ### The firmware work area (R534) -/

/-- Vmax of the loaded sentence (R268). -/
def vmax (d : Device) : Nat := (((d.loaded.sentence.map (·.samples)).getD []).map (·.v)).foldl max 0

/-- Bytes of a sampler state with its count table (R268). -/
def stateSize (d : Device) : Nat := 128 + roundUp (2 * vmax d) 64

/-- Base and size of the work area. -/
def workArea (d : Device) : Nat × Nat := (d.loaded.sentence.map fun s => (s.fwArea, s.fwSize)).getD (0, 0)

/-- The ranges of the work area that hold the state of the requests in the table: their state, and the entry arrays of their
lists. -/
def workUsed (d : Device) : List (Nat × Nat) :=
  (allRoles d).flatMap fun r =>
    (r.reqs.flatMap fun q =>
      [(q.2.stateAddr, stateSize d), (q.2.promptAt, 4 * q.2.promptLen), (q.2.tokensAt, 4 * q.2.maxNew)]) ++
      (r.lists.filter fun l => (Tab.find r.reqs l.key.slot).isSome).map fun l => (l.entriesAt, 8 * l.cap)

/-- An address in the work area for `n` bytes that meet no used range, a multiple of `align` above its base; `x` stands for
firmware's choice among such addresses (notes/assumptions 15). None where no such address is left. -/
def workPlace (d : Device) (used : List (Nat × Nat)) (align n x : Nat) : Option Nat :=
  let area := workArea d
  let stop := area.1 + area.2
  let starts := (area.1 :: used.map fun u => area.1 + roundUp (u.1 + u.2 - area.1) align).filter fun a =>
    a + n ≤ stop && used.all fun u => !rangesMeet a n u.1 u.2
  starts[x % starts.length]?.map fun a =>
    let room := (used.filter fun u => a ≤ u.1 && u.2 ≠ 0).foldl (fun m u => min m u.1) stop
    a + align * (x / starts.length % ((room - a - n) / align + 1))

/-- Entries that the list of a request can come to need: its learned prefix, its prompt, and the tokens that it may draw with
the rows of a verification. -/
def entriesNeeded (d : Device) (slot : Nat) : Nat :=
  match Tab.find d.role.reqs slot with
  | some q => min (2 ^ 24 - 1) ((q.lv + q.promptLen + q.maxNew + 8 + 255) / 256)
  | none => 0

/-- A list that firmware makes: empty, its entry array at an address of firmware's own choice in the work area (R534), with
room for the entries that its request can come to need, and for more where firmware gives more. Where the area has no place
left the array has no entry. -/
def freshList (k : ListKey) (dh : Nat) (d : Device) : PageList × Device :=
  let t := takeFree d
  let least := entriesNeeded d k.slot
  let place := [min (2 ^ 24 - 1) (least + Config.listCap t.1), least].findSome? fun cap =>
    (workPlace d (workUsed d) 8 (8 * cap) t.1).map fun a => (cap, a)
  let p := place.getD (0, (workArea d).1)
  ({ key := k, dh := dh, npos := 0, gen := 0, cap := p.1, entriesAt := p.2, nshared := 0, entries := [],
     lastGain := 0, gains := [] }, t.2)

/-- The list of a key with its head dimension: made where it does not exist, and given a new entry array where it is empty and
its array is too small for its request (R193, R534). -/
def needList (k : ListKey) (dh : Nat) (d : Device) : PageList × Device :=
  match d.role.lists.find? (·.key = k) with
  | some l =>
    let dh := if l.dh = 0 then dh else l.dh
    if l.entries.isEmpty && l.cap < entriesNeeded d k.slot then
      let r := freshList k dh d
      ({ r.1 with gen := l.gen }, r.2)
    else ({ l with dh := dh }, d)
  | none => freshList k dh d

/-- The lists of a request slot without entry arrays: those of the request that held it before are gone with it (R534). -/
def unhouseLists (slot : Nat) (d : Device) : Device :=
  { d with role := { d.role with lists := d.role.lists.map fun l =>
      if l.key.slot = slot && l.entries.isEmpty then { l with cap := 0 } else l } }

/-! ### References (R213) -/

/-- A slot in use: tier, address, bytes. -/
abbrev SlotUse := Nat × Nat × Nat

/-- Slots that page entries of one head dimension name. -/
def usesOf (dh : Nat) (es : List PageEntry) : List SlotUse := es.map fun e => (e.tier, e.slot, slotBytes dh e.fp4)

/-- Slots that per-list entries in directory order name. -/
def dirUses (d : Device) (ess : List (List PageEntry)) : List SlotUse :=
  ((dirPlaces d).zip ess).flatMap fun p => usesOf (dimAt d p.1.1 p.1.2) p.2

/-- The slots of a copy in flight: the one that it reads and its destination (R213). -/
def copyUses (c : CopyRun) : List SlotUse := usesOf c.dh [c.source, c.dest]

/-- Slots named by a role: its lists, its variant table, its SHARE edits, its copies in flight, its exports under way. -/
def roleUses (d : Device) (r : Role) : List SlotUse :=
  r.lists.flatMap (fun l => usesOf l.dh l.entries) ++ r.variants.flatMap (fun v => dirUses d v.2.pages) ++
    (r.col.shares ++ r.col.shared).flatMap (fun s => usesOf (dimAt d s.key.layer s.key.head) [s.entry]) ++
    r.copies.flatMap copyUses ++
    r.ships.flatMap fun s =>
      (s.pages.filter fun p => p.seq.isSome && 0 < p.chunksLeft).flatMap fun p =>
        usesOf (dimAt d p.key.layer p.key.head) [p.entry]

/-- Every name of every slot, as often as it is named. -/
def slotUses (d : Device) : List SlotUse :=
  (allRoles d).flatMap (roleUses d) ++ d.tree.flatMap (fun n => dirUses d (n.2.slots.map fun e => [e])) ++
    (allRoles d).flatMap fun r => r.col.fwEdits.flatMap fun e => usesOf (listAt d e.key).dh [e.dest]

/-- The reference count of a slot. -/
def refCount (d : Device) (tier slot : Nat) : Nat := ((slotUses d).filter fun u => u.1 = tier && u.2.1 = slot).length

/-- Each slot in use once. -/
def slotsUsed (d : Device) : List SlotUse := (slotUses d).eraseDups

/-! ### Pools (R365, R424) -/

/-- Bytes of the host spill area (R217). -/
def spillBytes (d : Device) : Nat := regField d .hifSpillSize 0 20 * 2 ^ 21

/-- The shadow area (R438). -/
def shadowRange (d : Device) : Nat × Nat :=
  (regField d .twnShadowBase 21 27 * 2 ^ 21, regField d .twnShadowSize 0 20 * 2 ^ 21)

/-- The pools of a tier as base and bytes: the taken role has the shadow area alone (R424). -/
def poolRanges (d : Device) (tier : Nat) : List (Nat × Nat) :=
  if d.onTaken then (if tier = 1 then [shadowRange d] else [])
  else if tier = 2 then (if spillBytes d = 0 then [] else [(0, spillBytes d)])
  else ((d.loaded.sentence.map (·.pools)).getD []).filterMap fun p =>
    if p.tier = tier && p.granules ≠ 0 then some (p.base, 512 * p.granules) else none

/-- Whether a slot of `size` bytes at `a` lies in a pool range and meets no slot in use and no withdrawn slot. -/
def slotFits (d : Device) (tier size a : Nat) (pool : Nat × Nat) : Bool :=
  a % 512 = 0 && pool.1 ≤ a && a + size ≤ pool.1 + pool.2 &&
    (slotsUsed d).all (fun u => u.1 ≠ tier || !rangesMeet u.2.1 u.2.2 a size) &&
    (tier = 2 || d.withdrawn.all fun w => !rangesMeet w 512 a size)

/-- The slots in use when a boundary begins: one of them that the boundary frees is used again only by an edit of a later
boundary (R213). -/
def holdSlots (d : Device) : Device := { d with slotHold := slotsUsed d }

/-- Whether an edit of the last boundary, or the composition that follows it, may take a slot. -/
def slotOpen (d : Device) (tier size a : Nat) (pool : Nat × Nat) : Bool :=
  slotFits d tier size a pool && d.slotHold.all (fun u => u.1 ≠ tier || !rangesMeet u.2.1 u.2.2 a size)

/-- The first place of a pool that fits and that `ok` admits: its base, the start of a block in it, or the end of a slot in
use or held. -/
def firstFit (ok : Nat → Bool) (d : Device) (tier size : Nat) (pool : Nat × Nat) : Option Nat :=
  let ends := (slotsUsed d ++ d.slotHold).filterMap fun u => if u.1 = tier then some (u.2.1 + u.2.2) else none
  let starts := if tier = 0 then (List.range 128).map fun g => blockBase + g * blockSize else []
  (pool.1 :: (starts ++ ends)).find? fun a => ok a && slotOpen d tier size a pool

/-- Bytes of some slots, each counted once. -/
def bytesOfUses (us : List SlotUse) : Nat := (us.eraseDups.map (·.2.2)).foldl (· + ·) 0

/-- Whether the twin's shadow area holds `size` bytes and some further slots beside those that the own role names (R438). -/
def shadowTakes (d : Device) (us : List SlotUse) (size : Nat) : Bool :=
  match d.twin.peerHello with
  | some h =>
    if d.twin.mode = 1 && (d.twin.state = .syncing || d.twin.state = .paired) then
      bytesOfUses (roleUses d d.role ++ us) + size ≤ h.shadowSize
    else true
  | none => true

/-- Whether the twin's shadow area holds one more slot of `size` bytes. -/
def shadowHolds (d : Device) (size : Nat) : Bool := shadowTakes d [] size

/-- A free slot of a tier that `ok` admits, of firmware's own choice (notes/assumptions 13); none where no pool holds one, or
where the twin's shadow could not follow (R438). -/
def freeSlotIn (ok : Nat → Bool) (d : Device) (tier size : Nat) : Option Nat × Device :=
  if !d.onTaken && !shadowHolds d size then (none, d) else
  let ps := poolRanges d tier
  let t := takeFree d
  let n := ps.length
  let wish := (ps[t.1 % n]?).bind fun p =>
    let a := p.1 + 512 * (t.1 / n % (p.2 / 512))
    if ok a && slotOpen d tier size a p then some a else none
  match wish with
  | some a => (some a, t.2)
  | none => (ps.findSome? (firstFit ok d tier size), t.2)

/-- A free slot of a tier, anywhere in it. -/
def freeSlot (d : Device) (tier size : Nat) : Option Nat × Device := freeSlotIn (fun _ => true) d tier size

/-- A free slot that a step may read: block memory, where `pool` admits it (R238), or HBM, which first being firmware's
choice (R216). -/
def freeSlotAny (pool : Nat → Bool) (d : Device) (size : Nat) : Option (Nat × Nat) × Device :=
  let t := takeFree d
  let first := t.1 % 2
  let pick := fun (tier : Nat) (d : Device) => freeSlotIn (if tier = 0 then pool else fun _ => true) d tier size
  let a := pick first t.2
  match a.1 with
  | some x => (some (first, x), a.2)
  | none =>
    let b := pick (1 - first) a.2
    (b.1.map fun x => (1 - first, x), b.2)

/-- Whether an address lies in one of some ranges. -/
def inRanges (rs : List (Nat × Nat)) (a : Nat) : Bool := rs.any fun r => r.1 ≤ a && a < r.1 + r.2

/-- Granules of some pools of a tier, without those of withdrawn slots (R414). -/
def granulesOf (d : Device) (tier : Nat) (rs : List (Nat × Nat)) : Nat :=
  (rs.map (·.2 / 512)).foldl (· + ·) 0 - (if tier = 2 then 0 else (d.withdrawn.eraseDups.filter (inRanges rs)).length)

/-- Granules of a tier: total and used (R220). In SPLIT the shadow area is a pool of HBM too (R424). -/
def tierCounts (d : Device) (tier : Nat) : Nat × Nat :=
  let own := poolRanges { d with onTaken := false } tier
  let shadow := if tier = 1 && d.twin.taken.isSome then [shadowRange d] else []
  (granulesOf d tier (own ++ shadow), (((slotsUsed d).filter (·.1 = tier)).map (·.2.2 / 512)).foldl (· + ·) 0)

/-- Granules of the pools of a tier that the current role takes slots from: total and free (R214). -/
def poolCounts (d : Device) (tier : Nat) : Nat × Nat :=
  let rs := poolRanges d tier
  let used := (((slotsUsed d).filter fun u => u.1 = tier && inRanges rs u.2.1).map (·.2.2 / 512)).foldl (· + ·) 0
  (granulesOf d tier rs, granulesOf d tier rs - used)

/-! ### The tree's holders (R258, R259) -/

/-- Place of (layer, head) in a slot array (R253). -/
def arrayPlace (d : Device) (layer head : Nat) : Nat := layer * dirHeads d + head

/-- Whether a list names a page of a node as a shared entry, at the index of own page DEPTH behind `learned` pages of a learned
prefix (R251, R255). -/
def listHolds (d : Device) (learned : Nat) (l : PageList) (n : TreeNode) : Bool :=
  match n.slots[arrayPlace d l.key.layer l.key.head]?, l.entries[learned + n.depth]? with
  | some e, some x => x.shared && x.tier = e.tier && x.slot = e.slot
  | _, _ => false

/-- Nodes whose pages a request slot's main lists hold; the pages of a learned prefix hold no node (R258). -/
def nodesHeld (d : Device) (slot : Nat) : List Nat :=
  let ls := (listsOfSlot d slot).filter (·.key.dir = mainDir d)
  let learned := ((Tab.find d.role.reqs slot).map (·.lv)).getD 0 / 256
  (d.tree.filter fun n => ls.any fun l => listHolds d learned l n.2).map (·.1)

/-- Evict a node: out of its chain, its slots released, its parent one child fewer (R259). A chain is the tree's nodes
in index order of insertion, so a node that is gone is in no chain. -/
def evictNode (i : Nat) (d : Device) : Device :=
  match Tab.find d.tree i with
  | none => d
  | some n =>
    let t := Tab.drop d.tree i
    let t := t.map fun e => (e.1, if e.2.next = some i then { e.2 with next := n.next } else e.2)
    let t := match n.parent with
      | some p =>
        match Tab.find t p with
        | some q => Tab.put t p { q with children := q.children - 1 }
        | none => t
      | none => t
    { d with tree := t }

/-- A node loses a holder; one out of the index goes with its last holder (R258, R259). -/
def dropHolder (i : Nat) (d : Device) : Device :=
  match Tab.find d.tree i with
  | none => d
  | some n =>
    let n := { n with holders := n.holders - 1 }
    let d := { d with tree := Tab.put d.tree i n }
    if n.holders = 0 && !n.indexed then evictNode i d else d

/-- An edit of a request slot's lists, with the holders it takes from the tree. -/
def withHolders (slot : Nat) (f : Device → Device) (d : Device) : Device :=
  let before := nodesHeld d slot
  let d := f d
  let after := nodesHeld d slot
  (before.filter fun i => !after.contains i).foldl (fun d i => dropHolder i d) d

/-! ### Edits (R207 to R210) -/

/-- The current role's collection changed. -/
def updateCol (f : Collect → Collect) (d : Device) : Device := { d with role := { d.role with col := f d.role.col } }

/-- Add an item to the step log of this boundary (R54). -/
def logItem (kind aux handle a b : Nat) (d : Device) : Device :=
  updateCol (fun c => { c with items := c.items ++ [{ kind := kind, aux := aux, handle := handle, a := a, b := b }] }) d

/-- Log a TRUNCATE, DROP or SHARE (R210). -/
def logEdit (handle : Nat) (k : ListKey) (d : Device) : Device :=
  let d := logItem 0x07 0 handle (k.layer * 16 + k.head) d.role.col.edits d
  updateCol (fun c => { c with edits := c.edits + 1 }) d

/-- A list with one more generation. -/
def nextGen (l : PageList) : PageList := { l with gen := (l.gen + 1) % 2 ^ 32 }

/-- ALLOC by firmware: an entry at the end (R208); refused (none) where the array is full. -/
def editAlloc (l : PageList) (e : PageEntry) (d : Device) : Option Device :=
  if l.entries.length < l.cap then some (putList (nextGen { l with entries := l.entries ++ [e] }) d) else none

/-- TRUNCATE (R208): refused (none) where its condition fails. -/
def editTruncate (handle a : Nat) (k : ListKey) (d : Device) : Option Device :=
  let l := listAt d k
  if l.nshared * 256 ≤ a && a < l.npos then
    some (withHolders k.slot (fun d =>
      logEdit handle k (putList (nextGen { l with npos := a, entries := l.entries.take ((a + 255) / 256) }) d)) d)
  else none

/-- DROP (R208). -/
def editDrop (handle : Nat) (k : ListKey) (d : Device) : Device :=
  let l := listAt d k
  withHolders k.slot (fun d =>
    logEdit handle k (putList (nextGen { l with npos := 0, nshared := 0, entries := [] }) d)) d

/-- SHARE (R208); refused without effect where its condition fails. -/
def editShare (handle : Nat) (k : ListKey) (e : PageEntry) (d : Device) : Device :=
  let r := needList k (dimAt d k.layer k.head) d
  let l := r.1
  if l.entries.length = l.nshared && l.npos = 256 * l.entries.length && l.entries.length < l.cap then
    logEdit handle k (putList (nextGen { l with
      entries := l.entries ++ [{ e with shared := true }]
      nshared := l.nshared + 1
      npos := l.npos + 256 }) r.2)
  else r.2

/-- Whether a queued MOVE or REQUANT may apply (R208); firmware moves no shared page (R257). -/
def moveOk (l : PageList) (e : FwEdit) : Bool :=
  match l.entries[e.index]? with
  | none => false
  | some old =>
    l.gen = e.gen && !old.shared && !e.dest.shared && (if e.requant then !old.fp4 && e.dest.fp4 else e.dest.fp4 = old.fp4)

/-- A queued MOVE or REQUANT applies, or is discarded (R209); a REQUANT advances GEN and raises its flags (R208,
R215). -/
def applyFwEdit (e : FwEdit) (d : Device) : Device :=
  let l := listAt d e.key
  if !moveOk l e then d
  else
    let moved := { l with entries := l.entries.set e.index e.dest }
    let d := putList (if e.requant then nextGen moved else moved) d
    updateCol (fun c => { c with applied := c.applied ++ [e] })
      { d with errs := { d.errs with sticky := if e.requant then d.errs.sticky ||| e.flags else d.errs.sticky } }

/-- The edit record that 32 bytes spell (R207). -/
def parseEdit (bs : List Byte) : Edit :=
  { kind := field bs 0 1, rsvZero := field bs 1 1 = 0 && field bs 5 3 = 0 && field bs 28 4 = 0, layer := field bs 2 2,
    head := field bs 4 1, handle := field bs 8 4, a := field bs 12 4, entry := BitVec.ofNat 64 (field bs 16 8),
    b := field bs 24 4 }

/-- A host edit (R207, R360): TRUNCATE or DROP of a main list of the request; none where it is refused. -/
def hostEdit (slot : Nat) (e : Edit) (d : Device) : Option Device :=
  let k := mainKey d slot e.layer e.head
  if !e.rsvZero || e.entry ≠ 0#64 || e.b ≠ 0 || dirLayers d ≤ e.layer || dirHeads d ≤ e.head then none
  else if e.kind = 0x02 then editTruncate e.handle e.a k d
  else if e.kind = 0x04 && e.a = 0 then some (editDrop e.handle k d)
  else none

/-- Host edits in record order; none where one is refused (R209). -/
def hostEdits (slot : Nat) : List Edit → Device → Option Device
  | [], d => some d
  | e :: t, d => (hostEdit slot e d).bind (hostEdits slot t)

/-! ### Allocation (R208, R233) -/

/-- Give a list entries until it has `need` of them, in a format; none where no slot is free, or the array is full. `pool`
restricts new slots of block memory (R238). -/
def allocList (k : ListKey) (dh : Nat) (fp4 : Bool) (pool : Nat → Bool) (need : Nat) : Nat → Device → Option Device
  | 0, d => some d
  | fuel + 1, d =>
    let r := needList k dh d
    if need ≤ r.1.entries.length then some d
    else
      let s := freeSlotAny pool r.2 (slotBytes r.1.dh fp4)
      match s.1 with
      | none => none
      | some (tier, a) =>
        (editAlloc r.1 { slot := a, tier := tier, fp4 := fp4, shared := false } s.2).bind
          (allocList k dh fp4 pool need fuel)

end Sys2Proof.Machine
end

