-- ==== Sys2Proof/Machine/Shipping.lean ====
section
/-!
DEFINITION. Shipping the cache (R329 to R344): eligible pages, slot lists and credit, page images, delivery, outcomes.
-/
namespace Sys2Proof.Machine

/-- A request handle (R222). -/
def handleFor (slot gen : Nat) : Nat := gen * 2 ^ 14 + slot

/-! ### The exports of a role -/

/-- The exports of the role whose turn it is. -/
def shipsOf (d : Device) : List Shipping := d.role.ships

/-- The exports replaced. -/
def setShips (ss : List Shipping) (d : Device) : Device := { d with role := { d.role with ships := ss } }

/-- One export changed, found by its handle. -/
def updateShip (handle : Nat) (f : Shipping → Shipping) (d : Device) : Device :=
  setShips ((shipsOf d).map fun s => if s.handle = handle then f s else s) d

/-- The export of a handle. -/
def shipOf (d : Device) (handle : Nat) : Option Shipping := (shipsOf d).find? (·.handle = handle)

/-! ### Outcomes (R339, R340) -/

/-- Export status and completion code of an outcome. -/
def endCodes : ExportEnd → Nat × Nat
  | .delivered => (0x0, codeOk)
  | .stopped => (0x1, codeCancelled)
  | .transport => (0x2, codeStepFault)
  | .generation => (0x3, codeStepFault)
  | .credit => (0x4, codeStepFault)

/-- Whether a page has started and is not delivered. -/
def underWay (p : ExportPage) : Bool := p.seq.isSome && 0 < p.chunksLeft

/-- Write the export completion (R339, R366): KIND 2 with the pages delivered. A mirror and a shadow export nothing; they
learn from the other twin's records what has completed (R417, R421). -/
def closeShip (s : Shipping) (e : ExportEnd) (d : Device) : Device :=
  if mirrors d || shadowing d then d else
  let c := endCodes e
  let d := updateShip s.handle (fun s => { s with closed := true }) d
  let d := { d with errs := { d.errs with
    exportFailed := if c.2 = codeStepFault then satAdd 20 d.errs.exportFailed 1 else d.errs.exportFailed } }
  complete s.cq.val c.2 0x20 2 c.1 s.handle s.tag d.job.number s.delivered d

/-- Close an export whose outcome is settled: every eligible page delivered after the cut, or a failure with no page
under way. -/
def checkShip (handle : Nat) (d : Device) : Device :=
  match shipOf d handle with
  | none => d
  | some s =>
    if s.closed then d
    else
      match s.failure with
      | some e => if s.pages.any underWay then d else closeShip s e d
      | none => if s.cut && s.pages.all (fun p => p.seq.isSome && p.chunksLeft = 0) then closeShip s .delivered d else d

/-- The chunks of a page of a list's generation, by sequence number (R338). -/
def isPageChunk (list gen seq : Nat) (t : TxChunk) : Bool :=
  t.chunk.ftype = 0x20 && t.chunk.entry = list && t.chunk.gen = gen && t.chunk.step = seq

/-- An event that ends an export (R340): the first one decides. Pages not started are not shipped; a re-installed list
abandons the started ones. -/
def failShip (handle : Nat) (e : ExportEnd) (d : Device) : Device :=
  match shipOf d handle with
  | none => d
  | some s =>
    if s.closed || s.failure.isSome then d
    else
      let gone := if e = .generation then s.pages.filter underWay else []
      let keep := if e = .generation then [] else s.pages.filter underWay
      let d := updateShip handle (fun s => { s with failure := some e, pages := keep }) d
      checkShip handle (dropChunks (fun c => gone.any fun p => isPageChunk s.list s.gen (p.seq.getD 0) c) d)

/-- A page of an export has ended: delivered (its chunks left are 0), or lost with its transport. -/
def dropPage (handle seq : Nat) (deliveredOne : Bool) (d : Device) : Device :=
  let d := updateShip handle (fun s => { s with
    pages := if deliveredOne then s.pages.map fun p => if p.seq = some seq then { p with chunksLeft := 0 } else p
      else s.pages.filter fun p => p.seq ≠ some seq
    delivered := s.delivered + (if deliveredOne then 1 else 0) }) d
  let d := { d with errs := { d.errs with
    delivered := if deliveredOne then satAdd 32 d.errs.delivered 1 else d.errs.delivered } }
  checkShip handle d

/-! ### Starting a page (R333, R335 to R338) -/

/-- The order of R335. -/
def pageBefore (a b : Nat × ExportPage) : Bool :=
  let ka := [a.2.since, a.1, a.2.index, a.2.key.layer, a.2.key.head]
  let kb := [b.2.since, b.1, b.2.index, b.2.key.layer, b.2.key.head]
  decide (ka < kb)

/-- The eligible pages that have not started, with their handles; a page waits for action 6 of the boundary that made it eligible
(R17, R330). -/
def waitingPages (d : Device) : List (Nat × ExportPage) :=
  ((shipsOf d).filter fun s => !s.closed && s.failure.isNone).flatMap fun s =>
    (s.pages.filter fun p => p.seq.isNone && p.since < d.job.number).map fun p => (s.handle, p)

/-- The next page to start (R335). -/
def nextPage (d : Device) : Option (Nat × ExportPage) :=
  (waitingPages d).foldl (fun best p =>
    match best with
    | none => some p
    | some b => if pageBefore p b then some p else some b) none

/-- The four areas of a slot: where each starts and the bytes of a place in it (R190). -/
def slotAreas (dh : Nat) (fp4 : Bool) : List (Nat × Nat) :=
  let e := partBytes dh fp4
  let s := dh / 32
  [(0, e), (256 * e, e), (512 * e, s), (512 * e + 256 * s, s)]

/-- The page image (R337). -/
def pageImage (s : Shipping) (p : ExportPage) (dh seq : Nat) (final : Bool) (slot : List Byte) : List Byte :=
  let head := bytesOfNat 8 s.stream.toNat ++ bytesOfNat 2 p.key.layer ++ bytesOfNat 1 p.key.head ++
    bytesOfNat 1 (if p.entry.fp4 then 0x15 else 0x13) ++ bytesOfNat 4 p.index ++ bytesOfNat 4 (256 * p.index) ++
    bytesOfNat 2 p.count ++ bytesOfNat 2 dh ++ bytesOfNat 8 seq ++
    bytesOfNat 4 (ofBit final + 2 * ofBit p.entry.shared) ++ bytesOfNat 4 (if final then s.started + 1 else 0) ++
    bytesOfNat 20 0
  head ++ bytesOfNat 4 (crc32c (head ++ slot)) ++ slot

/-- Bytes of a slot in device memory or the host spill area, with what the read found (R450). -/
def readSlot (e : PageEntry) (n : Nat) (d : Device) : List Byte × List MemEvent × Device :=
  if e.tier = 2 then (readBytes d.mem.spill e.slot n, [], d) else unitRead e.slot n d

/-- The slot of a page as its image holds it: the places below `count` of every area, and 0 at and above it, which are never
read (R17, R337). -/
def readPlaces (e : PageEntry) (dh count : Nat) (d : Device) : List Byte × List MemEvent × Device :=
  (slotAreas dh e.fp4).foldl (fun acc a =>
    let r := readSlot { e with slot := e.slot + a.1 } (count * a.2) acc.2.2
    (acc.1 ++ r.1 ++ List.replicate ((256 - count) * a.2) 0#8, acc.2.1 ++ r.2.1, r.2.2)) ([], [], d)

/-- What an export or a copy reports of a slot: corrected words, and a lost slot (R450, R414). -/
def copyEvents (es : List MemEvent) (d : Device) : Device :=
  eachEvent (fun w st d => noteLost w (noteUncorrectable w 2 st d)) es d

/-- EXPORT_PAGE_START (R333, R335): the next eligible page starts once its sequence number is below the list's credit and
fewer than 512 pages are under way. -/
def devExportPageStart (d : Device) : Device :=
  if !serving d || mirrors d then d
  else
    match nextPage d with
    | none => d
    | some (handle, p) =>
      match shipOf d handle with
      | none => d
      | some s =>
        match Tab.find d.fab.slotLists s.list with
        | none => d
        | some l =>
          let busy := ((shipsOf d).flatMap fun s => s.pages.filter underWay).length
          if l.gen ≠ s.gen || l.credit ≤ l.seq || 512 ≤ busy then d
          else
            let dh := (listAt d p.key).dh
            let dh := if dh = 0 then dimAt d p.key.layer p.key.head else dh
            let r := readPlaces p.entry dh p.count d
            let d := copyEvents r.2.1 r.2.2
            if anyUncorrectable r.2.1 then failShip handle .transport d
            else
              let seq := l.seq
              let left := (s.pages.filter fun q => q.seq.isNone).length
              let image := pageImage s p dh seq (s.cut && left = 1) r.1
              let cs := pieces chunkSize (image.length / chunkSize + 1) image
              let d := { d with fab := { d.fab with
                slotLists := Tab.put d.fab.slotLists s.list { l with seq := seq + 1 } } }
              let d := updateShip handle (fun s => { s with
                started := s.started + 1
                pages := s.pages.map fun q => if q = p then { q with seq := some seq, chunksLeft := cs.length } else q }) d
              serve <| (cs.zip (List.range cs.length)).foldl (fun d c =>
                sendChunk ((seq + c.2) % 8)
                  { dst := l.node, ftype := 0x20, vc := 2, gen := l.gen, group := 0, rank := 0, entry := s.list, flags := 0#7,
                    step := seq, piece := 0, index := c.2, phase := 0, agree := 0#64, bytes := c.1 } d) d

/-- EXPORT_PAGE_START. -/
def execExportPageStart (s : State) (found : Found := []) : Host.Outcome State Fault Refusal :=
  lift (ownTurn devExportPageStart ∘ noteFound found) s

/-! ### Credit (R334, R340) -/

/-- EXPORT_CREDIT (R334): applied only from the list's node, for its generation, and upward; a copy of an applied credit is
acknowledged (R298), any other counted as stale. -/
def devExportCredit (pin : ParticleIn) (d : Device) : Device :=
  if !fabricRuns d then d
  else
    receiveParticle typeCredit pin
      (fun d p => match Tab.find d.fab.slotLists p.status with
        | some l => pin.frame.src = l.node && p.gen = l.gen && l.credit < p.step
        | none => false)
      (fun p d => match Tab.find d.fab.slotLists p.status with
        | some l => { d with fab := { d.fab with slotLists := Tab.put d.fab.slotLists p.status { l with credit := p.step } } }
        | none => d) d

/-- EXPORT_CREDIT. -/
def execExportCredit (p : ParticleIn) (s : State) : Host.Outcome State Fault Refusal := lift (devExportCredit p) s

/-- Whether a page of an export waits for credit. -/
def waitsForCredit (d : Device) (s : Shipping) : Bool :=
  s.pages.any (fun p => p.seq.isNone) &&
    (match Tab.find d.fab.slotLists s.list with
     | some l => decide (l.credit ≤ l.seq)
     | none => true)

/-- CREDIT_WAIT_TIMEOUT (R340). -/
def devCreditWaitTimeout (handle : Nat) (d : Device) : Device :=
  match shipOf d handle with
  | none => d
  | some s => if fwRuns d && waitsForCredit d s then failShip handle .credit d else d

/-- CREDIT_WAIT_TIMEOUT. -/
def execCreditWaitTimeout (handle : Nat) (s : State) : Host.Outcome State Fault Refusal :=
  lift (ownTurn (devCreditWaitTimeout handle)) s

/-! ### Answers to EXPORT_DATA (R338, R339) -/

/-- The export whose page a sequence number of a list's generation names, started and not delivered. -/
def shipBySeq (d : Device) (list gen seq : Nat) : Option Shipping :=
  (shipsOf d).find? fun s => s.list = list && s.gen = gen && s.pages.any fun p => p.seq = some seq && underWay p

/-- Whether an answer names the current generation of its list and a page under way (R338). -/
def exportAnswerOk (d : Device) (f : Frame) : Bool :=
  (match Tab.find d.fab.slotLists f.entry with
   | some l => l.gen = f.gen
   | none => false) && (shipBySeq d f.entry f.gen f.step).isSome

/-- One chunk of a page acknowledged; the last one delivers the page (R339). -/
def exportAcked (list gen seq : Nat) (d : Device) : Device :=
  match shipBySeq d list gen seq with
  | none => d
  | some s =>
    let left := ((s.pages.find? fun p => p.seq = some seq).map (·.chunksLeft)).getD 0
    if left ≤ 1 then dropPage s.handle seq true d
    else
      updateShip s.handle (fun s => { s with
        pages := s.pages.map fun p => if p.seq = some seq then { p with chunksLeft := p.chunksLeft - 1 } else p }) d

/-- A chunk of a page fails (R340): its page is lost and its export fails once the others have finished. -/
def exportChunkFailed (list gen seq : Nat) (d : Device) : Device :=
  let d := dropChunks (isPageChunk list gen seq) d
  match shipBySeq d list gen seq with
  | none => d
  | some s =>
    let d := failShip s.handle .transport d
    dropPage s.handle seq false d

/-! ### Eligible pages (R329 to R331) -/

/-- Make a page eligible with a COUNT, unless it already is or SKIP_SHARED skips it (R330, R335). -/
def addPage (since : Nat) (key : ListKey) (index count : Nat) (entry : PageEntry) (s : Shipping) : Shipping :=
  let known := s.pages.any fun p => p.key = key && p.index = index
  if s.closed || s.failure.isSome || known || (s.skipShared && entry.shared) then s
  else { s with pages := s.pages ++
    [{ since := since, key := key, index := index, entry := entry, count := count, seq := none, chunksLeft := 0 }] }

/-- EXPORT_SLOTS installs a slot list (R332): a new generation, sequence 0, the initial credit; exports of the old
generation fail, and those that wait for a list that was not installed before ship under its first one. A credit of the list that
arrives from then on is judged anew, also where an equal one was applied to an installation before (R334). -/
def installList (n : Nat) (l : SlotList) (d : Device) : Device :=
  let first := (Tab.find d.fab.slotLists n).isNone
  let d := { d with fab := { d.fab with
    slotLists := Tab.put d.fab.slotLists n l
    seen := d.fab.seen.filter fun p => p.2.type ≠ typeCredit || p.2.status ≠ n } }
  if first then setShips ((shipsOf d).map fun s => if s.list = n && !s.closed then { s with gen := l.gen } else s) d
  else
    ((shipsOf d).filter fun s => s.list = n && !s.closed && s.gen ≠ l.gen).foldl (fun d s => failShip s.handle .generation d) d

/-- Whether a page of a list is eligible and not delivered: firmware leaves it where it is (R331). -/
def pagePinned (d : Device) (key : ListKey) (index : Nat) : Bool :=
  (shipsOf d).any fun s => !s.closed && s.pages.any fun p =>
    p.key = key && p.index = index && (p.seq.isNone || 0 < p.chunksLeft)

end Sys2Proof.Machine
end

