-- ==== Sys2Proof/Machine/Requests.lean ====
section
/-!
DEFINITION. Requests (R222 to R245, R359, R360, R535): records, admission and lookup (R229, R230, R251, R255),
cancellation, pause, resume, priority and the edits it carries.
-/
namespace Sys2Proof.Machine

/-! ### The request table (R222 to R226) -/

/-- The current handle of a request. -/
def handleOfReq (q : Request) : Nat := handleFor q.slot q.gen

/-- The generation of a slot (R223). -/
def slotGen (d : Device) (slot : Nat) : Nat := Tab.getD d.role.slotGen slot 1

/-- The request that a handle names, if it is current (R224). -/
def reqOf (d : Device) (handle : Nat) : Option Request :=
  match Tab.find d.role.reqs (handle % 2 ^ 14) with
  | some q => if handleOfReq q = handle then some q else none
  | none => none

/-- A request stored. -/
def setReq (q : Request) (d : Device) : Device := { d with role := { d.role with reqs := Tab.put d.role.reqs q.slot q } }

/-- The lowest FREE slot. -/
def freeReqSlot (d : Device) : Option Nat :=
  (List.range (min 16384 (d.role.reqs.length + 1))).find? fun s => (Tab.find d.role.reqs s).isNone

/-- Requests in ascending slot order. -/
def sortedReqs (d : Device) : List Request :=
  let rec ins (q : Request) : List Request → List Request
    | [] => [q]
    | x :: t => if handleOfReq q ≤ handleOfReq x then q :: x :: t else x :: ins q t
  (d.role.reqs.map (·.2)).foldr ins []

/-- Code of a state (R226). -/
def stateCode : ReqState → Nat
  | .queued => 1 | .prefill => 2 | .decode => 3 | .pausing => 4 | .paused => 5 | .draining => 6

/-- W: the own length (R226). -/
def ownLength (q : Request) : Nat := if q.tokensOut = 0 then q.promptLen else q.promptLen + q.tokensOut - 1

/-- The 64 bytes of a request record (R225). -/
def recordBytes (q : Request) : List Byte :=
  bytesOfNat 4 (handleOfReq q) ++ bytesOfNat 1 (stateCode q.state + 16 * ofBit q.prefillOnly) ++
    bytesOfNat 1 q.priority ++
    bytesOfNat 2 (q.variant + 2 ^ 12 * ofBit q.late + 2 ^ 13 * ofBit q.exporting + 2 ^ 14 * ofBit q.fwPause +
      2 ^ 15 * ofBit q.resumePend) ++
    bytesOfNat 8 q.deadline ++ bytesOfNat 8 q.admitStep ++ bytesOfNat 4 q.promptLen ++ bytesOfNat 4 q.npos ++
    bytesOfNat 8 q.seed.toNat ++ bytesOfNat 4 q.tokensOut ++ bytesOfNat 4 q.maxNew ++ bytesOfNat 8 q.stateAddr ++
    bytesOfNat 8 q.lastStep

/-- The 128-byte parameter block of a request's sampler state (R268): the block of its REQ_SUBMIT, with STREAM, OUT_ADDR and
OUT_LEN in bytes 40 to 59 as firmware copied it (R359). -/
def samplerBytes (q : Request) : List Byte :=
  let s := q.sampler
  bytesOfNat 4 s.invTemp.toNat ++ bytesOfNat 4 s.topP.toNat ++
    bytesOfNat 2 (s.topK + 2 ^ 11 * ofBit s.countPrompt + 2 ^ 12 * ofBit s.coupled) ++
    bytesOfNat 1 (s.dmax + 16 * s.dmin) ++ bytesOfNat 1 s.depth ++ bytesOfNat 4 s.rep.toNat ++
    bytesOfNat 4 s.freq.toNat ++ bytesOfNat 4 s.pres.toNat ++ bytesOfNat 4 s.rngPos ++ bytesOfNat 4 0 ++
    bytesOfNat 4 s.drafted ++ bytesOfNat 4 s.accepted ++ bytesOfNat 8 q.stream.toNat ++ bytesOfNat 8 q.outAddr.toNat ++
    bytesOfNat 4 q.outLen ++ bytesOfNat 4 0 ++
    padTo 32 (s.stops.flatMap fun t => bytesOfNat 4 t.toNat) ++ bytesOfNat 32 0

/-- Sampler state and count table (R268). -/
def samplerState (d : Device) (q : Request) : List Byte :=
  let v := vmax d
  samplerBytes q ++ padTo (roundUp (2 * v) 64) ((List.range v).flatMap fun x => bytesOfNat 2 (Tab.getD q.sampler.counts x 0))

/-- A sample point that draws for the draft model: the parsed sentence tells it by its DRAFT_OUT (R265, R269). -/
def hasDraft (d : Device) : Bool := ((d.loaded.sentence.map (·.samples)).getD []).any (·.draftOut ≠ 0)

/-! ### The submit (R229, R269, R358, R359) -/

/-- Whether FP32 bits are finite. -/
def finiteBits (v : Nat) : Bool := bitsOf v 23 8 ≠ 255

/-- The sampler state of a parameter block; none where it breaks R268 or R359. -/
def parseParams (bs : List Byte) : Option Sampler :=
  let it := field bs 0 4
  let tp := field bs 4 4
  let w := field bs 8 2
  let dm := field bs 10 1
  let rep := field bs 12 4
  let freq := field bs 16 4
  let pres := field bs 20 4
  let ok := it < 0x7F800000 && 0 < tp && tp ≤ 0x3F800000 && bitsOf w 0 11 ≤ 1024 && w < 2 ^ 13 && dm % 16 ≤ 8 &&
    dm / 16 ≤ dm % 16 && field bs 11 1 = 0 && 0 < rep && rep < 0x7F800000 && finiteBits freq && finiteBits pres &&
    field bs 24 4 = 0 && field bs 28 4 = 0 && field bs 32 4 = 0 && field bs 36 4 = 0 && field bs 60 4 = 0 &&
    allZero (slice bs 96 32) && bs.length = 128
  whenOk ok {
    invTemp := BitVec.ofNat 32 it, topP := BitVec.ofNat 32 tp, topK := bitsOf w 0 11, countPrompt := bitOf w 11,
    coupled := bitOf w 12, dmax := dm % 16, dmin := dm / 16, depth := dm % 16, rep := BitVec.ofNat 32 rep,
    freq := BitVec.ofNat 32 freq, pres := BitVec.ofNat 32 pres, rngPos := 0, drafted := 0, accepted := 0,
    stops := words32 (slice bs 64 32), counts := [] }

/-- The size of an output row: SIZE of the OUTPUT plan entry (R364, R359). -/
def outputRow (d : Device) : Nat :=
  ((((d.loaded.sentence.map (·.plan)).getD []).find? (·.kind = 0x0B)).map (·.size)).getD 0

/-- The request that a REQ_SUBMIT describes, for a slot; none where the descriptor breaks a rule (R250, R269, R359, R425). -/
def parseSubmit (f : Fetched) (slot : Nat) (d : Device) : Option Request := do
  let prompt ← f.blockA
  let block ← f.blockB
  let s ← parseParams block
  let x := f.desc
  let len := descField x 24 0 32
  let kind := descField x 45 0 4
  let outLen := field block 56 4
  let maxNew := descField x 28 0 32
  let pre := kind = 1
  let variant := descField x 42 0 12
  let exporting := descField x 42 12 1 = 1
  let ok := d.loaded.sentence.isSome && 1 ≤ len && len ≤ 0xFFFFFFFE && kind ≤ 1 && descField x 41 6 2 = 0 &&
    descField x 42 14 2 = 0 && descField x 45 4 4 = 0 && descField x 46 0 16 = 0 && descField x 54 0 16 = 0 &&
    prompt.length = 4 * len && (Tab.find d.role.variants variant).isSome && (s.dmax = 0 || hasDraft d) &&
    (if pre then maxNew = 0 && outLen ≤ outputRow d else maxNew ≠ 0 && outLen = 0) &&
    !(d.onTaken && !shadowing d && exporting)
  whenOk ok {
    slot := slot, gen := slotGen d slot, state := .queued, prefillOnly := pre, priority := descField x 40 0 8,
    variant := variant, late := false, exporting := exporting, fwPause := false, resumePend := false,
    deadline := descField x 48 0 48, admitStep := d.job.number, promptLen := len, npos := 0,
    seed := BitVec.ofNat 64 (descField x 56 0 64), tokensOut := 0, maxNew := maxNew, stateAddr := 0, promptAt := 0,
    tokensAt := 0, lastStep := 0,
    sampler := { s with rngPos := len }, prompt := words32 prompt, released := [], cq := fin64 (cqOf f),
    tq := fin64 (descField x 41 0 6), tag := tagOf f, slotList := descField x 44 0 8,
    skipShared := descField x 42 13 1 = 1, stream := wordOf (slice block 40 8), outAddr := wordOf (slice block 48 8),
    outLen := outLen, placedEver := false, goalReleased := false, finished := false, draftNpos := 0,
    heldResumes := [], variantEpoch := ((Tab.find d.role.variants variant).map (·.epoch)).getD 0,
    lv := ((Tab.find d.role.variants variant).map (·.lv)).getD 0, counted := 0 }

/-- The parts of a request's state get addresses of firmware's choice in the work area (R534). -/
def houseRequest (q : Request) (d : Device) : Option (Request × Device) := do
  let used := workUsed d
  let x := takeFree d
  let a ← workPlace d used 64 (stateSize d) x.1
  let used := (a, stateSize d) :: used
  let y := takeFree x.2
  let b ← workPlace d used 4 (4 * q.promptLen) y.1
  let z := takeFree y.2
  let c ← workPlace d ((b, 4 * q.promptLen) :: used) 4 (4 * q.maxNew) z.1
  some ({ q with stateAddr := a, promptAt := b, tokensAt := c }, z.2)

/-- The main lists of a request with their entry arrays; none where one finds no place. -/
def houseLists (q : Request) (d : Device) : Option Device :=
  let d := (mainKeys d q.slot).foldl (fun d k => let r := needList k (dimAt d k.layer k.head) d; putList r.1 r.2)
    (unhouseLists q.slot d)
  whenOk ((mainKeys d q.slot).all fun k => entriesNeeded d q.slot ≤ (listAt d k).cap) d

/-- A request in the table, its state and the entry arrays of its main lists at addresses of the work area; none where the area
cannot hold them (R229, R534). -/
def admitRequest (q : Request) (d : Device) : Option Device := do
  let h ← houseRequest q d
  houseLists h.1 (setReq h.1 h.2)

/-- Whether the work area holds one more request (R229, R534; firmware's own bookkeeping is counted as 0,
notes/assumptions 15). -/
def workHolds (d : Device) (q : Request) : Bool := (admitRequest q d).isSome

/-! ### Learned prefix and tree lookup (R251, R252, R255) -/

/-- The SHARE edits of learned-prefix pages from page `first` on of one list, in page order (R251). -/
def learnedShares (handle : Nat) (k : ListKey) (pages : List PageEntry) (first : Nat) : List Share :=
  (pages.drop first).map fun e => { handle := handle, key := k, entry := e, tree := false, bytes := [] }

/-- The SHARE edits of the learned prefix to every list of a request (R251). DESIGN CHOICE (notes/assumptions 113): they go list by
list in directory order, in page order within a list; the manual does not order the lists. -/
def placeShares (q : Request) (d : Device) : List Share :=
  match Tab.find d.role.variants q.variant with
  | none => []
  | some v =>
    let ps := dirPlaces d
    (ps.zip (List.range ps.length)).flatMap fun p =>
      learnedShares (handleOfReq q) (mainKey d q.slot p.1.1 p.1.2) (v.pages.getD p.2 []) 0

/-- SHARE edits put behind the descriptor edits of the boundary (R209, R230). -/
def queueShares (ss : List Share) (d : Device) : Device := updateCol (fun c => { c with shares := c.shares ++ ss }) d

/-- One SHARE edit applied; the tree's are kept for the twin's record (R417). -/
def applyShare (s : Share) (d : Device) : Device :=
  let d := editShare s.handle s.key s.entry d
  if s.tree then updateCol (fun c => { c with shared := c.shared ++ [s] }) d else d

/-- The root key (R252). -/
def rootKey (d : Device) : List Byte := (shake256 16 d.loaded.initial).take 16

/-- Tokens of own page j (R252). -/
def pageTokens (q : Request) (j : Nat) : List Byte :=
  ((q.prompt.drop (256 * j)).take 256).flatMap fun t => bytesOfNat 4 t.toNat

/-- The page key K(j) (R252). -/
def pageKey (d : Device) (q : Request) : Nat → List Byte
  | 0 => shake256 16 (rootKey d ++ bytesOfNat 2 q.variant ++ pageTokens q 0)
  | j + 1 => shake256 16 (pageKey d q j ++ bytesOfNat 2 q.variant ++ pageTokens q (j + 1))

/-- The indexed node of a key. -/
def findNode (d : Device) (key : Nat) : Option (Nat × TreeNode) := d.tree.find? fun n => n.2.indexed && n.2.key = key

/-- The lookup of R255 from page j on. It ends before a page that the twin's shadow could not hold (R438; notes/assumptions 114). -/
def lookupFrom (q : Request) (limit : Nat) : Nat → Nat → Device → Device
  | 0, _, d => d
  | fuel + 1, j, d =>
    if limit ≤ j then d
    else
      match findNode d (natOfBytes (pageKey d q j)) with
      | none => d
      | some (i, n) =>
        if !shadowTakes d (dirUses d (n.slots.map fun e => [e])) 0 then d else
        let ps := dirPlaces d
        let d := queueShares ((ps.zip n.slots).map fun p => ({
          handle := handleOfReq q, key := mainKey d q.slot p.1.1 p.1.2, entry := p.2, tree := true, bytes := [] } : Share)) d
        let d := { d with
          tree := Tab.put d.tree i { n with holders := n.holders + 1, lastStep := d.job.number }
          stats := { d.stats with treeHits := satAdd 32 d.stats.treeHits 1 } }
        lookupFrom q limit fuel (j + 1) d

/-- MAX_NODES (R263). -/
def maxNodes (d : Device) : Nat := regField d .cfgPrefixCtl 0 23

/-- The lookup of a placed request; the tree serves the own role alone (R424). On the shadow, the pages that the twin's tree
gave are those of its BOUNDARY record (R417). -/
def lookupPrefix (q : Request) (d : Device) : Device :=
  if shadowing d then
    queueShares ((d.role.col.shared.filter fun s => s.handle = handleOfReq q).map fun s => { s with tree := false }) d
  else if maxNodes d = 0 || d.onTaken then d
  else
    let limit := (q.promptLen - 1) / 256
    lookupFrom q limit limit 0 d

/-- NPOS of the record: the least number of own positions over the main lists (R225, R535). -/
def ownNpos (d : Device) (q : Request) : Nat :=
  let lv := q.lv
  match (mainKeys d q.slot).map fun k => (listAt d k).npos - lv with
  | [] => 0
  | x :: t => t.foldl min x

/-- The waiting SHARE edits of a request that ends go unapplied (R209, R243): they follow the descriptor edits, and its lists
are gone by then. A node whose pages they name loses the holder that the lookup counted (R258). -/
def dropWaiting (handle : Nat) (d : Device) : Device :=
  let mine := d.role.col.shares.filter fun s => s.handle = handle
  let named := fun (n : TreeNode) =>
    mine.any fun s => s.tree && n.slots.any fun e => e.tier = s.entry.tier && e.slot = s.entry.slot
  let nodes := (d.tree.filter fun n => named n.2).map (·.1)
  nodes.foldl (fun d i => dropHolder i d)
    (updateCol (fun c => { c with shares := c.shares.filter fun s => s.handle ≠ handle }) d)

/-- Penalty counts after the prompt tokens below own position `n` that have not been counted yet (R273). -/
def countPrompt (vm n : Nat) (q : Request) : Request :=
  let hi := min n q.promptLen
  if hi ≤ q.counted then q
  else
    let ts := (q.prompt.drop q.counted).take (hi - q.counted)
    { q with
      counted := hi
      sampler := if q.sampler.countPrompt then { q.sampler with counts := ts.foldl (addCount vm) q.sampler.counts } else q.sampler }
where
  /-- One more of a token below Vmax; counts stop at 65,535. -/
  addCount (vm : Nat) (t : Tab Nat) (x : BitVec 32) : Tab Nat :=
    if x.toNat < vm then Tab.put t x.toNat (min 65535 (Tab.getD t x.toNat 0 + 1)) else t

/-- The waiting SHARE edits of every request, in the order in which they were queued, and the records that follow
(R209, R225). DESIGN CHOICE (notes/assumptions 113): the prompt tokens of the pages that a lookup hit shares enter the counts of R273
here, when the edits apply; the manual says only that they count as if computed. -/
def settleAllShares (d : Device) : Device :=
  let ss := d.role.col.shares
  let d := ss.foldl (fun d s => applyShare s d) (updateCol (fun c => { c with shares := [] }) d)
  (ss.map (·.handle)).eraseDups.foldl (fun d h =>
    match reqOf d h with
    | some q =>
      let n := ownNpos d q
      setReq { countPrompt (vmax d) n q with npos := n, lastStep := if q.npos < n then d.job.number else q.lastStep } d
    | none => d) d

/-- A request takes a slot (R229): its record, and the SHARE edits of its learned prefix and of the tree's pages. -/
def placeRequest (q : Request) (d : Device) : Device :=
  let d := (admitRequest q d).getD (setReq q d)
  let q := (Tab.find d.role.reqs q.slot).getD q
  lookupPrefix q (queueShares (placeShares q d) d)

/-- The export of a request that asks for one (R329). -/
def startShipping (q : Request) (d : Device) : Device :=
  if !q.exporting then d
  else
    let gen := ((Tab.find d.fab.slotLists q.slotList).map (·.gen)).getD 0
    setShips (shipsOf d ++ [{
      handle := handleOfReq q, cq := q.cq, tag := q.tag, list := q.slotList, gen := gen, stream := q.stream,
      skipShared := q.skipShared, cut := false, pages := [], started := 0, delivered := 0, failure := none,
      closed := false, settled := false }]) d

/-- The DESCRIPTOR item of a descriptor that names a request, or none (R54, R228). -/
def logNamed (handle : Nat) (f : Fetched) (d : Device) : Device :=
  logItem 0x03 f.ring.val handle f.index (opcodeOf f) d

/-- Log a descriptor that takes effect (R54, R228). A REQ_SUBMIT that takes no slot names no request. -/
def logDesc (f : Fetched) (d : Device) : Device :=
  logNamed (if opcodeOf f = 0x10 then 0 else handleOf f) f d

/-- Complete a descriptor at this boundary. -/
def finishDesc (f : Fetched) (code handle : Nat) (d : Device) : Device := completeDesc f code handle d.job.number 0 d

/-- Try to place a submit (R229): done (placed or refused), or no room. DESIGN CHOICE (notes/assumptions 128): a held submit is judged
by the state at its placement, its variant too (R250). -/
def trySubmit (f : Fetched) (d : Device) : Option Device :=
  match parseSubmit f 0 d with
  | none => some (finishDesc f codeBad 0 (logDesc f d))
  | some _ =>
    match freeReqSlot d with
    | none => none
    | some slot =>
      match parseSubmit f slot d with
      | none => none
      | some q =>
        if !workHolds d q then none
        else
          let d := startShipping q (placeRequest q (logNamed (handleOfReq q) f d))
          let d := updateCol (fun c => { c with submitted := c.submitted ++ [handleOfReq q] }) d
          some (finishDesc f codeOk (handleOfReq q) d)

/-- Held submits tried in the order in which they were first admitted; one that this boundary has held waits for the next
(R229). -/
def tryHeld (d : Device) : Device :=
  let held := d.role.held
  let keep := fun (h : HeldSubmit) (d : Device) => { d with role := { d.role with held := d.role.held ++ [h] } }
  held.foldl (fun d h => if h.waited = 0 then keep h d else (trySubmit h.fetched d).getD (keep h d))
    { d with role := { d.role with held := [] } }

/-- ADMIT_WAIT expires for held submits (R229): those that were tried at that many boundaries after the one that held them
complete with NO_SLOT. -/
def expireHeld (d : Device) : Device :=
  let wait := schedAdmitWait d
  let late := d.role.held.filter fun h => wait < h.waited
  let d := { d with role := { d.role with held := d.role.held.filter fun h => h.waited ≤ wait } }
  late.foldl (fun d h => finishDesc h.fetched codeNoSlot 0 (logDesc h.fetched d)) d

/-- A submit that cannot be placed now is held for `waited` boundaries already tried; where none may be held it completes with
NO_SLOT (R229). -/
def holdSubmit (f : Fetched) (waited : Nat) (d : Device) : Device :=
  if schedAdmitWait d = 0 || 4096 ≤ d.role.held.length then finishDesc f codeNoSlot 0 (logDesc f d)
  else { d with role := { d.role with held := d.role.held ++ [{ fetched := f, waited := waited }] } }

/-- REQ_SUBMIT at action 4 (R229): the submits that earlier boundaries held come first. -/
def applySubmit (f : Fetched) (d : Device) : Device :=
  let d := tryHeld d
  (trySubmit f d).getD (holdSubmit f 0 d)

/-- REQ_SUBMIT in replay (R55): the log holds a submit at the boundary that placed or refused it (R229), so one whose item
names no request is refused here, and one whose item names a request takes its slot here, at the latest when the finished
requests have left theirs. -/
def replaySubmit (handle : Nat) (f : Fetched) (d : Device) : Device :=
  if handle = 0 then finishDesc f (if (parseSubmit f 0 d).isNone then codeBad else codeNoSlot) 0 (logDesc f d)
  else (trySubmit f d).getD { d with role := { d.role with held := d.role.held ++ [{ fetched := f, waited := 1 }] } }

/-! ### Freeing (R242 to R244) -/

/-- Drop every list of a request (R243): its main lists in directory order, then its draft lists. -/
def dropLists (q : Request) (d : Device) : Device :=
  let drafts := ((listsOfSlot d q.slot).filter (·.key.dir ≠ mainDir d)).map (·.key)
  (mainKeys d q.slot ++ drafts).foldl (fun d k => editDrop (handleOfReq q) k d) d

/-- A slot becomes FREE and its generation advances (R223). A held REQ_RESUME completes with CANCELLED (R242). -/
def freeRequest (q : Request) (d : Device) : Device :=
  let d := dropLists q (dropWaiting (handleOfReq q) d)
  let g := if q.gen = 0x3FFFF then 1 else q.gen + 1
  let d := { d with role := { d.role with
    reqs := Tab.drop d.role.reqs q.slot
    slotGen := Tab.put d.role.slotGen q.slot g } }
  let d := updateCol (fun c => { c with freed := c.freed ++ [handleOfReq q] }) d
  q.heldResumes.foldl (fun d f => finishDesc f codeCancelled (handleOf f) d) d

/-- End a request as a cancellation does (R243). -/
def cancelRequest (q : Request) (d : Device) : Device :=
  failShip (handleOfReq q) .stopped (freeRequest q d)

/-- REQ_CANCEL (R240, R243). -/
def applyCancel (f : Fetched) (d : Device) : Device :=
  let d := logDesc f d
  match reqOf d (handleOf f) with
  | none => finishDesc f codeOk (handleOf f) d
  | some q => finishDesc f codeCancelled (handleOf f) (cancelRequest q d)

/-! ### Pause and resume (R239 to R242) -/

/-- A pause of a request by the host or by firmware (R227). -/
def pauseRequest (q : Request) (fw : Bool) (d : Device) : Device :=
  let st := match q.state with
    | .queued => ReqState.paused
    | .prefill | .decode => .pausing
    | s => s
  setReq { q with state := st, fwPause := fw } d

/-- REQ_PAUSE (R240). -/
def applyPause (f : Fetched) (d : Device) : Device :=
  let d := logDesc f d
  match reqOf d (handleOf f) with
  | none => finishDesc f codeBad (handleOf f) d
  | some q =>
    if q.state = .draining then finishDesc f codeOk (handleOf f) d
    else finishDesc f codePaused (handleOf f) (pauseRequest q false d)

/-- The state that a resume gives (R227). -/
def resumedState (q : Request) : ReqState :=
  if !q.placedEver then .queued else if q.npos < ownLength q then .prefill else .decode

/-- A resume: the item, the state, the marks cleared (R242). -/
def resumeRequest (q : Request) (d : Device) : Device :=
  let d := logItem 0x06 0 (handleOfReq q) 0 0 d
  setReq { q with state := resumedState q, fwPause := false, resumePend := false, heldResumes := [] } d

/-! ### Priority and host edits (R235, R360, R535) -/

/-- The learned prefix given again to one list that host edits left with fewer than Lv positions (R535 item 1); a list whose
first SHARE edits still wait has lost none. -/
def restorePrefix (q : Request) (v : Variant) (place : Nat) (k : ListKey) (d : Device) : Device :=
  let n := (listAt d k).npos
  let waits := d.role.col.shares.any fun s => s.handle = handleOfReq q && s.key = k
  if q.lv ≤ n || waits then d
  else (learnedShares (handleOfReq q) k ((v.pages.getD place []).take (q.lv / 256)) (n / 256)).foldl
    (fun d s => applyShare s d) d

/-- Recomputation after host edits (R535); the edits stop an export (R340). A request in DRAINING state keeps it. -/
def recompute (q : Request) (d : Device) : Device :=
  let ps := dirPlaces d
  let d := match Tab.find d.role.variants q.variant with
    | none => d
    | some v => (ps.zip (List.range ps.length)).foldl (fun d p =>
        restorePrefix q v p.2 (mainKey d q.slot p.1.1 p.1.2) d) d
  let npos := ownNpos d q
  let back := npos < ownLength q && (q.state = .queued || q.state = .prefill || q.state = .decode)
  failShip (handleOfReq q) .stopped (setReq { q with npos := npos, state := if back then .prefill else q.state } d)

/-- The edits of a REQ_PRIORITY; none where the block is missing. -/
def priorityEdits (f : Fetched) : Option (List Edit) :=
  let n := descField f.desc 40 0 9
  if n = 0 then some []
  else f.blockA.bind fun bs =>
    if bs.length = 32 * n then some ((pieces 32 n bs).map parseEdit) else none

/-- The payload of a REQ_PRIORITY keeps its rules (R6, R358). -/
def priorityOk (x : BitVec 512) : Bool :=
  descField x 17 2 6 = 0 && descField x 18 0 48 = 0 && descField x 30 0 16 = 0 && descField x 40 9 23 = 0 &&
    descField x 44 0 160 = 0 && descField x 40 0 9 ≤ 256 && (descField x 40 0 9 ≠ 0 || descField x 32 0 64 = 0)

/-- Priority and deadline of a descriptor; a deadline of 0 or above n clears LATE (R235). -/
def withPriority (x : BitVec 512) (n : Nat) (q : Request) : Request :=
  let q := if descField x 17 0 1 = 1 then { q with priority := descField x 16 0 8 } else q
  if descField x 17 1 1 = 1 then
    let dl := descField x 24 0 48
    { q with deadline := dl, late := if dl = 0 || n < dl then false else q.late }
  else q

/-- REQ_PRIORITY (R235, R360): the edits right after the changes; one refused edit refuses the descriptor. -/
def applyPriority (f : Fetched) (d : Device) : Device :=
  let d := logDesc f d
  match reqOf d (handleOf f), priorityEdits f with
  | some q, some es =>
    if !priorityOk f.desc || es.any (fun e => e.handle ≠ handleOf f) then finishDesc f codeBad (handleOf f) d
    else
      match hostEdits q.slot es (setReq (withPriority f.desc d.job.number q) d) with
      | none => finishDesc f codeBad (handleOf f) d
      | some e =>
        let e := if es.isEmpty then e else
          match reqOf e (handleOf f) with
          | some q => recompute q e
          | none => e
        finishDesc f codeOk (handleOf f) e
  | _, _ => finishDesc f codeBad (handleOf f) d

end Sys2Proof.Machine
end

