-- ==== Sys2Proof/Machine/Layout.lean ====
section
/-!
DEFINITION. Which rows each clause of the sentence runs (R184, R238, R251, R275 to R277): the part of a model that a clause
belongs to, and the chunks of rows that a composition gives that part.
-/
namespace Sys2Proof.Machine

/-! ### The loaded sentence -/

/-- The clauses of the loaded sentence. -/
def clausesOf (d : Device) : List Clause := (d.loaded.sentence.map (·.clauses)).getD []

/-- The plan map of the loaded sentence. -/
def planOf (d : Device) : List PlanEntry := (d.loaded.sentence.map (·.plan)).getD []

/-- The sample points of the loaded sentence. -/
def pointsOf (d : Device) : List SamplePoint := (d.loaded.sentence.map (·.samples)).getD []

/-- The sample points, numbered: those of the main model, or those of the draft iterations in order (R265). -/
def pointsWith (d : Device) (draft : Bool) : List Nat :=
  let ps := pointsOf d
  ((List.range ps.length).zip ps).filterMap fun p => if decide (p.2.draftOut ≠ 0) = draft then some p.1 else none

/-- The addresses of the page-list sets that clauses name: BASE of a paged operand, ADDR of a page-scatter (R199, R203). -/
def setAddrs (cs : List Clause) : List Nat :=
  (cs.flatMap (·.ops)).flatMap fun o =>
    (([o.a, o.b, o.c].filter (·.paged)).map (·.base)) ++ (o.epi.filter (·.kind = 0x18)).map (·.addr)

/-- The page-list set at an address (R197). -/
def plannedSet (d : Device) (a : Nat) : Option PageSet := setAt a (peekBytes d.mem a 64)

/-- The page-list sets that the loaded sentence names, as memory holds them. -/
def namedSets (d : Device) : List PageSet := (setAddrs (clausesOf d)).filterMap (plannedSet d)

/-- Bytes of the plan areas of a kind that serve a clause (R364); none where the plan map has no such area. -/
def areaSize (d : Device) (kind clause : Nat) : Option Nat :=
  let ps := (planOf d).filter fun p => p.kind = kind && p.index = clause
  whenOk (!ps.isEmpty) ((ps.map (·.size)).foldl (· + ·) 0)

/-- Whether an operation's tiles are row groups (R173). -/
def isRowGroup (o : OpDesc) : Bool := o.kind = .softmax || o.kind = .recomp || o.kind = .softgrad

/-- Whether an operation reads column positions: DISTBIAS, or ROTATE of B (R139, R156, R169). -/
def readsCols (o : OpDesc) : Bool := o.epi.any (·.kind = 0x14) || o.pro.any fun m => m.target = 1 && m.kind = 0x04

/-- Whether an operation reads row positions: ROTATE of A, DISTBIAS, PAGESCATTER, or pad rows of a row group (R139, R156, R167,
R169, R204). -/
def readsRows (o : OpDesc) : Bool :=
  isRowGroup o || o.epi.any (fun m => m.kind = 0x14 || m.kind = 0x18) || o.pro.any fun m => m.target = 0 && m.kind = 0x04

/-- Whether a clause is a slot for attention work (R184): it has an operand of pages, or it normalises scores. -/
def isSlot (c : Clause) : Bool := c.ops.any fun o => o.b.paged || isRowGroup o

/-- The product of the step that wrote the scores at A: the last one at or before the clause with C there (R179, R183). -/
def scoreProduct (d : Device) (clause : Nat) (x : OpDesc) : Option OpDesc :=
  (((clausesOf d).take (clause + 1)).flatMap fun c => c.ops.filter fun o =>
    (o.kind = .matmul || o.kind = .dot) && o.c.base = x.a.base && !o.noc).getLast?

/-- The paged product whose OUTER numbers the operations of a slot have: one of the clause, or in the spilled form the product
that wrote the scores (R183, R200). -/
def slotProduct (d : Device) (i : Nat) (c : Clause) : Option OpDesc :=
  match c.ops.find? (·.b.paged) with
  | some o => some o
  | none => ((c.ops.find? isRowGroup).bind (scoreProduct d i)).filter (·.b.paged)

/-- The page-list set of a slot. -/
def slotSet (d : Device) (i : Nat) (c : Clause) : Option PageSet := (slotProduct d i c).bind fun o => plannedSet d o.b.base

/-- Whether a slot has the decode-side form, in which the memory-side units run the products (R186, R238). -/
def dotForm (d : Device) (i : Nat) (c : Clause) : Bool := (slotProduct d i c).any (·.kind = .dot)

/-! ### Parts of the models (R275, R276) -/

/-- What a clause works for: the main model, the prefill of the draft model, or a draft iteration. -/
inductive ModelPart where
  | main
  | prefill
  | iteration (k : Nat)
  deriving DecidableEq, Repr

/-- The directories that a clause's paged operands and page-scatter slots name. -/
def dirsOf (d : Device) (c : Clause) : List Nat := (setAddrs [c]).filterMap fun a => (plannedSet d a).map (·.dir)

/-- The model that clause `j` shows by itself: draft where it names draft lists or ends at a DRAFT sample point, main where it
names main lists or ends at another point. -/
def modelShown (d : Device) (j : Nat) : Option Bool :=
  let dirs := (((clausesOf d)[j]?).map (dirsOf d)).getD []
  let ps := (pointsOf d).filter (·.clause = j)
  if dirs.any (· ≠ mainDir d) then some true
  else if !dirs.isEmpty then some false
  else if ps.isEmpty then none else some (ps.any (·.draftOut ≠ 0))

/-- Whether a clause belongs to the draft model: as the first clause from it on shows, else as the last before it does. DEDUCED
(notes/assumptions 2). -/
def draftClause (d : Device) (i : Nat) : Bool :=
  let n := (clausesOf d).length
  (((List.range (n - i)).findSome? fun k => modelShown d (i + k)).or
    ((List.range i).reverse.findSome? (modelShown d))).getD false

/-- The iteration that a clause is of: the groups are the runs of DECODE clauses of the draft model that end at the DRAFT points
(R275). -/
def iterationOf (d : Device) (i : Nat) : Option Nat :=
  let cs := clausesOf d
  let ends := (pointsWith d true).filterMap fun p => ((pointsOf d)[p]?).map (·.clause)
  (List.range ends.length).findSome? fun k => (ends[k]?).bind fun e =>
    whenOk (i ≤ e && (List.range (e + 1 - i)).all fun j =>
      (cs[i + j]?).any (·.cls = .decode) && draftClause d (i + j) && (i + j = e || !ends.contains (i + j))) (k + 1)

/-- The part that a clause works for. -/
def partOf (d : Device) (i : Nat) : ModelPart :=
  match iterationOf d i with
  | some k => .iteration k
  | none => if draftClause d i then .prefill else .main

/-- Whether the draft model's prefill has clauses of its own that append to its lists; else it runs in the clauses of the first
iteration (R275, R276). -/
def prefillHome (d : Device) : Bool :=
  (List.range (clausesOf d).length).any fun i => partOf d i = .prefill &&
    ((clausesOf d)[i]?).any fun c => c.ops.any fun o => o.epi.any (·.kind = 0x18)

/-! ### Chunks of rows -/

/-- The handle of a placement. -/
def placedHandle : Placement → Nat
  | .prefill h _ _ => h
  | .draftPrefill h _ _ => h
  | .decode h _ _ => h

/-- The slot of a placement's request. -/
def placedSlot (p : Placement) : Nat := placedHandle p % 2 ^ 14

/-- Positions that a placement appends to a main list of its request (R277). -/
def appended : Placement → Nat
  | .prefill _ _ c => c
  | .draftPrefill _ _ _ => 0
  | .decode _ _ depth => 1 + depth

/-- The depth of a decode placement; 0 for the others. -/
def depthPart : Placement → Nat
  | .decode _ _ depth => depth
  | _ => 0

/-- Rows of one request that run together in a part: the part, the handle, the first position and how many, and whether they are
of a decode placement. -/
structure RowChunk where
  part : ModelPart
  handle : Nat
  first : Nat
  count : Nat
  decode : Bool
  deriving DecidableEq, Repr

/-- The request slot of a chunk. -/
def RowChunk.slot (x : RowChunk) : Nat := x.handle % 2 ^ 14

/-- The positions of a chunk's rows. -/
def RowChunk.positions (x : RowChunk) : List Nat := (List.range x.count).map (x.first + ·)

/-- The first position and the count of what a placement appends to main lists: they count the learned prefix (R139, R251,
R277). -/
def mainRange (d : Device) (p : Placement) : Nat × Nat :=
  let lv := ((reqOf d (placedHandle p)).map (·.lv)).getD 0
  match p with
  | .prefill _ first c => (lv + first, c)
  | .draftPrefill _ _ _ => (0, 0)
  | .decode _ pos depth => (lv + pos, 1 + depth)

/-- The own tokens that draft iteration `k` runs for a decode placement (R275): the first those that the draft lists lack, at most
x0 and the token before it; a later one x(k - 1). -/
def iterationRange (npos pos depth k : Nat) : Nat × Nat :=
  if depth < k then (0, 0)
  else if k = 1 then (max npos (pos - 1), pos + 1 - max npos (pos - 1))
  else (pos + k - 1, 1)

/-- The rows that a placement has in a part of a model (R251, R275, R276, R277). -/
def rowsIn (d : Device) (part : ModelPart) (p : Placement) : List RowChunk :=
  let q := reqOf d (placedHandle p)
  let drafts := decide (((q.map (·.sampler.dmax)).getD 0) ≠ 0)
  let rows := fun (r : Nat × Nat) (decode : Bool) =>
    if r.2 = 0 then [] else
      [({ part := part, handle := placedHandle p, first := r.1, count := r.2, decode := decode } : RowChunk)]
  match part, p with
  | .main, .draftPrefill _ _ _ => []
  | .main, .prefill _ _ _ => rows (mainRange d p) false
  | .main, .decode _ _ _ => rows (mainRange d p) true
  | .prefill, .decode _ _ _ => []
  | .prefill, .prefill _ first c => if drafts then rows (first, c) false else []
  | .prefill, .draftPrefill _ first c => if drafts then rows (first, c) false else []
  | .iteration k, .decode _ pos depth =>
    if drafts then rows (iterationRange ((q.map (·.draftNpos)).getD 0) pos depth k) true else []
  | .iteration _, _ => []

/-- The rows of a composition that the clauses of a part run. -/
def partRows (d : Device) (part : ModelPart) (placed : List Placement) : List RowChunk :=
  placed.flatMap fun p =>
    (if part = .prefill && !prefillHome d then [] else rowsIn d part p) ++
      (if part = .iteration 1 && !prefillHome d then rowsIn d .prefill p else [])

/-- Whether rows run in a clause of a pool class (R238): with a decode pool, decode rows of the main model in DECODE clauses and
its other rows in PREFILL clauses; without one, all of them in PREFILL clauses. A SHARED clause runs both, and so do the clauses
of the draft model. The decode-side form is for decode rows with a decode pool, and a SHARED slot of the other form for the rest. -/
def classRuns (d : Device) (i : Nat) (c : Clause) (x : RowChunk) : Bool :=
  x.part ≠ .main ||
    (let decodes := decide (d.poolD ≠ 0) && x.decode
     (match c.cls with
      | .shared => true
      | .prefill => !decodes
      | .decode => decodes) &&
      (!isSlot c || (c.cls = .prefill && !decodes) || dotForm d i c = decodes))

/-- The rows of a composition that a clause runs. -/
def clauseRows (d : Device) (i : Nat) (placed : List Placement) : List RowChunk :=
  ((clausesOf d)[i]?).toList.flatMap fun c => (partRows d (partOf d i) placed).filter (classRuns d i c)

/-- The own token index of a position of a chunk: an index of a main list counts the learned prefix (R251, R276). -/
def ownIndex (d : Device) (x : RowChunk) (pos : Nat) : Nat :=
  if x.part = .main then pos - ((reqOf d x.handle).map (·.lv)).getD 0 else pos

/-! ### Padding (R184, R186, R232) -/

/-- Whether the composition is by length table (R184, R234): always where CFG_SCHED says so, and in replay, which the steps of
self-test are (R499). The steps between SENTENCE_LOAD and the first work of a request hold no clause work. -/
def byTable (d : Device) : Bool := schedLengthTable d || d.hif.log.mode = 2

/-- The cost of a chunk in rows (R232); none where no bucket holds it (R363). Costs decide only where firmware's scheduler
composes, and for the draft chunks that follow from a logged composition: by CFG_SCHED, as in the recorded run. -/
def chunkCost (d : Device) (c : Nat) : Option Nat :=
  if schedLengthTable d then some c else ((d.loaded.sentence.map (·.buckets)).getD []).find? (c ≤ ·)

/-- The sizes that a chunk may be padded to (R184, R232): its exact length by length table; its bucket; for decode rows, whose cost
is their exact number, that number too. -/
def padSizes (d : Device) (x : RowChunk) : List Nat :=
  if byTable d then [x.count] else (if x.decode then [x.count] else []) ++ (chunkCost d x.count).toList

/-- The sizes that a pass of some chunks may have (R184): one size for all of them. In the decode-side form rows beyond a
request's own q are pad rows, up to the largest q of the pass (chapter 7, Decode attention beside the pages). -/
def passSizes (d : Device) (dot : Bool) (xs : List RowChunk) : List Nat :=
  let largest := (xs.map (·.count)).foldl max 0
  let all := if dot && !byTable d && xs.all (·.decode) then [largest] else []
  ((xs.head?.map (padSizes d)).getD [] ++ all).filter fun s => all.contains s || xs.all fun x => (padSizes d x).contains s

end Sys2Proof.Machine
end

