-- ==== Sys2Proof/Machine/Schedule.lean ====
section
/-!
DEFINITION. What firmware decides (R212, R214, R231 to R242, R257, R276, R280): the placement order, the composition of
a step, pools, late pauses, resumes of firmware pauses, insertion into the tree.
-/
namespace Sys2Proof.Machine

/-! ### The placement order (R231) -/

/-- Tokens that a GENERATE request may still draw. -/
def tokensLeft (q : Request) : Nat := q.maxNew - q.tokensOut

/-- Whether a request is a candidate (R231). -/
def isCandidate (q : Request) : Bool :=
  match q.state with
  | .queued | .prefill => true
  | .decode => !q.prefillOnly && 0 < tokensLeft q && !q.finished
  | _ => false

/-- The keys of R231, smallest first. -/
def orderKey (q : Request) : List Nat :=
  [255 - q.priority, ofBit (!q.late), if q.deadline ≠ 0 && !q.goalReleased then q.deadline else 2 ^ 48, q.admitStep,
   handleOfReq q]

/-- Insertion into a list sorted by R231. -/
def insertOrder (q : Request) : List Request → List Request
  | [] => [q]
  | x :: t => if decide (orderKey q ≤ orderKey x) then q :: x :: t else x :: insertOrder q t

/-- Requests in placement order (R231). -/
def placementOrder (qs : List Request) : List Request := qs.foldr insertOrder []

/-- The candidates in placement order. -/
def candidates (d : Device) : List Request := placementOrder ((d.role.reqs.map (·.2)).filter isCandidate)

/-! ### Pages for a placement (R203, R212, R216, R233, R276) -/

/-- Whether every page of a request may be read by a step (R216). -/
def readable (d : Device) (q : Request) : Bool := (listsOfSlot d q.slot).all fun l => l.entries.all (·.tier ≠ 2)

/-- Whether an append at the request's visible end writes no slot that something else names (R212). -/
def appendReady (d : Device) (q : Request) : Bool :=
  (listsOfSlot d q.slot).all fun l =>
    if l.npos % 256 = 0 then true
    else
      match l.entries[l.npos / 256]? with
      | some e => e.shared || refCount d e.tier e.slot ≤ 1
      | none => true

/-- The page-scatter slots of the loaded sentence (R160, R203). -/
def scatterSlots (d : Device) : List Modifier :=
  let ops := ((d.loaded.sentence.map (·.clauses)).getD []).flatMap (·.ops)
  ops.flatMap fun o => o.epi.filter (·.kind = 0x18)

/-- The page-list sets that the sentence's page-scatter slots name, with the format of new pages (R203): those that the last
step's plan left in their plan areas (R364). -/
def scatterSets (d : Device) : List (Bool × PageSet) :=
  (scatterSlots d).filterMap fun m =>
    (setAt m.addr (peekBytes d.mem m.addr 64)).map fun s => (decide (m.fmt = 0x15), s)

/-- Whether a set covers a list. -/
def covers (s : PageSet) (k : ListKey) : Bool :=
  s.dir = k.dir && s.layer = k.layer && s.head0 ≤ k.head && k.head < s.head0 + s.nheads

/-- Head dimension and format of new pages of a list. -/
def newPages (d : Device) (sets : List (Bool × PageSet)) (k : ListKey) : Nat × Bool :=
  match sets.find? (fun s => covers s.2 k) with
  | some (fp4, s) => (s.dh, fp4)
  | none => (dimAt d k.layer k.head, false)

/-- The blocks whose memory new slots of a request may lie in (R238): with a decode pool, a request in DECODE state takes
them from that pool's blocks. -/
def slotPool (d : Device) (q : Request) (a : Nat) : Bool :=
  q.state ≠ .decode || d.poolD = 0 || 16 - d.poolD ≤ blockOf a % 16

/-- Give lists the entries for `n` positions; none where slots are missing. -/
def allocLists (pool : Nat → Bool) (sets : List (Bool × PageSet)) (ks : List ListKey) (n : Nat) (d : Device) : Option Device :=
  let need := (n + 255) / 256
  ks.foldl (fun acc k => acc.bind fun d =>
    let f := newPages d sets k
    allocList k f.1 f.2 pool need need d) (some d)

/-- The draft lists of a request: those of the sets in other directories than the main one (R275, R276). -/
def draftKeys (d : Device) (sets : List (Bool × PageSet)) (slot : Nat) : List ListKey :=
  ((sets.filter fun s => s.2.dir ≠ mainDir d).flatMap fun s =>
    (List.range s.2.nheads).map fun h =>
      ({ dir := s.2.dir, slot := slot, layer := s.2.layer, head := s.2.head0 + h } : ListKey)).eraseDups

/-- The lists of a request that a placement appends to, with the positions that each comes to hold: the main lists own tokens
below `n` behind the learned prefix, the draft lists own tokens below `m` (R276). -/
def listNeeds (d : Device) (q : Request) (n m : Nat) : List (ListKey × Nat) :=
  (mainKeys d q.slot).map (·, q.lv + n) ++
    (if q.sampler.dmax = 0 then [] else (draftKeys d (scatterSets d) q.slot).map (·, m))

/-- Whether pages can be given (R203): every page-scatter slot's set is known. -/
def setsKnown (d : Device) : Bool := (scatterSets d).length = (scatterSlots d).length

/-- ALLOC edits for a placement (R208, R233); none where a slot is missing, or the sets are not known. A sentence without
page-scatter appends no position, and its requests take no page (notes/assumptions 12). -/
def allocFor (q : Request) (n m : Nat) (d : Device) : Option Device :=
  let sets := scatterSets d
  if (scatterSlots d).isEmpty then some d
  else if !setsKnown d then none
  else (listNeeds d q n m).foldl (fun acc k => acc.bind (allocLists (slotPool d q) sets [k.1] k.2)) (some d)

/-- Whether the lists hold the entries of a placement already. -/
def pagesHeld (q : Request) (n m : Nat) (d : Device) : Bool :=
  (scatterSlots d).isEmpty ||
    (setsKnown d && (listNeeds d q n m).all fun k => (k.2 + 255) / 256 ≤ (listAt d k.1).entries.length)

/-! ### Composition (R232 to R234, R276, R280) -/

/-- A composition in progress: what is placed, the rows left, the device with the pages it takes, and whether it may give
pages: ALLOC edits apply at action 4 alone (R195, R209). -/
structure Draft where
  dev : Device
  placed : List Placement
  budget : Nat
  gives : Bool
  deriving DecidableEq, Repr

/-- The device with the entries of a placement; none where they are missing. -/
def pagesFor (q : Request) (n m : Nat) (x : Draft) : Option Device :=
  if x.gives then allocFor q n m x.dev else whenOk (pagesHeld q n m x.dev) x.dev

/-- Chunk lengths that R233 allows, largest first: `want` itself, then multiples of 256. -/
def chunkLengths (want : Nat) : List Nat :=
  want :: ((List.range ((want - 1) / 256)).map fun k => 256 * (k + 1)).reverse

/-- The draft depth of a decode placement (R280). -/
def depthOf (q : Request) : Nat := min q.sampler.depth (tokensLeft q - 1)

/-! #### What the plan areas hold (R182, R233, R364) -/

/-- Entries that the sample lists of the main model need: a FIRST entry where a GENERATE request's prompt ends before its
first token, VERIFY entries for every row of a decode (R266, R272, R277). -/
def mainEntries (d : Device) : Placement → Nat
  | .prefill h first c => match reqOf d h with
    | some q => ofBit (!q.prefillOnly && q.tokensOut = 0 && first + c = ownLength q)
    | none => 0
  | .draftPrefill _ _ _ => 0
  | .decode _ _ depth => 1 + depth

/-- Entries that the list area of a sample point holds (R265, R364); none where the plan map has no area for it. -/
def listEntries (d : Device) (point : Nat) : Option Nat :=
  (((d.loaded.sentence.map (·.plan)).getD []).find? fun p => p.kind = 0x0A && p.index = point).map fun p => (p.size - 16) / 16

/-- Whether the sample lists hold the entries of a composition (R266, R275, R277, R364). -/
def samplesHold (d : Device) (placed : List Placement) : Bool :=
  let main := (pointsWith d false).map (listEntries d)
  let drafts := (pointsWith d true).map (listEntries d)
  let need := (placed.map (mainEntries d)).foldl (· + ·) 0
  (main.any (·.isNone) || need ≤ (main.map (·.getD 0)).foldl (· + ·) 0) &&
    (drafts.zip (List.range drafts.length)).all fun p =>
      p.1.all fun n => (placed.filter fun x => p.2 < depthPart x).length ≤ n

/-- Rows that a placement costs (R232). -/
def rowsOfPlaced (d : Device) : Placement → Nat
  | .prefill _ _ c | .draftPrefill _ _ c => (chunkCost d c).getD c
  | .decode _ _ depth => 1 + depth

/-- Bytes that a row of a score pass takes: B_row (R182). -/
def rowBytesOf (o : OpDesc) : Nat :=
  let pitch := (loopOf o.loops .m).strideA.natAbs
  4 * pitch + 8 + (if o.c.fmt.scaled then pitch / 8 else 0)

/-- An attention slot as one pass (R182 to R184): its clause and part, the layer and heads of its lists and what its operations do
with them, its pool class and form, the pitch of its scores and B_row, the N bound where it is constant, whether it has column
position words and key-count words, and how many page-list sets it names. -/
structure Pass where
  clause : Nat
  part : ModelPart
  layer : Nat
  head0 : Nat
  heads : Nat
  uses : List Nat
  cls : PoolClass
  dot : Bool
  pitch : Option Nat
  rowBytes : Nat
  keyBound : Option Nat
  cols : Bool
  lens : Bool
  sets : Nat
  deriving DecidableEq, Repr

/-- What the operations of a slot do with pages and scores: 0 reads K, 1 reads V, 2 normalises. -/
def workUses (c : Clause) : List Nat :=
  (c.ops.filter fun o => o.b.paged || isRowGroup o).map fun o => if isRowGroup o then 2 else ofBit (bitOf o.b.scaleBase 0)

/-- The operation of a slot whose columns are keys: the one that normalises, or else the score product. -/
def scoreOp (c : Clause) : Option OpDesc :=
  (c.ops.find? isRowGroup).or (c.ops.find? fun o => o.b.paged && !bitOf o.b.scaleBase 1)

/-- The pitch P of the scores of a slot: the row stride of A of the operation that normalises, or that of C of the score product. -/
def scorePitch (o : OpDesc) : Nat :=
  if isRowGroup o then (loopOf o.loops .m).strideA.natAbs else (loopOf o.loops .m).strideC.natAbs

/-- Clause `i` as a pass, with the page-list set that memory holds. -/
def passOf (d : Device) (i : Nat) (c : Clause) : Pass :=
  let s := slotSet d i c
  { clause := i, part := partOf d i, layer := (s.map (·.layer)).getD 0, head0 := (s.map (·.head0)).getD 0
    heads := (s.map (·.nheads)).getD 1, uses := workUses c, cls := c.cls, dot := dotForm d i c
    pitch := (scoreOp c).map scorePitch, rowBytes := ((c.ops.find? isRowGroup).map rowBytesOf).getD 0
    keyBound := (scoreOp c).bind fun o => constBound (loopOf o.loops .n)
    cols := c.ops.any readsCols, lens := c.ops.any fun o => isRowGroup o && decide (o.b.scaleBase ≠ 0)
    sets := (setAddrs [c]).eraseDups.length }

/-- The passes of the sentence. -/
def passesOf (d : Device) : List Pass :=
  let cs := clausesOf d
  ((List.range cs.length).zip cs).filterMap fun c => if isSlot c.2 then some (passOf d c.1 c.2) else none

/-- Whether a pass is one for a chunk: of its part, and of a class and form that may run it with some pools, which follow from the
whole composition (R237, R238). -/
def passTakes (d : Device) (p : Pass) (x : RowChunk) : Bool :=
  (p.part = x.part || (p.part = .iteration 1 && x.part = .prefill && !prefillHome d)) &&
    (x.part ≠ .main || (if x.decode then p.cls ≠ .decode || p.dot else p.cls ≠ .decode && (p.cls = .prefill || !p.dot)))

/-- Whether a pass holds some chunks (R139, R179, R182, R184, R197, R233, R364): one size serves them all, the pitch holds the N
bound, and every area holds its words. A (token, KV head) pair is the 8 rows that R182 counts for it. -/
def passHolds (d : Device) (p : Pass) (xs : List RowChunk) : Bool :=
  let keys := (xs.map fun x => x.first + x.count).foldl max 0
  let bound := p.keyBound.getD keys
  let outer := p.heads * xs.length
  keys ≤ bound && p.pitch.all (bound ≤ ·) && (passSizes d p.dot xs).any fun size =>
    let rows := outer * (8 * size)
    [(0x03, 4 * rows), (0x04, if p.cols then 4 * (outer * bound) else 0), (0x05, 64 * p.sets + 4 * xs.length),
      (0x07, if p.lens then 4 * outer else 0), (0x08, 4 * xs.length), (0x09, rows * p.rowBytes)].all fun k =>
        (areaSize d k.1 p.clause).all (k.2 ≤ ·)

/-- A chunk put into the first pass that then still holds its chunks. DESIGN CHOICE (notes/assumptions 2): the manual does not say
how firmware chooses among the slots of a layer. -/
def intoPass (d : Device) (x : RowChunk) (ps : List (Pass × List RowChunk)) : Option (List (Pass × List RowChunk)) :=
  ((List.range ps.length).find? fun i => (ps[i]?).any fun p => passTakes d p.1 x && passHolds d p.1 (p.2 ++ [x])).bind fun i =>
    (ps[i]?).map fun p => ps.set i (p.1, p.2 ++ [x])

/-- Whether two passes serve lists of the same model, layer and heads. -/
def sameLists (a b : Pass) : Bool :=
  decide (a.part = .main) = decide (b.part = .main) && a.layer = b.layer && a.head0 = b.head0

/-- Whether the passes of every layer hold a composition, for each thing that they do (R182, R184, R233, R364). -/
def passesHold (d : Device) (placed : List Placement) : Bool :=
  let ps := passesOf d
  ps.all fun p => p.uses.all fun u =>
    let group := ps.filter fun y => sameLists p y && y.uses.contains u
    let rows := (((group.map (·.part)).eraseDups).flatMap fun t => partRows d t placed).eraseDups
    (rows.foldl (fun acc x => acc.bind (intoPass d x)) (some (group.map (·, [])))).isSome

/-- The rows of a chunk with its pad rows (R184, R232). -/
def paddedRows (d : Device) (x : RowChunk) : Nat := if x.decode then x.count else (chunkCost d x.count).getD x.count

/-- The rows that a clause runs in any case, whatever the pools come to be (R238). -/
def surelyRuns (c : Clause) (x : RowChunk) : Bool :=
  x.part ≠ .main || c.cls = .shared || (c.cls = .prefill && !x.decode)

/-- Whether the areas of the clauses that run whole steps hold a composition (R139, R197, R204, R364): row position words, row
maps, token identifiers, and the page-list sets of page-scatter. -/
def rowsHold (d : Device) (placed : List Placement) : Bool :=
  let cs := clausesOf d
  ((List.range cs.length).zip cs).all fun c => isSlot c.2 ||
    (let xs := (partRows d (partOf d c.1) placed).filter (surelyRuns c.2)
     let rows := (xs.map (paddedRows d)).foldl (· + ·) 0
     [(0x03, 4 * rows), (0x06, 4 * rows), (0x0C, 4 * rows),
       (0x05, 64 * (setAddrs [c.2]).eraseDups.length + 4 * ((xs.map (·.slot)).eraseDups).length)].all fun k =>
         (areaSize d k.1 c.1).all (k.2 ≤ ·))

/-- Whether the plan areas and the score budget hold a composition (R182, R233, R364): the sample lists, the words of the rows of
every clause, and the passes. -/
def planHolds (d : Device) (placed : List Placement) : Bool :=
  samplesHold d placed && rowsHold d placed && passesHold d placed

/-! #### Placements (R232, R233, R276) -/

/-- largest_chunk (R233) with the composition that places it; none where no chunk can be placed. -/
def largestChunk (q : Request) (want : Nat) (mk : Nat → Placement) (n m : Nat → Nat) (x : Draft) : Option Draft :=
  if want = 0 || !readable x.dev q || !appendReady x.dev q then none
  else
    (chunkLengths want).findSome? fun c =>
      match chunkCost x.dev c with
      | none => none
      | some cost =>
        let placed := x.placed ++ [mk c]
        if cost ≤ x.budget && planHolds x.dev placed then
          (pagesFor q (n c) (m c) x).map fun d => { x with dev := d, placed := placed, budget := x.budget - cost }
        else none

/-- The main chunk of a request (R232). -/
def placeChunk (q : Request) (limit : Option Nat) (x : Draft) : Option Draft :=
  let left := ownLength q - q.npos
  let want := match limit with
    | some l => if q.late then left else min left l
    | none => left
  let h := handleOfReq q
  largestChunk q want (fun c => .prefill h q.npos c) (fun c => q.npos + c)
    (fun c => q.npos + c) x

/-- Whether a composition has placed a request. -/
def placedIn (x : Draft) (q : Request) : Bool :=
  x.placed.any fun p => match p with
    | .prefill h _ _ | .decode h _ _ => h = handleOfReq q
    | .draftPrefill _ _ _ => false

/-- The draft chunk of a request whose draft lists lag behind its own positions (R276): alongside its main chunk, or alone
once no main chunk is left (notes/assumptions 101). -/
def placeDraftChunk (limit : Option Nat) (q : Request) (x : Draft) : Draft :=
  let behind := min q.npos q.promptLen
  let left := behind - q.draftNpos
  let want := match limit with
    | some l => if q.late then left else min left l
    | none => left
  if q.sampler.dmax = 0 || behind ≤ q.draftNpos || (q.state ≠ .decode && !placedIn x q) then x
  else
    (largestChunk q want (fun c => .draftPrefill (handleOfReq q) q.draftNpos c) (fun _ => q.npos)
      (fun c => q.draftNpos + c) x).getD x

/-- A decode placement (R232); its draft lists must hold every own prompt token (R276). -/
def placeDecode (q : Request) (x : Draft) : Option Draft :=
  let depth := depthOf q
  let rows := 1 + depth
  let placed := x.placed ++ [Placement.decode (handleOfReq q) q.npos depth]
  if rows ≤ x.budget && readable x.dev q && appendReady x.dev q && planHolds x.dev placed &&
      (q.sampler.dmax = 0 || q.promptLen ≤ q.draftNpos) then
    (pagesFor q (q.npos + rows) (q.npos + rows) x).map fun d =>
      { x with dev := d, placed := placed, budget := x.budget - rows }
  else none

/-- One candidate (R232): a candidate that cannot be placed is skipped. -/
def placeOne (limit : Option Nat) (q : Request) (x : Draft) : Option Draft :=
  if q.state = .decode then placeDecode q x else placeChunk q limit x

/-- The composition of candidates in order (R232). -/
def composeList (limit : Option Nat) (qs : List Request) (x : Draft) : Draft :=
  qs.foldl (fun x q => placeDraftChunk limit q ((placeOne limit q x).getD x)) x

/-- An empty composition. -/
def noDraft (gives : Bool) (d : Device) : Draft := { dev := d, placed := [], budget := schedBudget d, gives := gives }

/-- The composition of the next step from the state as it stands (R231, R232): at action 4 it gives the pages, and when the
step begins it finds them. -/
def composeNow (gives : Bool) (d : Device) : Draft :=
  composeList (some (schedChunkMax d)) (candidates d) (noDraft gives d)

/-! ### Pools (R236, R237) -/

/-- Rows times key count of a placement, decode and prefill apart (R237). -/
def poolWeight (d : Device) (p : Placement) : Nat × Nat :=
  match reqOf d (placedHandle p) with
  | none => (0, 0)
  | some q =>
    match p with
    | .decode _ pos depth => ((1 + depth) * (q.lv + pos + 1 + depth), 0)
    | .prefill _ first c => (0, (chunkCost d c).getD c * (q.lv + first + c))
    | .draftPrefill _ first c => (0, (chunkCost d c).getD c * (first + c))

/-- The target d* (R237). DESIGN CHOICE (notes/assumptions 110): with no placed work item 3 gives both 0 and 16, and 0 is taken. -/
def poolTarget (wd wp : Nat) : Nat :=
  if wd = 0 then 0
  else if wp = 0 then 16
  else min 15 (max 1 ((32 * wd + (wd + wp)) / (2 * (wd + wp))))

/-- The weights of the placed work of the device (R237, R424): that of a composition, and in SPLIT what the other role would be
given. -/
def poolWeights (d : Device) (ps : List Placement) : List (Nat × Nat) :=
  let other := if d.twin.taken.isNone then [] else
    let e := swapRoles d
    (composeNow false e).placed.map (poolWeight e)
  ps.map (poolWeight d) ++ other

/-- d of the step (R237): from the last step's towards the target by at most POOL_MOVE. -/
def poolCount (d : Device) (ps : List Placement) : Nat :=
  let w := schedPoolMove d
  if w = 0 then 0
  else
    let ws := poolWeights d ps
    let t := poolTarget ((ws.map (·.1)).foldl (· + ·) 0) ((ws.map (·.2)).foldl (· + ·) 0)
    if d.poolD ≤ t then min t (d.poolD + w) else max t (d.poolD - w)

/-- Active cells of the decode pool and of the prefill pool (R236, R54). -/
def poolCells (d : Device) (n : Nat) : Nat × Nat :=
  let sum := fun (p : Nat → Bool) =>
    ((List.range 128).map fun g => if p (g % 16) then blockCells d g else 0).foldl (· + ·) 0
  (sum fun b => 16 - n ≤ b, sum fun b => b < 16 - n)

/-- The item of a placement (R54); a draft chunk follows from the others and has none. -/
def placementItem : Placement → List LogItem
  | .prefill h first c => [{ kind := 0x01, aux := 0, handle := h, a := first, b := c }]
  | .draftPrefill _ _ _ => []
  | .decode h pos depth => [{ kind := 0x02, aux := 0, handle := h, a := pos, b := depth }]

/-- A composition becomes the step's: placements, pool split, items (R54, R236); both runs of a step in SPLIT have the split of
its beginning (notes/assumptions 110). DESIGN CHOICE: in a replayed step the POOL
item, which R55 keeps out of replay decisions, is the member's own pool split and not the logged one; the manual does not
say which of the two enters D(n) (notes/assumptions 99). -/
def adoptDraft (x : Draft) : Device :=
  let d := x.dev
  let n := if d.onTaken then d.poolD else poolCount d x.placed
  let cells := poolCells d n
  let items := x.placed.flatMap placementItem ++ [{ kind := 0x08, aux := 0, handle := 0, a := cells.2, b := cells.1 }]
  updateCol (fun c => { c with
    before := c.before ++ c.halts ++ c.items, halts := [], items := [], composed := items, placements := x.placed })
    { d with poolD := n, poolLast := if d.onTaken then d.poolLast else d.poolD }

/-! ### Replay (R55) -/

/-- An item of 16 bytes (R54). -/
def parseItem (bs : List Byte) : LogItem :=
  { kind := field bs 0 1, aux := field bs 2 2, handle := field bs 4 4, a := field bs 8 4, b := field bs 12 4 }

/-- The items of a log entry (R53). -/
def entryItems (e : List Byte) : List LogItem := (pieces 16 (field e 0 4) (e.drop 64)).map parseItem

/-- The first whole entry of the log bytes present (R371). -/
def wholeEntry (bs : List Byte) : Option (List Byte) :=
  let n := 64 + 16 * field bs 0 4
  if 64 ≤ bs.length && n ≤ bs.length then some (bs.take n) else none

/-- The step of a log entry (R53). -/
def entryStep (e : List Byte) : Nat := field e 8 6

/-- The log entry of a step: the next one in the bytes present, where it is that step's (R53, R55). -/
def entryOf (n : Nat) (bs : List Byte) : Option (List Byte) := (wholeEntry bs).filter fun e => entryStep e = n

/-- The leading DESCRIPTOR items of a log entry: those of the halt boundaries before its step (R411). -/
def leadingItems (items : List LogItem) : List LogItem := items.takeWhile fun i => i.kind = 0x03

/-- The items of a log entry from its step on. -/
def laterItems (items : List LogItem) : List LogItem := items.drop (leadingItems items).length

/-- Whether the boundary in progress follows a log entry. -/
def replaying (d : Device) : Bool := d.hif.log.mode = 2 && !d.bnd.entry.isEmpty

/-- The descriptors that a log entry names for its step's boundary (R55). -/
def boundaryItems (items : List LogItem) : List LogItem := (laterItems items).filter fun i => i.kind = 0x03

/-- The handle in the item of a descriptor that the entry of this boundary names. -/
def loggedHandle (d : Device) (f : Fetched) : Nat :=
  (((boundaryItems (entryItems d.bnd.entry)).find? fun i => i.aux = f.ring.val && i.a = f.index % 2 ^ 32).map (·.handle)).getD 0

/-- Whether the entry of this boundary has a RESUME item of a request; in normal service a resume takes effect as soon as it
may (R242). -/
def resumesNow (d : Device) (h : Nat) : Bool :=
  !replaying d || (laterItems (entryItems d.bnd.entry)).any fun i => i.kind = 0x06 && i.handle = h

/-- The entry that replay follows next, behind that of the boundary in progress (R55, R371). -/
def followingEntry (d : Device) : Option (List Byte) :=
  entryOf ((d.job.number + 1) % 2 ^ 48) (d.hif.log.bytes.drop d.bnd.entry.length)

/-- The placement that an item names (R54). -/
def itemPlacement (i : LogItem) : Option Placement :=
  if i.kind = 0x01 then some (.prefill i.handle i.a i.b)
  else if i.kind = 0x02 then some (.decode i.handle i.a (i.b % 16)) else none

/-- The own tokens that the lists of a request come to hold by an item's placement; its draft lists get the same pages (R275). -/
def itemNeeds (i : LogItem) : Nat := if i.kind = 0x01 then i.a + i.b else i.a + 1 + i.b % 16

/-- The placements that a log entry names (R55), with their pages where they may be given; draft chunks follow by rule. -/
def replayDraft (gives : Bool) (items : List LogItem) (d : Device) : Draft :=
  items.foldl (fun x i =>
    match reqOf x.dev i.handle, itemPlacement i with
    | some q, some p =>
      let n := itemNeeds i
      placeDraftChunk (some (schedChunkMax d)) q { x with
        placed := x.placed ++ [p], dev := (pagesFor q n n x).getD x.dev, budget := x.budget - rowsOfPlaced x.dev p }
    | _, _ => x)
    (noDraft gives d)

/-- Whether a mirror can run what its primary's order names (R195, R209, R212, R216, R421): its last action 4 has given the pages,
they may be read, and what is appended to is no shared slot (notes/assumptions 34). -/
def orderReady (items : List LogItem) (d : Device) : Bool :=
  items.all fun i =>
    match reqOf d i.handle, itemPlacement i with
    | some q, some _ => let n := itemNeeds i; readable d q && appendReady d q && pagesHeld q n n d
    | _, _ => true

/-- Whether every request that items place may be appended to (R212). -/
def replayReady (items : List LogItem) (d : Device) : Bool :=
  items.all fun i => (i.kind ≠ 0x01 && i.kind ≠ 0x02) ||
    (match reqOf d i.handle with
     | some q => appendReady d q
     | none => true)

/-! ### Late requests, shortages and firmware resumes (R216, R241, R242) -/

/-- Whether a request can be placed given those before it (R241); a late one without the CHUNK_MAX limit. -/
def placeable (d : Device) (q : Request) : Bool :=
  let before := (candidates d).takeWhile fun x => handleOfReq x ≠ handleOfReq q
  let limit := if q.late then none else some (schedChunkMax d)
  (placeOne limit q (composeList (some (schedChunkMax d)) before (noDraft true d))).isSome

/-- The requests that another may pause, in their order (R241). -/
def pausable (d : Device) (q : Request) : List Request :=
  let qs := (d.role.reqs.map (·.2)).filter fun x =>
    (x.state = .prefill || x.state = .decode) && x.priority < q.priority
  let key := fun (x : Request) => [x.priority, 2 ^ 48 - x.admitStep, 2 ^ 32 - handleOfReq x]
  let rec ins (x : Request) : List Request → List Request
    | [] => [x]
    | y :: t => if decide (key x ≤ key y) then x :: y :: t else y :: ins x t
  qs.foldr ins []

/-- The state with some requests out of the way: not candidates, and without their pages, whose slots are free (R241). -/
def setAside (qs : List Request) (d : Device) : Device :=
  let slots := qs.map (·.slot)
  let theirs := (d.role.lists.filter fun l => slots.contains l.key.slot).flatMap fun l => usesOf l.dh l.entries
  let d := qs.foldl (fun d q => setReq { q with state := .paused } d)
    { d with slotHold := d.slotHold.filter fun u => !theirs.contains u }
  { d with role := { d.role with
      lists := d.role.lists.map fun l => if slots.contains l.key.slot then { l with entries := [] } else l } }

/-- A pause or resume that firmware decided, noted for the twin (R417). -/
def noteDecision (kind handle : Nat) (d : Device) : Device :=
  updateCol (fun c => { c with fwItems := c.fwItems ++ [{ kind := kind, aux := 0, handle := handle, a := 0, b := 0 }] }) d

/-- A pause by firmware: the item, the state, the completion (R241). -/
def firmwarePause (x : Request) (d : Device) : Device :=
  let d := noteDecision 0x05 (handleOfReq x) (logItem 0x05 0 (handleOfReq x) 0 0 d)
  completeReq x codePaused 0 d.job.number 0 (pauseRequest x true d)

/-- Pause requests in order until another can be placed (R241). -/
def pauseUntil (q : Request) : List Request → Device → Device
  | [], d => d
  | x :: t, d => if placeable d q then d else pauseUntil q t (firmwarePause x d)

/-- Pause lower-priority requests until another can be placed; a shortage that the others cause pauses nothing (R241). -/
def pauseLower (q : Request) (d : Device) : Device :=
  let xs := pausable d q
  if placeable d q || !placeable (setAside xs d) q then d else pauseUntil q xs d

/-- The test of R241 for the requests that this boundary marked late. DESIGN CHOICE (notes/assumptions 113): only a candidate is
tested; for a request that is PAUSING or PAUSED the manual does not say. -/
def latePauses (marked : List Nat) (d : Device) : Device :=
  marked.foldl (fun d h =>
    match reqOf d h with
    | some q => if isCandidate q then pauseLower q d else d
    | none => d) d

/-- The pages that the lists of a request lack for a placement, one entry after the other: the list, and how many it then
has. -/
def pagesLacking (d : Device) (q : Request) (n m : Nat) : List (ListKey × Nat) :=
  (listNeeds d q n m).flatMap fun k =>
    let have' := (listAt d k.1).entries.length
    (List.range ((k.2 + 255) / 256 - have')).map fun i => (k.1, have' + i + 1)

/-- Whether no tier has a free slot for some page that the least next chunk of a request, or its decode rows, need beside those
that come before it (R216). -/
def noSlotAnywhere (d : Device) (q : Request) : Bool :=
  let sets := scatterSets d
  let n := if q.state = .decode then q.npos + 1 + depthOf q else q.npos + min 256 (ownLength q - q.npos)
  ((pagesLacking d q n n).foldl (fun (acc : Device × Bool) k =>
    if acc.2 then acc
    else
      let f := newPages acc.1 sets k.1
      match allocList k.1 f.1 f.2 (slotPool acc.1 q) k.2 k.2 acc.1 with
      | some d => (d, false)
      | none =>
        let r := needList k.1 f.1 acc.1
        let size := slotBytes r.1.dh f.2
        (acc.1, (List.range 3).all fun t =>
          (freeSlotIn (if t = 0 then slotPool acc.1 q else fun _ => true) acc.1 t size).1.isNone)) (d, false)).2

/-- Where no slot can be found in any tier for a candidate, lower-priority requests are paused (R216). -/
def shortagePauses (d : Device) : Device :=
  (candidates d).foldl (fun d q =>
    match reqOf d (handleOfReq q) with
    | some q => if isCandidate q && !(scatterSlots d).isEmpty && noSlotAnywhere d q then pauseLower q d else d
    | none => d) d

/-- Firmware resumes requests that it paused once a tentative composition places them, tested in placement order
(R242). -/
def firmwareResumes (d : Device) : Device :=
  let waiting := placementOrder ((d.role.reqs.map (·.2)).filter fun q => q.state = .paused && q.fwPause)
  waiting.foldl (fun d q =>
    match reqOf d (handleOfReq q) with
    | none => d
    | some q =>
      let r := { q with state := resumedState q }
      let x := composeNow true (setReq r d)
      if x.placed.any (fun p => placedHandle p = handleOfReq q) then
        noteDecision 0x06 (handleOfReq q) (resumeRequest q d) else d) d

/-- A request resumes, and the REQ_RESUMEs that it holds complete (R242). -/
def resumeHeld (q : Request) (d : Device) : Device :=
  q.heldResumes.foldl (fun d f => finishDesc f codeOk (handleOf f) d) (resumeRequest q d)

/-- REQ_RESUME (R240, R242); in replay it waits for the boundary of its RESUME item. -/
def applyResume (f : Fetched) (d : Device) : Device :=
  let d := logDesc f d
  let hold := fun (q : Request) => setReq { q with resumePend := true, heldResumes := q.heldResumes ++ [f] } d
  match reqOf d (handleOf f) with
  | none => finishDesc f codeBad (handleOf f) d
  | some q =>
    match q.state with
    | .paused => if resumesNow d (handleOf f) then finishDesc f codeOk (handleOf f) (resumeRequest q d) else hold q
    | .pausing => hold q
    | _ => finishDesc f codeOk (handleOf f) d

/-- Firmware's pauses and resumes in replay: those of the log, in its order (R55). -/
def replayDecisions (d : Device) : Device :=
  (laterItems (entryItems d.bnd.entry)).foldl (fun d i =>
    match reqOf d i.handle with
    | none => d
    | some q =>
      if i.kind = 0x05 then firmwarePause q d
      else if i.kind = 0x06 && q.state = .paused then noteDecision 0x06 i.handle (resumeHeld q d)
      else d) d

/-- A PAUSING request becomes PAUSED; a held resume applies right after (R227, R242). -/
def settlePause (h : Nat) (d : Device) : Device :=
  match reqOf d h with
  | none => d
  | some q =>
    let q := { q with state := .paused }
    let d := updateCol (fun c => { c with paused := c.paused ++ [h] }) (setReq q d)
    if q.heldResumes.isEmpty || !resumesNow d h then d else resumeHeld q d

/-! ### Insertion into the tree (R253, R257, R259) -/

/-- Bucket of a key (R253). -/
def bucketOf (key : Nat) : Nat := key % 2 ^ 22

/-- The first node of a bucket: the indexed node of the bucket that no other names as NEXT. -/
def bucketHead (d : Device) (b : Nat) : Option Nat :=
  let ns := d.tree.filter fun n => n.2.indexed && bucketOf n.2.key = b
  (ns.find? fun n => !ns.any fun m => m.2.next = some n.1).map (·.1)

/-- Whether a node may be evicted (R259). -/
def evictable (n : TreeNode) : Bool := n.holders = 0 && n.children = 0

/-- The evictable node with the lowest LAST_STEP, ties to the lower index (R259). -/
def victim (d : Device) : Option Nat :=
  ((d.tree.filter fun n => evictable n.2).foldl (fun (best : Option (Nat × TreeNode)) n =>
    match best with
    | none => some n
    | some b => if decide ([n.2.lastStep, n.1] < [b.2.lastStep, b.1]) then some n else some b) none).map (·.1)

/-- A free node index, evicting where every one is in use (R257, R259). -/
def nodeIndex (d : Device) : Option (Nat × Device) :=
  let n := d.tree.length
  if n < maxNodes d then
    ((List.range (n + 1)).find? fun i => (Tab.find d.tree i).isNone).map fun i => (i, d)
  else
    match victim d with
    | some i => some (i, evictNode i d)
    | none => none

/-- Whether the entry of page j of every main list can be shared (R257 item 2). -/
def pagesPrivate (d : Device) (q : Request) (j : Nat) : Option (List PageEntry) :=
  let at' := q.lv / 256 + j
  (mainKeys d q.slot).mapM fun k =>
    match (listAt d k).entries[at']? with
    | some e => if !e.fp4 && !e.shared && e.tier ≤ 1 then some e else none
    | none => none

/-- Insert own page j of a request where R257 allows it. DESIGN CHOICE (notes/assumptions 113): where the node evicted for an index
is the page's own parent, nothing is inserted; the manual does not say. -/
def insertPage (q : Request) (j : Nat) (d : Device) : Device :=
  let key := natOfBytes (pageKey d q j)
  let parent := if j = 0 then none else findNode d (natOfBytes (pageKey d q (j - 1)))
  let current := (Tab.find d.role.variants q.variant).map (·.epoch) = some q.variantEpoch
  match pagesPrivate d q j with
  | none => d
  | some es =>
    if (j ≠ 0 && parent.isNone) || (findNode d key).isSome || !current then d
    else
      match nodeIndex d with
      | none => d
      | some (i, d) =>
        let parent := if j = 0 then none else findNode d (natOfBytes (pageKey d q (j - 1)))
        if j ≠ 0 && parent.isNone then d
        else
          let node : TreeNode := {
            key := key, parent := parent.map (·.1), next := bucketHead d (bucketOf key), holders := 0, children := 0,
            lastStep := d.job.number, variant := q.variant, depth := j, indexed := true,
            slots := es.map fun e => { e with shared := true } }
          let t := match parent with
            | some (p, n) => Tab.put d.tree p { n with children := n.children + 1 }
            | none => d.tree
          { d with tree := Tab.put t i node }

/-- The insertions of a boundary (R257): requests in ascending handle order with the own pages that became visible, each
given as (handle, own positions before, after). -/
def insertPages (gained : List (Nat × Nat × Nat)) (d : Device) : Device :=
  if maxNodes d = 0 || d.onTaken then d
  else
    (sortedReqs d).foldl (fun d q =>
      match gained.find? (·.1 = handleOfReq q) with
      | none => d
      | some (_, lo, hi) =>
        let pages := (List.range (min hi q.promptLen / 256)).filter fun j => lo ≤ 256 * j
        pages.foldl (fun d j => insertPage q j d) d) d

end Sys2Proof.Machine
end

