-- ==== Sys2Proof/Machine/Admin.lean ====
section
/-!
DEFINITION. Admin descriptors at action 4 (R357 to R363): loading model and sentence, variants (R249), slot lists
(R332), groups (R300, R321), the step log (R55, R371), and the answer to QUERY (R369).
-/
namespace Sys2Proof.Machine

/-! ### Which descriptors are accepted (R356, R357) -/

/-- Whether a ring accepts an opcode (R357). -/
def ringTakes (opcode ring : Nat) : Bool :=
  if [0x01, 0x02, 0x03, 0x20, 0x30, 0x31, 0x40, 0x41, 0x42, 0x50].contains opcode then ring = 0
  else if 0x10 ≤ opcode && opcode ≤ 0x14 then ring ≠ 0
  else opcode = 0x60

/-- Whether the header's reserved fields are 0 and HANDLE is 0 where the opcode has none (R356). -/
def headerOk (x : BitVec 512) : Bool :=
  let op := descField x 0 0 8
  let named := (0x11 ≤ op && op ≤ 0x14) || op = 0x60
  descField x 1 6 2 = 0 && descField x 2 0 16 = 0 && (named || descField x 4 0 32 = 0)

/-- Whether `n` bytes at offset `off` of a descriptor are 0. -/
def zeroBytes (x : BitVec 512) (off n : Nat) : Bool := descField x off 0 (8 * n) = 0

/-- The payload rules of R358 that need nothing but the descriptor. -/
def payloadOk (x : BitVec 512) : Bool :=
  let op := descField x 0 0 8
  let z := zeroBytes x
  if op = 0x01 || op = 0x02 then
    let len := descField x 32 0 48
    let last := descField x 40 1 1 = 1
    descField x 16 0 12 = 0 && descField x 24 0 9 = 0 && z 30 2 && len % 512 = 0 && 512 ≤ len && z 38 2 &&
      descField x 40 2 6 = 0 && z 41 7 && z 56 8 && rangeInHbm (descField x 24 0 48) len &&
      (op = 0x01 || descField x 40 0 2 = 0) && (last || descField x 48 0 64 = 0)
  else if op = 0x03 then
    descField x 16 12 4 = 0 && descField x 18 13 3 = 0 && z 20 4 && z 30 34 && descField x 18 0 13 % 256 = 0 &&
      descField x 18 0 13 ≤ 4096
  else if op = 0x11 || op = 0x12 || op = 0x13 || op = 0x42 then z 16 48
  else if op = 0x14 then priorityOk x
  else if op = 0x20 then z 17 3 && descField x 28 17 15 = 0 && descField x 36 17 15 = 0 && z 46 18
  else if op = 0x30 then
    descField x 16 6 2 = 1 && z 17 3 && z 30 2 && z 38 2 && z 45 19
  else if op = 0x31 then descField x 16 6 2 = 0 && z 17 3 && descField x 24 17 15 = 0 && z 28 4 && z 38 26
  else if op = 0x40 then z 22 2 && z 28 36
  else if op = 0x41 then descField x 16 3 5 = 0 && z 17 3 && z 24 40
  else if op = 0x50 then
    let mode := descField x 16 0 2
    let base := descField x 24 0 64
    let log2 := descField x 32 0 6
    descField x 16 2 6 = 0 && z 17 7 && mode ≠ 3 && base % 4096 = 0 && descField x 32 6 26 = 0 && z 36 4 && z 46 18 &&
      (if mode = 0 then base = 0 && log2 = 0 else 20 ≤ log2 && log2 ≤ 40) && (mode = 2 || descField x 40 0 48 = 0)
  else if op = 0x60 then z 17 3 && z 36 28
  else op = 0x10

/-- Whether the completion ring that a descriptor names is enabled: on the shadow, at the twin (R415, R420); for the taken
role, ring 32 + q (R425). -/
def cqTaken (d : Device) (f : Fetched) : Bool :=
  if shadowing d then
    (d.twin.peerHello.map fun h => decide (64 + cqOf f ∈ h.rings)).getD true
  else cqEnabled d (if d.onTaken then (cqOf f + 32) % 64 else cqOf f)

/-- Whether a descriptor is accepted at all; any other completes with BAD_DESCRIPTOR (R357). -/
def descOk (d : Device) (f : Fetched) : Bool :=
  ringTakes (opcodeOf f) f.ring.val && headerOk f.desc && payloadOk f.desc && cqTaken d f

/-! ### Model and sentence (R361, R362) -/

/-- The copy that an accepted MODEL_LOAD or SENTENCE_LOAD makes during its fetch (R357, R361, R362). What a step in flight
reads there is unpredictable from then on (R361). -/
def fetchCopy (f : Fetched) (d : Device) : Device :=
  let op := opcodeOf f
  if (op = 0x01 || op = 0x02) && descOk d f then
    match f.blockA with
    | some bs =>
      let dst := descField f.desc 24 0 48
      let d := noteRaced dst bs.length d
      let (m, es) := writeRange d.mem dst bs
      copyEvents es { d with
        mem := m
        work := if d.job.inFlight then { d.work with copied := (dst, bs.length) :: d.work.copied } else d.work }
    | none => d
  else d

/-- Whether the request table and the held submits are empty (R361). -/
def tableEmpty (d : Device) : Bool := (allRoles d).all fun r => r.reqs.isEmpty && r.held.isEmpty

/-- Unload model, sentence, variant table and tree (R361). -/
def unloadModel (d : Device) : Device :=
  { d with
    loaded := { d.loaded with modelDigest := none, modelRanges := [], sentence := none }
    role := { d.role with variants := [], lists := [] }
    twin := { d.twin with taken := d.twin.taken.map fun r => { r with variants := [], lists := [] } }
    tree := [] }

/-- Variant 0 as MODEL_LOAD leaves it (R248). -/
def variantZero : Variant := { lv := 0, pages := [], epoch := 0 }

/-- MODEL_LOAD at action 4 (R361). -/
def applyModelLoad (f : Fetched) (d : Device) : Device :=
  let x := f.desc
  let d := logDesc f d
  let first := descField x 40 0 1 = 1
  let last := descField x 40 1 1 = 1
  let dst := descField x 24 0 48
  let len := descField x 32 0 48
  match f.blockA with
  | none => finishDesc f codeBad 0 d
  | some bs =>
    if !tableEmpty d || bs.length ≠ len then finishDesc f codeBad 0 d
    else if !first && !d.loaded.imageOpen then finishDesc f codeBad 0 d
    else
      let d := if first then
          let d := unloadModel d
          { d with loaded := { d.loaded with imageOpen := true, imageBytes := [], imageRanges := [] } }
        else d
      let d := { d with loaded := { d.loaded with
        imageBytes := d.loaded.imageBytes ++ bs
        imageRanges := d.loaded.imageRanges ++ [(dst, len)] } }
      if !last then finishDesc f codeOk 0 d
      else
        let digest := shake256_512 d.loaded.imageBytes
        let ranges := d.loaded.imageRanges
        let d := { d with loaded := { d.loaded with imageOpen := false, imageBytes := [], imageRanges := [] } }
        if f.blockB = some digest then
          finishDesc f codeOk 0 { d with
            loaded := { d.loaded with modelDigest := some digest, modelRanges := ranges }
            role := { d.role with variants := [(0, variantZero)] }
            twin := { d.twin with taken := d.twin.taken.map fun r => { r with variants := [(0, variantZero)] } } }
        else finishDesc f codeBad 0 d

/-- Base and size of the tree area (R253, R262). -/
def treeArea (d : Device) (layers heads : Nat) : Nat × Nat :=
  (regField d .cfgPrefixBase 21 27 * 2 ^ 21, 0x11000000 + maxNodes d * 8 * layers * heads)

/-- The page-list set at an address inside a sentence image, read from the image (R197). -/
def imageSet (s : Sentence) (bs : List Byte) (a : Nat) : Option PageSet :=
  if s.dst ≤ a && a + 64 ≤ s.dst + s.len then setAt a (slice bs (a - s.dst) 64) else none

/-- The checks of a sentence image against the device (R262, R534): the directories are the main one and those that page-list
sets inside the image name. -/
def sentenceFits (d : Device) (s : Sentence) (bs : List Byte) : Bool :=
  let t := treeArea d s.dirLayers s.dirHeads
  rangeInHbm t.1 t.2 && !rangesMeet s.fwArea s.fwSize t.1 t.2 &&
    d.loaded.modelRanges.all (fun r => !rangesMeet s.fwArea s.fwSize r.1 r.2) &&
    ((setAddrs s.clauses).filterMap (imageSet s bs)).all fun x =>
      !rangesMeet s.fwArea s.fwSize x.dir (directorySize x.dirLayers x.dirHeads)

/-- The initial digest of a rank (R48). -/
def initialDigest (d : Device) (rank : Nat) (model sentence : List Byte) : List Byte :=
  shake256_256 (padTo 64 model ++ padTo 64 d.boot.measurement ++ bytesOfNat 4 (memberCount d) ++ bytesOfNat 4 rank ++
    padTo 64 sentence)

/-- A role under a new sentence: no lists, and the initial digest of its rank, from which its chain starts again at this
boundary's action 5 (R46, R48). -/
def renewRole (d : Device) (rank : Nat) (model digest : List Byte) (r : Role) : Role :=
  { r with lists := [], initial := some (initialDigest d rank model digest) }

/-- A sentence replaces the loaded one (R362, R48). DESIGN CHOICE (notes/assumptions 115): the variant tables stay, also where the
directory of the new sentence has other dimensions. -/
def installSentence (s : Sentence) (model : List Byte) (bs : List Byte) (d : Device) : Device :=
  let digest := shake256_512 bs
  { d with
    loaded := { d.loaded with sentence := some { s with digest := digest }, initial := initialDigest d (myRank d) model digest }
    role := renewRole d (myRank d) model digest d.role
    twin := { d.twin with taken := d.twin.taken.map (renewRole d d.twin.rank model digest) } }

/-- SENTENCE_LOAD at action 4 (R362). -/
def applySentenceLoad (f : Fetched) (d : Device) : Device :=
  let d := logDesc f d
  match f.blockA, d.loaded.modelDigest with
  | some bs, some model =>
    if !tableEmpty d || bs.length ≠ descField f.desc 32 0 48 then finishDesc f codeBad 0 d
    else
      match parseSentence (descField f.desc 24 0 48) bs with
      | some s => if sentenceFits d s bs then finishDesc f codeOk 0 (installSentence s model bs d)
                  else finishDesc f codeBad 0 d
      | none => finishDesc f codeBad 0 d
  | _, _ => finishDesc f codeBad 0 d

/-! ### Words that a descriptor reads at action 4 (R450) -/

/-- Bytes that GROUP_DEFINE, GROUP_REFORM or VARIANT_LOAD reads: none where they leave the map or a word is
uncorrectable; the words found are counted, and no fault follows. -/
def adminRead (a n : Nat) (d : Device) : Option (List Byte) × Device :=
  if !rangeInMap a n then (none, d)
  else
    let r := unitRead a n d
    let d := eachEvent (fun w st => noteUncorrectable w 3 st) r.2.1 r.2.2
    (if anyUncorrectable r.2.1 then none else some r.1, d)

/-! ### Variants (R249, R259) -/

/-- Take every node of a variant out of the index; those without holders are evicted (R249, R259). DESIGN CHOICE (notes/assumptions
130): a node that stays for its holders counts in its parent's CHILDREN until it is evicted, and keeps its NEXT (R254). -/
def unindexVariant (v : Nat) (d : Device) : Device :=
  let ids := (d.tree.filter fun n => n.2.variant = v && n.2.indexed).map (·.1)
  ids.foldl (fun d i =>
    match Tab.find d.tree i with
    | none => d
    | some n =>
      let t := d.tree.map fun e => (e.1, if e.2.next = some i then { e.2 with next := n.next } else e.2)
      let d := { d with tree := Tab.put t i { n with indexed := false } }
      if n.holders = 0 then evictNode i d else d) d

/-- Group the entries of a variant by list (R358). -/
def variantPages (d : Device) (per : Nat) (es : List PageEntry) : List (List PageEntry) :=
  (List.range (dirPlaces d).length).map fun i => (es.drop (i * per)).take per

/-- Install a variant in the current role (R249): in an epoch that no request of the role has seen, even where the variant has been
unloaded in between (R257, R414). -/
def installVariant (v lv : Nat) (es : List PageEntry) (d : Device) : Device :=
  let seen := (d.role.reqs.filter fun q => q.2.variant = v).map fun q => q.2.variantEpoch
  let epoch := (((Tab.find d.role.variants v).map (·.epoch)).toList ++ seen).foldl max 0
  let x : Variant := { lv := lv, pages := variantPages d (lv / 256) es, epoch := epoch + 1 }
  updateCol (fun c => { c with loaded := c.loaded ++ [v] }) { d with role := { d.role with variants := Tab.put d.role.variants v x } }

/-- The same effect on the role that is not current, in SPLIT (R425). -/
def onOther (f : Device → Device) (d : Device) : Device := swapRoles (f (swapRoles d))

/-- The same effect on the other role, where there is one. -/
def inSplit (f : Device → Device) (d : Device) : Device := if d.twin.taken.isSome then onOther f d else d

/-- VARIANT_LOAD at action 4 (R249). DESIGN CHOICE (notes/assumptions 115): while no sentence is loaded there is no list, so no entry
is read and LV alone is installed. Pages that the twin's shadow could not hold are a shortage (R438; notes/assumptions 114). DESIGN
CHOICE (notes/assumptions 30): an entry with SHARED = 0 is taken as shared, one of tier 2 or in FP4 is refused. -/
def applyVariantLoad (f : Fetched) (d : Device) : Device :=
  let x := f.desc
  let d := logDesc f d
  let v := descField x 16 0 12
  let lv := descField x 18 0 13
  let n := lv / 256 * (dirPlaces d).length
  let r := adminRead (descField x 24 0 48) (8 * n) d
  match r.1, d.loaded.modelDigest with
  | some bs, some _ =>
    let es := ((pieces 8 n bs).map natOfBytes).mapM parseEntry
    match es with
    | some es =>
      if (es.all fun e => e.tier ≤ 1 && !e.fp4) && shadowTakes d (dirUses d (variantPages d (lv / 256) es)) 0 then
        let es := es.map fun e => { e with shared := true }
        let d := unindexVariant v (inSplit (installVariant v lv es) (installVariant v lv es r.2))
        finishDesc f codeOk 0 d
      else finishDesc f codeBad 0 r.2
    | none => finishDesc f codeBad 0 r.2
  | _, _ => finishDesc f codeBad 0 r.2

/-! ### Slot lists (R332) -/

/-- EXPORT_SLOTS at action 4 (R332). -/
def applyExportSlots (f : Fetched) (d : Device) : Device :=
  let x := f.desc
  let d := logDesc f d
  let n := descField x 16 0 8
  let l : SlotList := {
    gen := descField x 20 0 32, node := descField x 24 0 32, slots := descField x 28 0 17,
    slotBytes := descField x 32 0 32, addrs := descField x 40 0 48, credit := descField x 36 0 17, seq := 0 }
  let old := (Tab.find d.fab.slotLists n).map (·.gen)
  if old ≠ some l.gen && l.node < nodeCount d && 1 ≤ l.slots && l.slots ≤ 65536 && l.credit ≤ l.slots &&
      64 + slotBytes (sentenceDh d) false ≤ l.slotBytes then
    finishDesc f codeOk 0 (installList n l d)
  else finishDesc f codeBad 0 d

/-! ### Groups (R299, R300, R321) -/

/-- The 32 bytes of a group record; an undefined group is all 0 (R299, R369). -/
def groupBytes (n : Nat) (g : Option Group) : List Byte :=
  match g with
  | none => List.replicate 32 0#8
  | some g =>
    bytesOfNat 4 (n + 64) ++ bytesOfNat 4 g.gen ++ bytesOfNat 4 g.members ++ bytesOfNat 4 g.myRank ++
      bytesOfNat 8 g.nodesAt ++ bytesOfNat 8 g.ctimeout

/-- A group record written; group 0 carries the partition generation (R299). -/
def setGroup (n : Nat) (g : Group) (d : Device) : Device :=
  let d := { d with role := { d.role with groups := Tab.put d.role.groups n g } }
  if n = 0 then { d with job := { d.job with gen := g.gen } } else d

/-- The conditions of R300 on a record. -/
def groupOk (d : Device) (n : Nat) (g : Group) : Bool :=
  1 ≤ g.members && g.members ≤ 65536 && g.myRank < g.members && g.nodes.all (· < nodeCount d) &&
    nodeOfRank g g.myRank = nodeId d && retryBudget d < g.ctimeout && 96 * g.ctimeout < 25 * stepWaitMin d &&
    (n = 0 || (groupOf d 0).isSome)

/-- GROUP_DEFINE at action 4 (R300). -/
def applyGroupDefine (f : Fetched) (d : Device) : Device :=
  let x := f.desc
  let d := logDesc f d
  let n := descField x 16 0 6
  let members := descField x 24 0 32
  let at' := descField x 32 0 48
  if members = 0 || 65536 < members then finishDesc f codeBad 0 d
  else
    let r := adminRead at' (4 * members) d
    match r.1 with
    | none => finishDesc f codeBad 0 r.2
    | some bs =>
      let g : Group := {
        gen := descField x 20 0 32, members := members, myRank := descField x 28 0 16, nodesAt := at',
        nodes := (pieces 4 members bs).map natOfBytes, ctimeout := descField x 40 0 40 }
      if groupOk d n g then finishDesc f codeOk 0 (inSplit (setGroup n { g with myRank := d.twin.rank }) (setGroup n g r.2))
      else finishDesc f codeBad 0 r.2

/-- Node numbers of named ranks replaced. -/
def replaceNodes (nodes : List Nat) (pairs : List (Nat × Nat)) : List Nat :=
  pairs.foldl (fun ns p => ns.set p.1 p.2) nodes

/-- The frozen shadow's role in the place of the own one (R422, R423). -/
def onShadow (f : Device → Device) (d : Device) : Device :=
  match d.twin.shadow with
  | none => d
  | some x =>
    let e := f { d with role := x.role }
    { e with role := d.role, job := d.job, twin := { e.twin with shadow := some { x with role := e.role } } }

/-- One group re-formed in the current role: new generation and nodes (R321). -/
def reformGroup (n gen : Nat) (pairs : List (Nat × Nat)) (d : Device) : Device :=
  match groupOf d n with
  | some g =>
    if g.gen < gen && pairs.all (fun p => p.1 < g.members) then
      setGroup n { g with gen := gen, nodes := replaceNodes g.nodes pairs } d
    else d
  | none => d

/-- The records of a group that a re-form concerns: of the own role, of the taken one (R425), and, while LOST, of the
shadow, whose role a takeover serves (R423). -/
def groupRecords (d : Device) (n : Nat) : List Group :=
  let other := d.twin.taken.toList ++ (if d.twin.state = .lost then (d.twin.shadow.map (·.role)).toList else [])
  (d.role :: other).filterMap fun r => Tab.find r.groups n

/-- GROUP_REFORM at action 4 (R321). -/
def applyGroupReform (f : Fetched) (d : Device) : Device :=
  let x := f.desc
  let d := logDesc f d
  let n := descField x 16 0 6
  let gen := descField x 20 0 32
  let count := descField x 24 0 17
  if count = 0 || 65536 < count then finishDesc f codeBad 0 d
  else
    let r := adminRead (descField x 32 0 48) (8 * count) d
    match r.1 with
    | some bs =>
      let words := (pieces 8 count bs).map natOfBytes
      let pairs := words.map fun w => (bitsOf w 0 16, bitsOf w 32 32)
      let gs := groupRecords d n
      let ok := !gs.isEmpty && words.all (fun w => bitsOf w 16 16 = 0) && pairs.all (fun p => p.2 < nodeCount d) &&
        gs.all fun g => g.gen < gen && pairs.all fun p => p.1 < g.members
      if ok then
        let d := reformGroup n gen pairs r.2
        let d := inSplit (reformGroup n gen pairs) d
        finishDesc f codeOk 0 (if d.twin.state = .lost then onShadow (reformGroup n gen pairs) d else d)
      else finishDesc f codeBad 0 r.2
    | none => finishDesc f codeBad 0 r.2

/-! ### The step log (R55, R56, R371) -/

/-- Stop the log: its descriptor completes (R371). -/
def stopLog (code result : Nat) (d : Device) : Device :=
  if d.hif.log.mode = 0 then d
  else
    let l := d.hif.log
    let d := { d with hif := { d.hif with log := { l with mode := 0 } } }
    complete l.cq code 0x50 0 0 0 l.tag d.job.number result d

/-- STEP_LOG at action 4 (R371). -/
def applyStepLog (f : Fetched) (d : Device) : Device :=
  let x := f.desc
  let d := logDesc f d
  let mode := descField x 16 0 2
  if mode = 0 then
    let last := d.hif.log.last
    completeDesc f codeOk 0 d.job.number last (stopLog codeOk last d)
  else if d.hif.log.mode ≠ 0 then finishDesc f codeBad 0 d
  else
    statusWrite 1536 0 { d with hif := { d.hif with log := {
        mode := mode, base := descField x 24 0 64, log2 := descField x 32 0 6, endStep := descField x 40 0 48,
        cq := cqOf f, tag := tagOf f, dev := 0, host := 0, bytes := [], last := 0 } } }

/-! ### QUERY (R369) -/

/-- The answer of a QUERY in the current role; none: BAD_DESCRIPTOR. -/
def queryAnswer (d : Device) (f : Fetched) : Option (List Byte) :=
  let what := descField f.desc 16 0 8
  let arg := descField f.desc 20 0 32
  let len := descField f.desc 32 0 32
  let bytes := match what with
    | 0x01 => (reqOf d (handleOf f)).map recordBytes
    | 0x02 => (reqOf d (handleOf f)).map fun (q : Request) => samplerState d q
    | 0x03 => if handleOf f = 0 && arg < 64 then some (groupBytes arg (groupOf d arg)) else none
    | 0x04 =>
      (reqOf d (handleOf f)).bind fun q =>
        if arg / 16 < dirLayers d && arg % 16 < dirHeads d then
          some (headBytes (listAt d (mainKey d q.slot (arg / 16) (arg % 16))))
        else none
    | _ => none
  bytes.bind fun bs => if bs.length ≤ len then some bs else none

/-- The request table in hub SRAM (R534). -/
def requestTable : Nat := 0x7F0001000000

/-- DIR_LAYERS and DIR_HEADS of a directory: the sentence's, or those of the page-list sets that name it (R197, R363). -/
def dirDims (d : Device) (dir : Nat) : Nat × Nat :=
  if dir = mainDir d then (dirLayers d, dirHeads d)
  else (((namedSets d).find? (·.dir = dir)).map fun s => (s.dirLayers, s.dirHeads)).getD (0, 0)

/-- Address of a node in the tree index (R253). -/
def treeNodeAddr (d : Device) (i : Nat) : Nat := regField d .cfgPrefixBase 21 27 * 2 ^ 21 + 0x01000000 + 64 * i

/-- Address of a list's head in its directory (R197). -/
def headAddr (d : Device) (k : ListKey) : Nat :=
  let n := dirDims d k.dir
  k.dir + 32 * ((k.slot * n.1 + k.layer) * n.2 + k.head)

/-- Address and length of the memory that a QUERY reads (R225, R268, R197): none for a group. -/
def queryReads (d : Device) (f : Fetched) : Option (Nat × Nat) :=
  let arg := descField f.desc 20 0 32
  (reqOf d (handleOf f)).bind fun q =>
    match descField f.desc 16 0 8 with
    | 0x01 => some (requestTable + 64 * q.slot, 64)
    | 0x02 => some (q.stateAddr, (samplerState d q).length)
    | 0x04 => some (headAddr d (mainKey d q.slot (arg / 16) (arg % 16)), 32)
    | _ => none

/-- What hub firmware's own read finds: corrected words are counted, and an uncorrectable one is FATAL (R449, R450). -/
def firmwareRead (a n : Nat) (d : Device) : Device :=
  let r := touchRange d.mem a n
  eachEvent (fun w st d => goFatal w (noteUncorrectable w 3 st d)) r.2.2 { d with mem := r.2.1 }

/-- What firmware looks at of its own records at action 4: the request table, and of each request that the step placed its sampler
state, its list heads and entry arrays, and the tree nodes that it holds. -/
def firmwareSpans (d : Device) : List (Nat × Nat) :=
  let qs := d.role.reqs.map (·.2)
  let placed := qs.filter fun q => d.role.col.placements.any fun p => placedHandle p = handleOfReq q
  (if d.onTaken then [] else qs.map fun q => (requestTable + 64 * q.slot, 64)) ++
    placed.flatMap fun q =>
      let ls := listsOfSlot d q.slot
      (q.stateAddr, (samplerState d q).length) :: ls.map (fun l => (l.entriesAt, 8 * l.entries.length)) ++
        (if d.onTaken then []
         else ls.map (fun l => (headAddr d l.key, 32)) ++ (nodesHeld d q.slot).map fun i => (treeNodeAddr d i, 64))

/-- Firmware's look at its own records: a bad word among them is FATAL (R450; notes/assumptions 75). -/
def firmwareLooks (d : Device) : Device :=
  if d.mem.upsets.isEmpty then d
  else
    let spans := firmwareSpans d
    let ws := (d.mem.upsets.map (·.1)).filter fun w => meetsSpans spans w 32
    ws.foldl (fun d w => firmwareRead w 32 d) d

/-- Answer a QUERY (R369): the bytes at DST, then the completion with their number. One whose read stops the device
completes with DEVICE_FATAL (R401). -/
def answerQuery (f : Fetched) (d : Device) : Device :=
  let n := d.job.number
  if d.job.fatal then completeDesc f codeFatal (handleOf f) n 0 d
  else
  match if descOk d f then queryAnswer d f else none with
  | some bs =>
    let e := match queryReads d f with
      | some r => firmwareRead r.1 r.2 d
      | none => d
    if e.job.fatal then completeDesc f codeFatal (handleOf f) n 0 e
    else completeDesc f codeOk (handleOf f) n bs.length (emit (.hostWrite (descField f.desc 24 0 64) bs) e)
  | none => completeDesc f codeBad (handleOf f) n 0 d

/-- A role's turn: in SPLIT, work rings 32 to 63 belong to the taken role (R425). -/
def forRing (ring : Nat) (f : Device → Device) (d : Device) : Device :=
  if d.twin.state = .split && 32 ≤ ring && !d.onTaken then onOther f d else f d

end Sys2Proof.Machine
end

