-- ==== Sys2Proof/Machine/Tiles.lean ====
section
/-!
DEFINITION. What one output tile computes: rows and columns of a product with their prologues (R155 to R157), the
epilogue (R158 to R160, R169, R170), row and column statistics (R161 to R163), page-scatter (R203, R204), conversion
and writing of C (R112, R124), the separate form (R165), and tile fusion (R144).
-/
namespace Sys2Proof.Machine

/-- Everything an operation's tile reads besides memory: its number, the clause's position areas, the operation, its bounds at
issue, the walker's view, the trigger table with the exclusive end of each entry's source range where it is known before
the entry fires (R303), the addresses that `Run` names, those where a statistic that a NORM slot or a row of a memory-side
function reads is unpredictable, and where the elements of C that a RESID slot reads are, and by outer number the walker's key counts of the product that
wrote the scores (R179). -/
structure TileEnv where
  index : Nat
  posA : Nat
  posB : Nat
  op : OpDesc
  bounds : Bounds
  walk : Walk
  trig : List TrigEntry
  srcEnds : List (Option Nat)
  scattered : List (Nat × Nat)
  foreign : List (Nat × Nat)
  foreignA : List (Nat × Nat)
  foreignN : List (Nat × Nat)
  foreignS : List (Nat × Nat)
  foreignR : List (Nat × Nat)
  shared : List (Nat × Nat)
  scoreKeys : Option (List Nat)
  deriving DecidableEq, Repr

/-- The place of a tile: outer number, rows [m0, m1), columns [n0, n1), clipped at their bounds (R123, R124). -/
structure TilePlace where
  o : Nat
  m0 : Nat
  m1 : Nat
  n0 : Nat
  n1 : Nat
  deriving DecidableEq, Repr

/-- The operation starts: what it may not read or write with a definite result (R150). -/
def evEnter (e : TileEnv) : Ev Unit :=
  modify fun r => { r with foreign := e.foreign, foreignA := e.foreignA, shared := e.shared }

/-- Row number (R139). -/
def rowNumber (e : TileEnv) (o m : Nat) : Nat := o * boundFor e.bounds .m + m

/-- Column number (R139). -/
def colNumber (e : TileEnv) (o n : Nat) : Nat := o * boundFor e.bounds .n + n

/-- The numbers from a to b - 1. -/
def rangeFrom (a b : Nat) : List Nat := (List.range (b - a)).map (· + a)

/-! ### Operand vectors (R155) -/

/-- The side value of a prologue slot for element k at offset x (R152, R153). -/
def proSide (e : TileEnv) (m : Modifier) (k : Nat) (x : Int) : Ev Val :=
  let f := ((fmtOf m.fmt).getD (plainFmt .fp32))
  match m.kind, m.src with
  | 0x01, _ => evSide evRead f e.op.arith m.addr (x / ((32 * 2 ^ (m.param % 4) : Nat) : Int))
  | _, 0 => evInput e.op.arith (f32Val m.imm0)
  | _, _ => evSide evRead f e.op.arith m.addr k

/-- One rounding to FP32 of a value with the flags of its making (R154). -/
def evRound (a : Arith) (v : Val × BitVec 7) : Ev Val := do
  evFlags v.2
  let r ← evFlagged (roundF32 a v.1)
  pure (f32Val r)

/-- x0 * c + x1 * s, exactly, with the flags of R67. -/
def crossSum (x0 c x1 s : Val) : Val × BitVec 7 :=
  let p := mulVal x0 c
  let q := mulVal x1 s
  let t := addVal p.1 q.1
  (t.1, p.2 ||| q.2 ||| t.2)

/-- The partner and role of element k in its ROTATE group: first index, second index, pair number (R156). -/
def rotatePair (d : Nat) (interleaved : Bool) (k : Nat) : Nat × Nat × Nat :=
  let b := k / d * d
  let r := k % d
  if interleaved then (b + r / 2 * 2, b + r / 2 * 2 + 1, r / 2)
  else (b + r % (d / 2), b + r % (d / 2) + d / 2, r % (d / 2))

/-- A free FP32 value. -/
def evFreeF32 : Ev Val := do
  let r ← get
  set { r with free := r.free + 1 }
  pure (f32Val (BitVec.ofNat 32 (Config.free r.free)))

/-- ROTATE over a vector (R156). The pairs of a vector whose position is PAD become free values (R185;
notes/assumptions 42). -/
def evRotate (a : Arith) (m : Modifier) (pos : Nat) (vs : List Val) : Ev (List Val) :=
  let d := m.imm0.toNat
  (List.range vs.length).mapM fun k => do
    let p := rotatePair d (m.param % 2 = 1) k
    let here := vs.getD k .nan
    if vs.length ≤ p.2.1 then pure here
    else if pos = padPos then evFreeF32
    else
      let at' : Int := m.addr + 8 * (pos * (d / 2) + p.2.2)
      let c ← evReadF32 a at'
      let s ← evReadF32 a (at' + 4)
      let x0 := vs.getD p.1 .nan
      let x1 := vs.getD p.2.1 .nan
      evRound a (if k = p.1 then crossSum x0 c x1 s.neg else crossSum x0 s x1 c)

/-- NORM over a row (R157); the statistic of a producer that the slot names is one of the reads that R150 allows. -/
def evNorm (a : Arith) (open' : List (Nat × Nat)) (m : Modifier) (rho : Nat) (vs : List Val) : Ev (List Val) := do
  let s ← evReadF32By (if m.param = 0xFF then evRead else evReadOpen open') a (m.addr + 4 * rho)
  let i0 ← evInput a (f32Val m.imm0)
  let t ← evRound a (mulVal s i0)
  let i1 ← evInput a (f32Val m.imm1)
  let q ← evRound a (addVal t i1)
  let r ← evRound a (rsqrtVal q)
  vs.mapM fun v => evRound a (mulVal v r)

/-- The prologue slots of an operand over one row (index rho) or column (index kappa) (R155). -/
def evPrologue (e : TileEnv) (target index pos : Nat) (xs : List Int) (vs : List Val) : Ev (List Val) :=
  (e.op.pro.filter (·.target = target)).foldlM (fun vs m =>
    match m.kind with
    | 0x04 => evRotate e.op.arith m pos vs
    | 0x05 => evNorm e.op.arith e.foreignN m index vs
    | k => (List.range vs.length).mapM fun i => do
      let s ← proSide e m i (xs.getD i 0)
      let v := vs.getD i .nan
      evRound e.op.arith (if k = 0x03 then addVal v s else mulVal v s)) vs

/-- A transformed vector encoded to its AFMT and read back as it enters the array (R155). One
row's or column's encoding is one event of the clause issue, whichever tiles repeat it (R102; notes/assumptions 91). -/
def evEncodeVec (f : Fmt) (a : Arith) (vs : List Val) : Ev (List Elem) :=
  if f.scaled then do
    let blocks ← (groupsOf 32 vs.length vs).mapM fun b => do
      let r := encodeBlock f.code b
      evRaise r.2.2
      pure ((r.2.1.take b.length).map fun x => match scaleExp r.1 with
        | none => ({ v := .nan, k := 0 } : Elem)
        | some k => { v := elemPart f x, k := k })
    pure blocks.flatten
  else
    vs.mapM fun v => do
      let b ← evFlagged (roundTo f.code a v)
      pure { v := elemPart f b, k := 0 }
where
  /-- Consecutive groups of `n`. -/
  groupsOf (n : Nat) : Nat → List Val → List (List Val)
    | 0, _ => []
    | fuel + 1, vs => if vs.isEmpty then [] else vs.take n :: groupsOf n fuel (vs.drop n)

/-- A row of A as it enters the array (R155). -/
def evRowA (e : TileEnv) (o m kk : Nat) : Ev (List Elem) := do
  let xs := (List.range kk).map fun k => elemOffset e.bounds .a m 0 k o
  let es ← xs.mapM (evElem evReadA e.op.a e.op.arith)
  if targets e.op.pro 0 then
    let rho := rowNumber e o m
    let pos ← if e.op.pro.any (fun s => s.target = 0 && s.kind = 0x04) then evPos e.posA rho else pure 0
    let vs ← evPrologue e 0 rho pos xs (es.map elemVal)
    evOnce (e.index, 0, rho) (evEncodeVec e.op.afmtA e.op.arith vs)
  else pure es

/-- The elements of a column of a paged B: keys along N or along K (R199 to R201). -/
def evPagedCol (e : TileEnv) (s : PageSet) (l : PageList) (n kk : Nat) : Ev (List Elem) :=
  let part := e.op.b.scaleBase % 2
  (List.range kk).mapM fun k => do
    if bitOf e.op.b.scaleBase 1 then
      let x ← evKey e.op.b.fmt s.dh part l k n
      pure { v := elemVal x, k := 0 }
    else evKey e.op.b.fmt s.dh part l n k

/-- A column of B as it enters the array. DESIGN CHOICE (notes/assumptions 109): R112 gives no offset for a paged B, so a DEQUANT
slot on it takes the offset 0 of its zero strides for every element. -/
def evColB (e : TileEnv) (paged : Option (PageSet × PageList)) (o n kk : Nat) : Ev (List Elem) := do
  let xs := (List.range kk).map fun k => elemOffset e.bounds .b 0 n k o
  let es ← (match paged with
    | some p => evPagedCol e p.1 p.2 n kk
    | none => xs.mapM (evElem evRead e.op.b e.op.arith))
  if targets e.op.pro 1 then
    let kap := colNumber e o n
    let pos ← if e.op.pro.any (fun s => s.target = 1 && s.kind = 0x04) then evPos e.posB kap else pure 0
    let vs ← evPrologue e 1 kap pos xs (es.map elemVal)
    evOnce (e.index, 1, kap) (evEncodeVec e.op.afmtB e.op.arith vs)
  else pure es

/-! ### The product (R87 to R101) -/

/-- The list that a paged operand selects for an outer number: empty where there is none (R200). -/
def evPagedList (e : TileEnv) (o : Nat) : Ev (Option (PageSet × PageList × Nat)) := do
  if e.op.b.paged then
    let s ← evSet e.op.b.base
    match (← evListFor s o) with
    | some k => do
      -- the walker reads the head; what it says is in the list (R197; notes/assumptions 75)
      let _ ← evRead (setHead s k) 32
      pure (some (s, listOf e.walk.lists k, keyCount e.walk k))
    | none => pure (some (s, listOf [] { dir := 0, slot := 0, layer := 0, head := 0 }, 0))
  else pure none

/-- The reduction length and the column limit of an outer number (R121, R168). -/
def keyBounds (e : TileEnv) (p : Option (PageSet × PageList × Nat)) : Nat × Nat :=
  let kb := boundFor e.bounds .k
  let nb := boundFor e.bounds .n
  match p with
  | none => (kb, nb)
  | some (_, _, lk) => if bitOf e.op.b.scaleBase 1 then (min kb lk, nb) else (kb, min nb lk)

/-- A matrix of values: rows with their row index m, the columns from n0. -/
abbrev Grid := List (Nat × List Val)

/-- Bytes of an accumulator (R108). -/
def accBytes (o : OpDesc) : Nat := if onIntPath o.afmtA o.afmtB then 8 else 4

/-- An accumulator of a cell's tile as it ends (R99, R108): row and column in the tile. -/
def evAccumulator (e : TileEnv) (row col : Nat) (bits : Nat) : Ev Unit :=
  if e.op.kind ≠ .matmul then pure ()
  else
    let w := accBytes e.op
    modify fun r => { r with cellBytes := r.cellBytes ++ [((row * 64 + col) * w, bytesOfNat w bits)] }

/-- The accumulator values of a tile, or the INT32 values where INTOUT is 1 (R93, R96 to R98). -/
def evProduct (e : TileEnv) (t : TilePlace) : Ev Grid := do
  let p ← evPagedList e t.o
  let kn := keyBounds e p
  let n1 := min t.n1 kn.2
  let cols ← (rangeFrom t.n0 n1).mapM fun n => evColB e (p.map fun q => (q.1, q.2.1)) t.o n kn.1
  (rangeFrom t.m0 t.m1).mapM fun m => do
    let row ← evRowA e t.o m kn.1
    let vs ← (cols.zip (List.range cols.length)).mapM fun (c, j) => do
      if onIntPath e.op.afmtA e.op.afmtB then
        let sum := dotInt (row.map intElem) (c.map intElem)
        evAccumulator e (m - t.m0) j (BitVec.ofInt 64 sum).toNat
        let s ← evFlagged (toInt32 sum)
        if e.op.intout then pure (ofInt s)
        else
          let r ← evFlagged (roundF32 e.op.arith (ofInt s))
          pure (f32Val r)
      else
        let r ← evFlagged (dotFp e.op.arith (groupSize e.op.afmtA.code e.op.afmtB.code) row c)
        evAccumulator e (m - t.m0) j r.toNat
        pure (f32Val r)
    pure (m, vs)
where
  /-- The integer that an element of an integer format holds (R96). -/
  intElem (x : Elem) : Int :=
    match x.v with
    | .fin s m k => signed s (m * 2 ^ k.toNat)
    | _ => 0

/-- The values of a VECTOR tile: the elements of A (R165). -/
def evVectorIn (e : TileEnv) (t : TilePlace) : Ev Grid :=
  (rangeFrom t.m0 t.m1).mapM fun m => do
    let vs ← (rangeFrom t.n0 t.n1).mapM fun n => do
      let x ← evElem evReadA e.op.a e.op.arith (elemOffset e.bounds .a m n 0 t.o)
      pure (elemVal x)
    pure (m, vs)

/-! ### ACT (R159) -/

/-- One rounding inside a formula, with the operation's ARITH (R64). Only the final result is subject to the flags of R154
(R159): of what comes before it, a NaN made from other operands alone stays visible, since the result is that NaN
(notes/assumptions 43). -/
def inner (a : Arith) (v : Val × BitVec 7) : Val × BitVec 7 :=
  (f32Val (roundF32 a v.1).1, v.2 &&& flagInvalid)

/-- Carry flags on. -/
def withFlags (f : BitVec 7) (v : Val × BitVec 7) : Val × BitVec 7 := (v.1, f ||| v.2)

/-- RELU. -/
def reluVal (v : Val) : Val :=
  match v with
  | .nan => .nan
  | v => if ltVal .zero v then v else .zero

/-- The FP32 value nearest 0.044715. -/
def geluC1 : Val := f32Val 0x3D372713#32

/-- The FP32 value nearest 0.7978845608. -/
def geluC2 : Val := f32Val 0x3F4C422A#32

/-- 1 as a value, and one half. -/
def oneVal : Val := .fin false 1 0
def halfVal : Val := .fin false 1 (-1)

/-- 1 / (1 + exp(-v)) before its last rounding. -/
def sigmoidRaw (a : Arith) (v : Val) : Val × BitVec 7 :=
  let e := inner a (expVal v.neg, 0#7)
  withFlags e.2 (divVal oneVal (addVal oneVal e.1).1)

/-- v * SIGMOID(v) before its last rounding. -/
def siluRaw (a : Arith) (v : Val) : Val × BitVec 7 :=
  let s := inner a (sigmoidRaw a v)
  withFlags s.2 (mulVal v s.1)

/-- GELU before its last rounding. -/
def geluRaw (a : Arith) (v : Val) : Val × BitVec 7 :=
  let u := inner a (mulVal v v)
  let u := inner a (withFlags u.2 (mulVal geluC1 u.1))
  let u := inner a (withFlags u.2 (addVal oneVal u.1))
  let u := inner a (withFlags u.2 (mulVal v u.1))
  let u := inner a (withFlags u.2 (mulVal geluC2 u.1))
  let t := inner a (tanhVal u.1, u.2)
  let w := inner a (withFlags t.2 (addVal oneVal t.1))
  let h := inner a (mulVal halfVal v)
  withFlags (w.2 ||| h.2) (mulVal h.1 w.1)

/-- ACT on v and the fuse value f, before the last rounding (R159). -/
def actRaw (a : Arith) (param : Nat) (v f : Val) : Val × BitVec 7 :=
  match param with
  | 1 => (reluVal v, 0#7)
  | 2 => let r := reluVal v; mulVal r r
  | 3 => sigmoidRaw a v
  | 4 => siluRaw a v
  | 5 => (tanhVal v, 0#7)
  | 6 => geluRaw a v
  | 7 => let s := inner a (siluRaw a f); withFlags s.2 (mulVal s.1 v)
  | 8 => let s := inner a (geluRaw a f); withFlags s.2 (mulVal s.1 v)
  | _ => (expVal v, 0#7)

/-! ### The epilogue (R158 to R163) -/

/-- The bias of DISTBIAS for a row and a column position (R170). -/
def evDistBias (m : Modifier) (a : Arith) (pr pc : Nat) : Ev Val :=
  let d : Int := (pr : Int) - (pc : Int)
  let causal := bitOf m.param 0
  let win := bitOf m.param 1
  if pr = padPos || pc = padPos || (causal && d < 0) || (win && d ≥ m.imm1.toNat) then pure (.inf true)
  else if bitOf m.param 2 then
    let i := if bitOf m.param 3 then d.natAbs else d.toNat
    evReadF32 a (m.addr + 4 * (min i (m.imm0.toNat - 1)))
  else pure .zero

/-- Whether a slot is a RESID of the operation's own C (R150, R153). -/
def readsOwnC (op : OpDesc) (m : Modifier) : Bool := m.kind = 0x13 && m.src = 3 && m.addr = op.c.base

/-- The side value of an epilogue slot (R153): `x` is C's element offset, `f` the fuse value. -/
def epiSide (e : TileEnv) (m : Modifier) (o row col : Nat) (f : Val) : Ev Val :=
  let fm := ((fmtOf m.fmt).getD (plainFmt .fp32))
  match m.src with
  | 0 => evInput e.op.arith (f32Val m.imm0)
  | 1 => evSide evRead fm e.op.arith m.addr (colNumber e o col)
  | 2 => evSide evRead fm e.op.arith m.addr (rowNumber e o row)
  | 3 => evSide (if readsOwnC e.op m then evReadOpen e.foreignR else evRead) fm e.op.arith m.addr (elemOffset e.bounds .c row col 0 o)
  | _ => evInput e.op.arith f

/-- One arithmetic slot on one element (R152, R159, R170). -/
def evSlotElem (e : TileEnv) (m : Modifier) (o row col pr pc : Nat) (f v : Val) : Ev Val := do
  match m.kind with
  | 0x12 =>
    let f ← if m.param = 7 || m.param = 8 then evInput e.op.arith f else pure f
    evRound e.op.arith (actRaw e.op.arith m.param v f)
  | 0x14 =>
    let b ← evDistBias m e.op.arith pr pc
    evRound e.op.arith (addVal v b)
  | 0x11 =>
    let s ← epiSide e m o row col f
    evRound e.op.arith (mulVal v s)
  | _ =>
    let s ← epiSide e m o row col f
    evRound e.op.arith (addVal v s)

/-- The value at a column of a grid's row. DESIGN CHOICE (notes/assumptions 123): a column that the producer has not computed, since its
Lk of R179 ends before it, reads as +0 (R144). -/
def gridAt (g : Grid) (m : Nat) (i : Nat) : Val := (((g.find? (·.1 = m)).map (·.2)).getD []).getD i .zero

/-- An arithmetic slot over a tile (R152). -/
def evArithSlot (e : TileEnv) (m : Modifier) (t : TilePlace) (fuse g : Grid) : Ev Grid :=
  let needsPos := m.kind = 0x14
  g.mapM fun r => do
    let pr ← if needsPos then evPos e.posA (rowNumber e t.o r.1) else pure 0
    let vs ← (List.range r.2.length).mapM fun i => do
      let col := t.n0 + i
      let pc ← if needsPos then evPos e.posB (colNumber e t.o col) else pure 0
      evSlotElem e m t.o r.1 col pr pc (gridAt fuse r.1 i) (r.2.getD i .nan)
    pure (r.1, vs)

/-- The start of a statistic (R161). -/
def statStart (param : Nat) : Val := if param = 2 then .inf true else .zero

/-- The fold of a value into a partial (R161). -/
def statFold (a : Arith) (param : Nat) (p v : Val) : Ev Val :=
  match param with
  | 0 => evRound a (addVal p v)
  | 1 =>
    let q := mulVal v v
    let s := addVal p q.1
    evRound a (s.1, q.2 ||| s.2)
  | 2 => pure (maxVal p v)
  | _ => pure (maxVal p v.abs)

/-- The combine of a partial into the final (R161). -/
def statCombine (a : Arith) (param : Nat) (f p : Val) : Ev Val :=
  if param ≤ 1 then evRound a (addVal f p) else pure (maxVal f p)

/-- The FP32 encoding of a value that FP32 holds exactly; NaN is the canonical one (R61). -/
def f32Bits (v : Val) : BitVec 32 := (roundF32 { sat := false, ftz := false } v).1

/-- The FP32 word of a partial. DESIGN CHOICE (notes/assumptions 107): a MAX or ABSMAX over a scaled A can be a value beyond FP32,
for which the manual states no word; it is a free value. -/
def evStatBits (v : Val) : Ev (BitVec 32) :=
  match v with
  | .fin _ m k => if magLt m k 1 128 then pure (f32Bits v) else do
    let r ← get
    set { r with free := r.free + 1 }
    pure (BitVec.ofNat 32 (Config.free r.free))
  | _ => pure (f32Bits v)

/-- N tiles of 64 columns (R162). -/
def nTiles (e : TileEnv) : Nat := (boundFor e.bounds .n + 63) / 64

/-- Whether a row is a pad row: its position word is PAD (R167), in a clause that names row positions. -/
def isPadRow (e : TileEnv) (m : Mem) (o row : Nat) : Bool :=
  e.posA != 0 && natOfBytes (readBytes m.bytes (e.posA + 4 * rowNumber e o row) 4) = padPos

/-- Bytes that are an output of a row: unpredictable in a pad row (R185). -/
def evRowOut (e : TileEnv) (o row : Nat) (bs : List (Int × Byte)) : Ev (List (Int × Byte)) := do
  if isPadRow e (← get).mem o row then
    let xs ← evFreeBytes bs.length
    pure ((bs.zip xs).map fun p => (p.1.1, p.2))
  else pure bs

/-- ROWRED: one partial per row and N tile of 64 columns (R161, R162). A DOT tile has 256 columns (R173), so it writes up
to four of them (notes/assumptions 92). -/
def evRowRed (e : TileEnv) (m : Modifier) (t : TilePlace) (g : Grid) : Ev Unit :=
  g.forM fun r => do
    let pad := isPadRow e (← get).mem t.o r.1
    let groups := rangeFrom (t.n0 / 64) ((t.n1 + 63) / 64)
    groups.forM fun j => do
      let vs := (r.2.drop (64 * j - t.n0)).take 64
      let p ← vs.foldlM (statFold e.op.arith m.param) (statStart m.param)
      let p ← if pad then evFreeF32 else pure p
      evWrite32 (m.addr2 + 4 * (rowNumber e t.o r.1 * nTiles e + j)) (← evStatBits p)

/-- COLRED: one partial per column and group of 16 rows (R161, R162). -/
def evColRed (e : TileEnv) (m : Modifier) (t : TilePlace) (g : Grid) : Ev Unit :=
  let q' := (boundFor e.bounds .m + 15) / 16
  (rangeFrom (t.m0 / 16) ((t.m1 + 15) / 16)).forM fun q =>
    (rangeFrom t.n0 t.n1).forM fun n => do
      let rows := g.filter (fun r => r.1 / 16 = q && n - t.n0 < r.2.length)
      if rows.isEmpty then pure ()
      else
        let p ← rows.foldlM (fun p r => statFold e.op.arith m.param p (r.2.getD (n - t.n0) .nan)) (statStart m.param)
        evWrite32 (m.addr2 + 4 * ((t.o * q' + q) * boundFor e.bounds .n + n)) (← evStatBits p)

/-- A row of C as encoded: elements by column, and scales by the column of their block's first element. -/
structure CRow where
  m : Nat
  elems : List (Nat × Nat)
  scales : List (Nat × Nat)
  deriving DecidableEq, Repr

/-- One block of 32 columns of a scaled C from column `c0` (R124, R158): encoded elements (with the padding places),
scale, and the values that later slots see. -/
def evCBlock (e : TileEnv) (c0 : Nat) (vs : List Val) : Ev (List (Nat × Nat) × (Nat × Nat) × List Val) := do
  let r := encodeBlock e.op.c.fmt.code vs
  evRaise r.2.2
  let seen := (r.2.1.take vs.length).map fun x => match scaleExp r.1 with
    | none => Val.nan
    | some k => (elemPart e.op.c.fmt x).scaleBy k
  pure ((rangeFrom c0 (c0 + 32)).zip r.2.1, (c0, r.1), seen)

/-- Conversion of one row to C's format (R79, R158): what is written, and the values that later slots see. DESIGN CHOICE
(notes/assumptions 127): at a column that PAGESCATTER keeps out of C, later slots see v as it is. -/
def evConvertRow (e : TileEnv) (n0 : Nat) (r : Nat × List Val) : Ev (CRow × (Nat × List Val)) := do
  if e.op.c.fmt.scaled then
    let blocks := rangeFrom 0 ((r.2.length + 31) / 32)
    let out ← blocks.mapM fun b => do
      let vs := (r.2.drop (32 * b)).take 32
      if keptFromC e.op (n0 + 32 * b) then pure ([], [], vs)
      else
        let x ← evCBlock e (n0 + 32 * b) vs
        pure (x.1, [x.2.1], x.2.2)
    pure ({ m := r.1, elems := (out.map (·.1)).flatten, scales := (out.map (·.2.1)).flatten },
          (r.1, (out.map (·.2.2)).flatten))
  else
    let out ← (List.range r.2.length).mapM fun i => do
      let v := r.2.getD i .nan
      if keptFromC e.op (n0 + i) then pure (none, v)
      else if e.op.intout then
        pure (some (n0 + i, intWord v), v)
      else
        let b ← evFlagged (roundTo e.op.c.fmt.code e.op.arith v)
        pure (some (n0 + i, b), elemPart e.op.c.fmt b)
    pure ({ m := r.1, elems := out.filterMap (·.1), scales := [] }, (r.1, out.map (·.2)))
where
  /-- An INT32 output word (R98). -/
  intWord (v : Val) : Nat :=
    match v with
    | .fin s m k => (BitVec.ofInt 32 (signed s (m * 2 ^ k.toNat))).toNat
    | _ => 0

/-- 4-bit elements by offset as bytes by byte offset: the two halves of a byte together, and a lone element with the other
half 0 (R63, R124). DESIGN CHOICE (notes/assumptions 108): so too where the N stride of an unscaled C leaves the other half of
every byte without an element. -/
def packNibbles : List (Int × Nat) → List (Int × Nat)
  | (x, v) :: (y, u) :: r =>
    if x % 2 = 0 && y = x + 1 then (x / 2, v % 16 + 16 * (u % 16)) :: packNibbles r
    else lone x v :: packNibbles ((y, u) :: r)
  | [(x, v)] => [lone x v]
  | [] => []
where
  /-- A byte with one element. -/
  lone (x : Int) (v : Nat) : Int × Nat := (x / 2, if x % 2 = 0 then v % 16 else 16 * (v % 16))

/-- The bytes of the elements of a row: (byte address, byte), in ascending column. -/
def elemBytes (w : Nat) (xs : List (Int × Nat)) (base : Nat) : List (Int × Byte) :=
  if w = 4 then (packNibbles xs).map fun p => ((base : Int) + p.1, BitVec.ofNat 8 p.2)
  else
    xs.flatMap fun x =>
      let a : Int := base + x.1 * ((w / 8 : Nat) : Int)
      (List.range (w / 8)).map fun (i : Nat) => (a + i, BitVec.ofNat 8 (x.2 / 256 ^ i))

/-- The bytes that a row of C consists of, at a given base for elements and for scales. -/
def rowBytes (e : TileEnv) (o base scaleBase : Nat) (r : CRow) : List (Int × Byte) :=
  let w := codeWidth e.op.c.fmt.code
  let off := fun col => elemOffset e.bounds .c r.m col 0 o
  elemBytes w (r.elems.map fun p => (off p.1, p.2)) base ++
    r.scales.map fun p => ((scaleBase : Int) + off p.1 / 32, BitVec.ofNat 8 p.2)

/-- Bytes at addresses as runs: neighbours that follow one another are one run. -/
def runsOf (bs : List (Int × Byte)) : List (Int × List Byte) :=
  bs.foldr (fun p acc =>
    match acc with
    | (a, xs) :: r => if p.1 + 1 = a then (p.1, p.2 :: xs) :: r else (p.1, [p.2]) :: acc
    | [] => [(p.1, [p.2])]) []

/-- Write the bytes of a row of C, each run as one write (R447). -/
def evWriteScattered (bs : List (Int × Byte)) : Ev Unit := do
  let cs ← bs.mapM evByteC
  (runsOf cs).forM fun r => evWrite r.1 r.2

/-- Hand bytes to a fabric entry (R160, R303): with NOC = 0 source byte a - SRC, and C must lie in the source range;
with NOC = 1 the byte's own offset, scales never handed. -/
def evHand (e : TileEnv) (o : Nat) (entry : Nat) (rows : List CRow) : Ev Unit :=
  match e.trig[entry]? with
  | none => evFault
  | some t =>
    rows.forM fun r => do
      let bs ← evRowOut e o r.m
        (if e.op.noc then rowBytes e o 0 0 { r with scales := [] }
         else rowBytes e o e.op.c.base e.op.c.scaleBase { r with scales := [] })
      let src : Int := if e.op.noc then 0 else t.src
      let below := fun (a : Int) => match (e.srcEnds[entry]?).join with
        | some n => e.op.noc || decide (a < n)
        | none => true
      if bs.all (fun p => src ≤ p.1 && below p.1) then
        modify fun run => { run with handed := run.handed ++ bs.map fun p => (entry, (p.1 - src).toNat, p.2) }
      else evFault

/-- PAGESCATTER over a tile (R203, R204); a block that the step writes a second time becomes unpredictable (R205). -/
def evScatter (e : TileEnv) (m : Modifier) (t : TilePlace) (g : Grid) : Ev Unit := do
  let s ← evSet m.addr
  let width := s.nheads * s.dh
  let partList := if s.parts = 1 then [0] else if s.parts = 2 then [1] else [0, 1]
  let c0 := m.imm0.toNat
  let c1 := m.imm1.toNat
  evCheck (c1 - c0 = partList.length * width && c1 ≤ boundFor e.bounds .n)
  g.forM fun r => do
    let rho := rowNumber e t.o r.1
    let p ← evPos e.posA rho
    let ri ← evNat (s.rowmap + 4 * rho) 4
    if p = padPos || ri = 0xFFFFFFFF then pure ()
    else
      match (← evSeq s ri) with
      | none => pure ()
      | some slot =>
        let blocks := (rangeFrom 0 ((r.2.length + 31) / 32)).filter fun b =>
          c0 ≤ t.n0 + 32 * b && t.n0 + 32 * b < c1
        blocks.forM fun b => do
          let c := t.n0 + 32 * b - c0
          let part := partList.getD (c / width) 0
          let head := s.head0 + c % width / s.dh
          let dim := c % s.dh
          let key : ListKey := { dir := s.dir, slot := slot, layer := s.layer, head := head }
          let l := listOf e.walk.lists key
          let _ ← evRead (setHead s key) 32
          if p < l.npos then
            -- one rewrite per row and list, counted at the list's first column (R204)
            if dim = 0 && c / width = 0 then modify fun run => { run with rewrites := run.rewrites + 1 } else pure ()
          else
            match l.entries[p / 256]? with
            | none => evFault
            | some en =>
              evEntry l (p / 256)
              let x := encodeBlock (if en.fp4 then .e2m1 else .e4m3) ((r.2.drop (32 * b)).take 32)
              evRaise x.2.2
              let at' := placeOf s.dh en.fp4 (p % 256) part dim
              let els := packElems (if en.fp4 then 4 else 8) x.2.1
              let block := (en.tier, en.slot + at'.2)
              if e.scattered.contains block || (← get).scattered.contains block then
                evWriteSlot en at'.1 (← evFreeBytes els.length)
                evWriteSlot en at'.2 (← evFreeBytes 1)
              else
                evWriteSlot en at'.1 els
                evWriteSlot en at'.2 [BitVec.ofNat 8 x.1]
              modify fun run =>
                let w : Written := { key := key, pos := p, part := part }
                { run with
                  scattered := block :: run.scattered
                  written := if run.written.contains w then run.written else run.written ++ [w] }
where
  /-- Bytes of a slot written: in device memory, or in the host spill area (R194). -/
  evWriteSlot (en : PageEntry) (off : Nat) (bs : List Byte) : Ev Unit :=
    if en.tier = 2 then
      modify fun r => if r.fault || anyUncorrectable r.events then r else
        { r with mem := { r.mem with spill := writeBytes r.mem.spill (en.slot + off) bs } }
    else do
      evWriteApart (en.slot + off) bs
      modify fun r => { r with wrote := (List.range bs.length).map (en.slot + off + ·) ++ r.wrote }

/-- The slots after or instead of CONVERT: what has been encoded so far, and the grid. -/
structure EpiState where
  grid : Grid
  rows : Option (List CRow)
  deriving DecidableEq, Repr

/-- Conversion of the whole tile to C's format (R158). -/
def evConvert (e : TileEnv) (t : TilePlace) (s : EpiState) : Ev EpiState := do
  let out ← s.grid.mapM (evConvertRow e t.n0)
  pure { grid := out.map (·.2), rows := some (out.map (·.1)) }

/-- One epilogue slot (R152, R158). -/
def evEpiSlot (e : TileEnv) (t : TilePlace) (fuse : Grid) (s : EpiState) (m : Modifier) : Ev EpiState := do
  match m.kind with
  | 0x15 => evConvert e t s
  | 0x16 =>
    evRowRed e m t s.grid
    pure s
  | 0x17 =>
    evColRed e m t s.grid
    pure s
  | 0x18 =>
    evScatter e m t s.grid
    pure s
  | 0x19 =>
    evHand e t.o m.imm0.toNat (s.rows.getD [])
    pure s
  | _ =>
    let g ← evArithSlot e m t fuse s.grid
    pure { s with grid := g }

/-- Record where a STEPOUT operation writes (R142). -/
def evNote (stepout : Bool) (bs : List (Int × Byte)) : Ev Unit :=
  if stepout then modify fun r => { r with outBytes := r.outBytes ++ bs.map fun p => p.1.toNat } else pure ()

/-- The epilogue of a tile and its writing (R158): the grid after the last slot is what a fused operation reads. -/
def evEpilogue (e : TileEnv) (t : TilePlace) (fuse g : Grid) : Ev Grid := do
  let s ← e.op.epi.foldlM (evEpiSlot e t fuse) { grid := g, rows := none }
  let s ← (match s.rows with
    | some _ => pure s
    | none => do
      let c ← evConvert e t s
      pure { grid := s.grid, rows := c.rows })
  if e.op.noc then pure ()
  else
    (s.rows.getD []).forM fun r => do
      let bs ← evRowOut e t.o r.m (rowBytes e t.o e.op.c.base e.op.c.scaleBase r)
      evWriteScattered bs
      evNote e.op.stepout bs
  pure s.grid

/-- One operation's part of a tile: product or vector input, then the epilogue. -/
def evOpTile (e : TileEnv) (t : TilePlace) (fuse : Grid) : Ev Grid := do
  evEnter e
  let g ← if e.op.kind = .vector then evVectorIn e t else evProduct e t
  evEpilogue e t fuse g

/-- The fuse buffer of a context (R144): FP32 rows of 64 columns behind the accumulators. -/
def evFuseBuffer (e : TileEnv) (t : TilePlace) (g : Grid) : Ev Unit :=
  modify fun r => { r with cellBytes := r.cellBytes ++ g.map fun x =>
    (e.op.tm * 64 * accBytes e.op + (x.1 - t.m0) * 256, x.2.flatMap fun v => bytesOfNat 4 (f32Bits v).toNat) }

/-- A stage's operations on one tile, in order, each handing its last values to the next (R144). -/
def evStageTile : List TileEnv → TilePlace → Grid → Ev Unit
  | [], _, _ => pure ()
  | e :: r, t, fuse => do
    let g ← evOpTile e t fuse
    if r.isEmpty then pure () else evFuseBuffer e t g
    evStageTile r t g

/-! ### What an operation writes (R112, R124, R162, R171) -/

/-- The addresses of a row of C, in ascending column. -/
def rowAddrs (e : TileEnv) (o m : Nat) : List Nat :=
  let nb := boundFor e.bounds .n
  let cols := (rangeFrom 0 (if e.op.c.fmt.scaled then (nb + 31) / 32 * 32 else nb)).filter fun n =>
    !keptFromC e.op (if e.op.c.fmt.scaled then n / 32 * 32 else n)
  let heads := if e.op.c.fmt.scaled then cols.filter (· % 32 = 0) else []
  (rowBytes e o e.op.c.base e.op.c.scaleBase
    { m := m, elems := cols.map fun n => (n, 0), scales := heads.map fun n => (n, 0) }).map (·.1.toNat)

/-- Every row of an operation, as (outer number, row). -/
def rowsOf (e : TileEnv) : List (Nat × Nat) :=
  (List.range (outerCount e.bounds)).flatMap fun o => (List.range (boundFor e.bounds .m)).map fun m => (o, m)

/-- The addresses of C of an operation; none with NOC = 1. -/
def cAddrs (e : TileEnv) : List Nat := if e.op.noc then [] else (rowsOf e).flatMap fun r => rowAddrs e r.1 r.2

/-- The words that a ROWRED or COLRED slot writes: partials and finals (R162), as (start, length). -/
def slotSpans (e : TileEnv) (m : Modifier) : List (Nat × Nat) :=
  let oc := outerCount e.bounds
  let mb := boundFor e.bounds .m
  let nb := boundFor e.bounds .n
  if m.kind = 0x16 then [(m.addr2, 4 * partialWords m.kind oc mb nb), (m.addr, 4 * oc * mb)]
  else if m.kind = 0x17 then [(m.addr2, 4 * partialWords m.kind oc mb nb), (m.addr, 4 * oc * nb)]
  else []

/-- The row statistics that SOFTMAX writes (R171). -/
def statSpans (e : TileEnv) : List (Nat × Nat) :=
  if e.op.kind = .softmax then [(e.op.b.base, 8 * outerCount e.bounds * boundFor e.bounds .m)] else []

/-! ### Combines (R163) -/

/-- The closing combine of a ROWRED for the rows of a band. -/
def evCloseRows (e : TileEnv) (m : Modifier) (o m0 m1 : Nat) : Ev Unit :=
  (rangeFrom m0 m1).forM fun r => do
    let rho := rowNumber e o r
    let f ← (List.range (nTiles e)).foldlM (fun f (j : Nat) => do
      let w ← evNat (m.addr2 + 4 * (rho * nTiles e + j)) 4
      statCombine e.op.arith m.param f (f32Val (BitVec.ofNat 32 w))) (statStart m.param)
    evWrite32 (m.addr + 4 * rho) (f32Bits f)

/-- The closing combine of a COLRED for the columns of a tile. -/
def evCloseCols (e : TileEnv) (m : Modifier) (o n0 n1 : Nat) : Ev Unit := do
  let q' := (boundFor e.bounds .m + 15) / 16
  let p ← evPagedList e o
  let n1 := if p.isSome then min n1 (keyBounds e p).2 else n1
  (rangeFrom n0 n1).forM fun n => do
    let f ← (List.range q').foldlM (fun f (q : Nat) => do
      let w ← evNat (m.addr2 + 4 * ((o * q' + q) * boundFor e.bounds .n + n)) 4
      statCombine e.op.arith m.param f (f32Val (BitVec.ofNat 32 w))) (statStart m.param)
    evWrite32 (m.addr + 4 * colNumber e o n) (f32Bits f)

end Sys2Proof.Machine
end

