-- ==== Sys2Proof/Machine/Attention.lean ====
section
/-!
DEFINITION. The functions of the memory-side units beside DOT (R167, R171, R176 to R178, R188, R189): SOFTMAX, RECOMP
and SOFTGRAD over one row group.
-/
namespace Sys2Proof.Machine

/-- Whether a row is a pad row (R167); a clause without position words for rows has none (notes/assumptions 44). -/
def evIsPad (e : TileEnv) (o m : Nat) : Ev Bool :=
  if e.posA = 0 then pure false
  else do
    let p ← evPos e.posA (rowNumber e o m)
    pure (p = padPos)

/-- The number of present columns of an outer number (R176): the key-count word, at most the N bound. -/
def evPresent (e : TileEnv) (o : Nat) : Ev Nat :=
  let nb := boundFor e.bounds .n
  if e.op.b.scaleBase = 0 then pure nb
  else do
    let k ← evNat (e.op.b.scaleBase + 4 * o) 4
    pure (min nb k)

/-- The scores of a row: FP32 at A (R176). Those at or above the walker's count are unpredictable (R179). -/
def evScores (e : TileEnv) (o m n : Nat) : Ev (List Val) :=
  (List.range n).mapM fun j => do
    let w ← evNatBy evReadA (e.op.a.base + 4 * elemOffset e.bounds .a m j 0 o) 4
    let known := match e.scoreKeys with
      | some ks => decide (j < ks.getD o 0)
      | none => true
    let w ← if known then pure w else natOfBytes <$> evFreeBytes 4
    evFlagged (readF32 e.op.arith (BitVec.ofNat 32 w))

/-- What reading a row has raised counts for nothing where the row outcomes of R177 give no flag. -/
def evForget (c : Bool) (before : Raised) : Ev Unit := modify fun r => if c then { r with raised := before } else r

/-- The statistics of a row (R171), which an earlier stage may have written (R178). -/
def evReadStats (e : TileEnv) (o m : Nat) : Ev (Val × Val) := do
  let at' : Int := e.op.b.base + 8 * rowNumber e o m
  let x ← evReadF32By (evReadOpen e.foreignS) e.op.arith at'
  let l ← evReadF32By (evReadOpen e.foreignS) e.op.arith (at' + 4)
  pure (x, l)

/-- e[j] = exp(round(s[j] - m)) (R176). -/
def evExpOf (a : Arith) (m s : Val) : Ev Val := do
  let d ← evRound a (addVal s m.neg)
  evRound a (expVal d, 0#7)

/-- What SOFTMAX gives for a row: probabilities, m, l (R176, R177). -/
def evSoftmaxRow (a : Arith) (pad : Bool) (ss : List Val) : Ev (List Val × Val × Val) :=
  let zeros := ss.map fun _ => Val.zero
  if pad || ss.isEmpty then do
    if pad then pure () else modify fun r => { r with emptyRows := r.emptyRows + 1 }
    pure (zeros, .inf true, .zero)
  else
    let m := ss.foldl maxVal (.inf true)
    if m = .inf true then do
      modify fun r => { r with emptyRows := r.emptyRows + 1 }
      pure (zeros, .inf true, .zero)
    else do
      let es ← ss.mapM (evExpOf a m)
      let qs ← (rangeFrom 0 ((es.length + 63) / 64)).mapM fun c =>
        ((es.drop (64 * c)).take 64).foldlM (fun q x => evRound a (addVal q x)) Val.zero
      let l ← qs.foldlM (fun l q => evRound a (addVal l q)) Val.zero
      let ps ← es.mapM fun x => evRound a (divVal x l)
      pure (ps, m, l)

/-- p = round(exp(round(s - m)) / l) (R188). -/
def evProb (a : Arith) (m l s : Val) : Ev Val := do
  let x ← evExpOf a m s
  evRound a (divVal x l)

/-- The probabilities that RECOMP gives for a row: +0 for a pad row and where m is minus infinity (R188). -/
def evRecompRow (a : Arith) (pad : Bool) (m l : Val) (ss : List Val) : Ev (List Val) :=
  if pad || m = .inf true then pure (ss.map fun _ => Val.zero) else ss.mapM (evProb a m l)

/-- Whether a row is one of "any other row" of R177: the only one whose subnormal scores raise FTZ. -/
def plainRow (pad : Bool) (ss : List Val) : Bool :=
  !pad && ss.all (fun v => v ≠ .nan && v ≠ .inf false) && 2 ≤ (ss.filter (· ≠ .inf true)).length

/-- Conversion and writing of a row of probabilities (R79, R176): scaled blocks run along columns from 0. -/
def evWriteProbs (e : TileEnv) (o m : Nat) (ps : List Val) : Ev Unit := do
  let c ← evConvertRow e 0 (m, ps)
  if e.op.noc then pure ()
  else
    let bs := rowBytes e o e.op.c.base e.op.c.scaleBase c.1
    evWriteScattered bs
    evNote e.op.stepout bs

/-- One row of SOFTMAX. -/
def evSoftmax (e : TileEnv) (o m : Nat) : Ev Unit := do
  evEnter e
  let pad ← evIsPad e o m
  let n ← evPresent e o
  let before := (← get).raised
  let ss ← evScores e o m n
  evForget (!plainRow pad ss) before
  let r ← evSoftmaxRow e.op.arith pad ss
  evWriteProbs e o m r.1
  let at' : Int := e.op.b.base + 8 * rowNumber e o m
  evWriteApart at' (bytesOfNat 4 (f32Bits r.2.1).toNat ++ bytesOfNat 4 (f32Bits r.2.2).toNat)

/-- One row of RECOMP. -/
def evRecomp (e : TileEnv) (o m : Nat) : Ev Unit := do
  evEnter e
  let pad ← evIsPad e o m
  let n ← evPresent e o
  let before := (← get).raised
  let ss ← evScores e o m n
  let st ← evReadStats e o m
  evForget (pad || st.1 = .inf true) before
  let ps ← evRecompRow e.op.arith pad st.1 st.2 ss
  evWriteProbs e o m ps

/-- One row of SOFTGRAD (R189): dP is read from C and dS written over it. -/
def evSoftgrad (e : TileEnv) (o m : Nat) : Ev Unit := do
  evEnter e
  let pad ← evIsPad e o m
  let n ← evPresent e o
  let before := (← get).raised
  let ss ← evScores e o m n
  let st ← evReadStats e o m
  let a := e.op.arith
  let d ← evReadF32 a (e.op.a.scaleBase + 4 * rowNumber e o m)
  let dps ← (List.range n).mapM fun j => evReadF32 a (e.op.c.base + 4 * elemOffset e.bounds .c m j 0 o)
  evForget (pad || st.1 = .inf true) before
  let ds ← (if pad || st.1 = .inf true then pure (ss.map fun _ => Val.zero)
    else (ss.zip dps).mapM fun x => do
      let p ← evProb a st.1 st.2 x.1
      let g ← evRound a (addVal x.2 d.neg)
      evRound a (mulVal p g))
  evWriteProbs e o m ds

/-- A row group: rows mt * TM + 16r to + 15, below the M bound (R173). -/
def evRowGroup (f : TileEnv → Nat → Nat → Ev Unit) (e : TileEnv) (o mt r : Nat) : Ev Unit :=
  let m0 := mt * e.op.tm + 16 * r
  (rangeFrom m0 (min (m0 + 16) (min ((mt + 1) * e.op.tm) (boundFor e.bounds .m)))).forM fun m => f e o m

end Sys2Proof.Machine
end

