-- ==== Sys2Proof/Machine/Convert.lean ====
section
/-!
DEFINITION. The convert instructions of the block vector engine (R77, R78) and the re-quantisation of a slot from FP8 to
FP4 by the same arithmetic (R79, R214).
-/
namespace Sys2Proof.Machine

/-! ### Instructions (R77) -/

/-- The fields of a convert instruction that keeps the rules of R78. -/
structure CvtInsn where
  src : Fmt
  dst : Fmt
  arith : Arith
  dstReg : Nat
  srcReg : Nat
  scl : Nat
  deriving DecidableEq, Repr

/-- The instruction of an opcode that 8 bytes spell; none where a field breaks R77 or R78. -/
def parseCvt (opcode : Nat) (x : W64) : Option CvtInsn := do
  let v := x.toNat
  let src ← fmtOf (bitsOf v 8 8)
  let dst ← fmtOf (bitsOf v 16 8)
  let arith ← arithOf (bitsOf v 24 4)
  let c : CvtInsn := {
    src := src, dst := dst, arith := arith, dstReg := bitsOf v 32 8, srcReg := bitsOf v 40 8, scl := bitsOf v 48 8 }
  let scaled := (decide (opcode = 0x42), decide (opcode = 0x41))
  let ok := bitsOf v 0 8 = opcode && bitsOf v 28 4 = 0 && bitsOf v 56 8 = 0 && c.dstReg < 64 && c.srcReg < 64 &&
    c.scl < 64 && (opcode ≠ 0x40 || c.scl = 0) && src.scaled = scaled.1 && dst.scaled = scaled.2
  whenOk ok c

/-! ### Vector registers -/

/-- The 256 lanes of a vector register of a block. -/
def veReg (d : Device) (g r : Nat) : List (BitVec 32) := Tab.getD d.veRegs (g * 64 + r) (List.replicate 256 0#32)

/-- The 8 bytes of a scale register of a block. -/
def veScale (d : Device) (g r : Nat) : List Byte := Tab.getD d.veScales (g * 64 + r) (List.replicate 8 0#8)

/-- A vector register written. -/
def setVeReg (g r : Nat) (vs : List (BitVec 32)) (d : Device) : Device :=
  { d with veRegs := Tab.put d.veRegs (g * 64 + r) vs }

/-- A scale register written. -/
def setVeScale (g r : Nat) (bs : List Byte) (d : Device) : Device :=
  { d with veScales := Tab.put d.veScales (g * 64 + r) bs }

/-- What a unit raises outside a tile joins the step's collection, for the clause that is issued, and for clause 0 where
none is (R81 does not say; notes/assumptions 93). DESIGN CHOICE (notes/assumptions 47): what is raised while no step is in flight, or
after local done and before the boundary, is dropped: R81 speaks of the tiles and units of a step. -/
def raiseCounts (r : Raised) (d : Device) : Device :=
  let clause := (d.work.issue.map (·.clause)).getD 0
  { d with work := { d.work with counts := collect d.work.counts clause r } }

/-! ### The three opcodes (R78) -/

/-- CVT of one lane. An element narrower than the lane lies in its low bits: the upper ones are not read, and are written
as 0 (R78 does not say; notes/assumptions 94). -/
def cvtLane (c : CvtInsn) (x : BitVec 32) : BitVec 32 × BitVec 7 :=
  let v := readPart c.src c.arith (x.toNat % 2 ^ codeWidth c.src.code)
  let r := roundTo c.dst.code c.arith v.1
  (BitVec.ofNat 32 r.1, v.2 ||| r.2)

/-- CVTD of one lane under its scale byte. -/
def cvtdLane (c : CvtInsn) (scale : Nat) (x : BitVec 32) : BitVec 32 × BitVec 7 :=
  let v := readScaled c.src c.arith scale (x.toNat % 2 ^ codeWidth c.src.code)
  let r := roundTo c.dst.code c.arith v.1
  (BitVec.ofNat 32 r.1, v.2 ||| r.2)

/-- The lanes of block k. -/
def laneBlock (xs : List (BitVec 32)) (k : Nat) : List (BitVec 32) := (xs.drop (32 * k)).take 32

/-- CVT on 256 lanes. -/
def cvtAll (c : CvtInsn) (xs : List (BitVec 32)) : List (BitVec 32) × Raised :=
  let rs := xs.map (cvtLane c)
  (rs.map (·.1), raise (orFlags (rs.map (·.2))))

/-- CVTQ on 256 lanes: elements, scale bytes, what is raised. -/
def cvtqAll (c : CvtInsn) (xs : List (BitVec 32)) : List (BitVec 32) × List Byte × Raised :=
  let reads := xs.map fun x => readPart c.src c.arith (x.toNat % 2 ^ codeWidth c.src.code)
  let blocks := (List.range 8).map fun k => encodeBlock c.dst.code ((((reads.map (·.1)).drop (32 * k))).take 32)
  (blocks.flatMap fun b => b.2.1.map (BitVec.ofNat 32), blocks.map fun b => BitVec.ofNat 8 b.1,
   joinAll (raise (orFlags (reads.map (·.2))) :: blocks.map (·.2.2)))

/-- CVTD on 256 lanes. -/
def cvtdAll (c : CvtInsn) (scales : List Byte) (xs : List (BitVec 32)) : List (BitVec 32) × Raised :=
  let rs := (List.range 8).flatMap fun k => (laneBlock xs k).map (cvtdLane c ((scales.getD k 0#8).toNat))
  (rs.map (·.1), raise (orFlags (rs.map (·.2))))

/-- Whether a convert instruction of a block can run: firmware runs and the block's engine is in use. -/
def veRuns (d : Device) (g : Nat) : Bool := fwRuns d && 0 < blockCells d g

/-- CVT (R78). -/
def devCvt (g : Fin 128) (x : W64) (d : Device) : Device :=
  match parseCvt 0x40 x with
  | none => d
  | some c =>
    if !veRuns d g.val then d
    else
      let r := cvtAll c (veReg d g.val c.srcReg)
      raiseCounts r.2 (setVeReg g.val c.dstReg r.1 d)

/-- CVT. -/
def execCvt (g : Fin 128) (x : W64) (s : State) : Host.Outcome State Fault Refusal := lift (devCvt g x) s

/-- CVTQ (R78): the scales go to SCL. -/
def devCvtq (g : Fin 128) (x : W64) (d : Device) : Device :=
  match parseCvt 0x41 x with
  | none => d
  | some c =>
    if !veRuns d g.val then d
    else
      let r := cvtqAll c (veReg d g.val c.srcReg)
      raiseCounts r.2.2 (setVeScale g.val c.scl r.2.1 (setVeReg g.val c.dstReg r.1 d))

/-- CVTQ. -/
def execCvtq (g : Fin 128) (x : W64) (s : State) : Host.Outcome State Fault Refusal := lift (devCvtq g x) s

/-- CVTD (R78): the scales come from SCL. -/
def devCvtd (g : Fin 128) (x : W64) (d : Device) : Device :=
  match parseCvt 0x42 x with
  | none => d
  | some c =>
    if !veRuns d g.val then d
    else
      let r := cvtdAll c (veScale d g.val c.scl) (veReg d g.val c.srcReg)
      raiseCounts r.2 (setVeReg g.val c.dstReg r.1 d)

/-- CVTD. -/
def execCvtd (g : Fin 128) (x : W64) (s : State) : Host.Outcome State Fault Refusal := lift (devCvtd g x) s

/-! ### Re-quantisation of a slot (R214) -/

/-- ARITH of re-quantisation. -/
def requantArith : Arith := { sat := false, ftz := false }

/-- One block of 32 elements in E4M3 with its scale, as E2M1 elements, scale and flags. -/
def requantBlock (scale : Nat) (es : List Nat) : List Nat × Nat × BitVec 7 :=
  let vs := es.map fun e => readScaled { code := .e4m3, scaled := true } requantArith scale e
  let fs := vs.map fun v => roundF32 requantArith v.1
  let q := encodeBlock .e2m1 (fs.map fun f => f32Val f.1)
  (q.2.1, q.1, orFlags (vs.map (·.2)) ||| orFlags (fs.map (·.2)) ||| q.2.2.flags)

/-- One position of one part of an FP8 slot: element bytes, scale bytes and flags in FP4. -/
def requantPlace (dh part q : Nat) (slot : List Byte) : List Byte × List Byte × BitVec 7 :=
  let rs := (List.range (dh / 32)).map fun b =>
    let at' := placeOf dh false q part (32 * b)
    requantBlock (field slot at'.2 1) ((slice slot at'.1 32).map (·.toNat))
  (rs.flatMap fun r => packElems 4 r.1, rs.map (fun r => BitVec.ofNat 8 r.2.1), orFlags (rs.map (·.2.2)))

/-- An FP8 slot re-quantised to FP4: the places below `count`, in the layout of R190, with the flags; the other places hold
free bytes from the count `ctr` on (R191; notes/assumptions 17). -/
def requantSlot (dh count ctr : Nat) (slot : List Byte) : List Byte × BitVec 7 :=
  let part := fun p => (List.range 256).map fun q =>
    let k := ctr + (256 * p + q) * (dh / 2 + dh / 32)
    if q < count then requantPlace dh p q slot
    else (freeRun k (dh / 2), freeRun (k + dh / 2) (dh / 32), 0#7)
  let k := part 0
  let v := part 1
  (k.flatMap (·.1) ++ v.flatMap (·.1) ++ k.flatMap (·.2.1) ++ v.flatMap (·.2.1),
   orFlags (k.map (·.2.2)) ||| orFlags (v.map (·.2.2)))

end Sys2Proof.Machine
end

