-- ==== Sys2Proof/Machine/Copies.lean ====
section
/-!
DEFINITION. The copies that firmware begins at action 4 (R212 to R219): of a page that an append must not write, of pages of
paused requests, spill by the water marks, prefetch; and how they end (R214 item 5, item 6).
-/
namespace Sys2Proof.Machine

/-! ### What is in flight (R213, R214 item 1) -/

/-- Whether a copy of an entry is in flight, or its edit is queued. -/
def copyBusy (d : Device) (k : ListKey) (index : Nat) : Bool :=
  d.role.copies.any (fun c => c.key = k && c.index = index) || d.role.col.fwEdits.any fun e => e.key = k && e.index = index

/-- The blocks whose memory a new slot of a list may lie in (R238). -/
def listPool (d : Device) (k : ListKey) (a : Nat) : Bool := (Tab.find d.role.reqs k.slot).all fun q => slotPool d q a

/-- Begin a copy of an entry into a free slot of the first of some tiers that has one; as things stand where none has. -/
def beginCopy (requant : Bool) (l : PageList) (index : Nat) (e : PageEntry) : List Nat → Device → Device
  | [], d => d
  | tier :: t, d =>
    let fp4 := e.fp4 || requant
    let s := freeSlotIn (if tier = 0 then listPool d l.key else fun _ => true) d tier (slotBytes l.dh fp4)
    match s.1 with
    | none => beginCopy requant l index e t d
    | some a => { s.2 with role := { s.2.role with copies := s.2.role.copies ++ [{
        requant := requant, key := l.key, index := index, source := e, dh := l.dh,
        dest := { slot := a, tier := tier, fp4 := fp4, shared := false }, gen := l.gen }] } }

/-- The entries of a list with their indices. -/
def indexed (l : PageList) : List (Nat × PageEntry) := (List.range l.entries.length).zip l.entries

/-! ### The copy of R212 -/

/-- Copy the last page of a list where something else names its slot, byte for byte in its tier and format. -/
def copyShared (d : Device) (l : PageList) : Device :=
  let i := l.npos / 256
  match l.entries[i]? with
  | some e =>
    if l.npos % 256 ≠ 0 && !e.shared && 1 < refCount d e.tier e.slot && !copyBusy d l.key i then beginCopy false l i e [e.tier] d
    else d
  | none => d

/-- The copies of R212 for the requests that the next steps may place. -/
def copyAppends (d : Device) : Device :=
  (candidates d).foldl (fun d q => (listsOfSlot d q.slot).foldl copyShared d) d

/-! ### Requests that are being paused (R214 item 6, R331) -/

/-- Whether a request's export, if there is one, has nothing left to send (R331): after a failure the pages that have started
still finish (R340); a mirror sends nothing. -/
def shippedAll (d : Device) (h : Nat) : Bool :=
  if mirrors d then true else
  match shipOf d h with
  | none => true
  | some s => s.closed ||
    (if s.failure.isSome then !s.pages.any underWay else s.pages.all fun p => p.seq.isSome && p.chunksLeft = 0)

/-- The lowest tier that a paused request's pages are spilled to: the host tier where there is one, else HBM where it has a
pool, else block memory (notes/assumptions 16). -/
def lowestTier (d : Device) : Nat :=
  if spillBytes d ≠ 0 && !d.onTaken then 2 else if (poolRanges d 1).isEmpty then 0 else 1

/-- Whether every private page of a paused request is FP4 and spilled (R214, R227). -/
def summaryReady (d : Device) (q : Request) : Bool :=
  (listsOfSlot d q.slot).all fun l => l.entries.all fun e => e.shared || (e.fp4 && lowestTier d ≤ e.tier)

/-- PAUSING requests whose pages are ready become PAUSED (R227, R331). -/
def settlePauses (d : Device) : Device :=
  let qs := (sortedReqs d).filter fun q => q.state = .pausing && summaryReady d q && shippedAll d (handleOfReq q)
  qs.foldl (fun d q => settlePause (handleOfReq q) d) d

/-- Re-quantise or spill one private page of a request that is being paused. -/
def settlePage (l : PageList) (d : Device) (x : Nat × PageEntry) : Device :=
  let e := x.2
  let low := lowestTier d
  if e.shared || copyBusy d l.key x.1 || pagePinned d l.key x.1 then d
  else if !e.fp4 then beginCopy true l x.1 e (e.tier :: (List.range (low - e.tier)).map (e.tier + 1 + ·)) d
  else if e.tier < low then beginCopy false l x.1 e [low] d
  else d

/-- The copies of the requests that are being paused, once everything eligible of their exports is delivered. -/
def copyPausing (d : Device) : Device :=
  let qs := (d.role.reqs.map (·.2)).filter fun q => q.state = .pausing && shippedAll d (handleOfReq q)
  qs.foldl (fun d q => (listsOfSlot d q.slot).foldl (fun d l => (indexed l).foldl (settlePage l) d) d) d

/-! ### Spill (R214 items 1 to 3, R219) -/

/-- A page that may be moved: its list, its place, its entry, and the step at whose boundary it last gained a position. -/
structure Movable where
  list : PageList
  index : Nat
  entry : PageEntry
  since : Nat
  handle : Nat
  deriving DecidableEq, Repr

/-- Whether a page of a request may be moved (R214 item 1, R257, R331): a private one that is full or whose request is paused or
finished, that the next step's plan does not read, with no copy in flight and no export waiting for it. -/
def mayMove (d : Device) (next : List Placement) (q : Request) (l : PageList) (x : Nat × PageEntry) : Bool :=
  let full := 256 * (x.1 + 1) ≤ l.npos
  let still := q.state = .pausing || q.state = .paused || q.state = .draining
  !x.2.shared && (full || still) && !(next.any fun p => placedHandle p = handleOfReq q) && !copyBusy d l.key x.1 &&
    !pagePinned d l.key x.1

/-- The order of spill (R214 item 3): oldest first. -/
def spillKey (m : Movable) : List Nat := [m.since, m.handle, m.list.key.layer, m.list.key.head, m.index]

/-- Insertion by spill order. -/
def insertSpill (m : Movable) : List Movable → List Movable
  | [] => [m]
  | x :: t => if decide (spillKey m ≤ spillKey x) then m :: x :: t else x :: insertSpill m t

/-- The pages of a tier that may be moved, in the order of R214 item 3. -/
def movablePages (d : Device) (next : List Placement) (tier : Nat) : List Movable :=
  ((d.role.reqs.map (·.2)).flatMap fun q => (listsOfSlot d q.slot).flatMap fun l =>
    ((indexed l).filter fun x => x.2.tier = tier && mayMove d next q l x).map fun x =>
      ({ list := l, index := x.1, entry := x.2, since := Tab.getD l.gains x.1 0, handle := handleOfReq q } : Movable)).foldr
    insertSpill []

/-- Granules of a tier that will be free once the copies in flight and the queued moves out of it have ended. -/
def freeSoon (d : Device) (tier : Nat) : Nat :=
  let leaving := (allRoles d).flatMap fun r =>
    (r.copies.filter fun c => c.source.tier = tier).map fun c => slotBytes c.dh c.source.fp4 / 512
  (poolCounts d tier).2 + leaving.foldl (· + ·) 0

/-- Copies out of a tier until the mark is reached. -/
def spillUntil (tier high total : Nat) : List Movable → Device → Device
  | [], d => d
  | m :: t, d =>
    if high * total ≤ 256 * freeSoon d tier then d
    else spillUntil tier high total t (beginCopy false m.list m.index m.entry [tier + 1] d)

/-- Spill from a tier to the one below (R214 item 2): it starts when less than LOW 256ths of the pool are free, and goes on at each
boundary until HIGH 256ths are, also where pages could not be moved meanwhile or a MOVE was discarded. -/
def spillTier (next : List Placement) (tier low high : Nat) (d : Device) : Device :=
  let t := poolCounts d tier
  let on := 256 * t.2 < low * t.1 || (d.spilling.contains tier && 256 * t.2 < high * t.1)
  let d := { d with spilling := d.spilling.filter (· ≠ tier) ++ if on then [tier] else [] }
  if on then spillUntil tier high t.1 (movablePages d next tier) d else d

/-- Spill of both tiers by CFG_KV_WATER (R219). -/
def spillPages (next : List Placement) (d : Device) : Device :=
  let w := fun (lo : Nat) => regField d .cfgKvWater lo 8
  spillTier next 1 (w 16) (w 24) (spillTier next 0 (w 0) (w 8) d)

/-! ### Prefetch (R214 item 4, R219) -/

/-- The candidates that firmware expects to place within the next steps, in placement order: as many as the budgets of those
steps hold (notes/assumptions 102). -/
def soonPlaced (d : Device) : List Request :=
  let most := regField d .cfgKvWater 32 8 * schedBudget d
  let rows := fun (q : Request) =>
    if q.state = .decode then 1 + depthOf q else min (ownLength q - q.npos) (schedChunkMax d)
  ((candidates d).foldl (fun (acc : List Request × Nat) q =>
    if acc.2 + rows q ≤ most then (acc.1 ++ [q], acc.2 + rows q) else acc) ([], 0)).1

/-- Whether a tier has more granules free than the mark at which its spill stops. -/
def roomAbove (d : Device) (tier : Nat) : Bool :=
  let t := poolCounts d tier
  regField d .cfgKvWater (8 + 16 * tier) 8 * t.1 < 256 * t.2

/-- Move one page of an expected request one tier up, while that tier has room. -/
def raisePage (next : List Placement) (q : Request) (l : PageList) (d : Device) (x : Nat × PageEntry) : Device :=
  if x.2.tier ≠ 0 && mayMove d next q l x && roomAbove d (x.2.tier - 1) then beginCopy false l x.1 x.2 [x.2.tier - 1] d
  else d

/-- The copies of prefetch: requests in the order in which they are expected, their entries in ascending index. -/
def prefetchPages (next : List Placement) (d : Device) : Device :=
  (soonPlaced d).foldl (fun d q =>
    let ls := listsOfSlot d q.slot
    let most := (ls.map (·.entries.length)).foldl max 0
    (List.range most).foldl (fun d i => ls.foldl (fun d l =>
      match l.entries[i]? with
      | some e => raisePage next q l d (i, e)
      | none => d) d) d) d

/-- The copies that firmware begins at the end of action 4 for the step that it has composed; on the shadow the twin's own
records say what moves. -/
def beginCopies (next : List Placement) (d : Device) : Device :=
  if shadowing d then d
  else
    let d := copyPausing (copyAppends d)
    if d.onTaken then d else prefetchPages next (spillPages next d)

/-! ### Copies that end (R214 items 5 and 6) -/

/-- Bytes written into a slot of device memory or of the host spill area. -/
def writeSlot (e : PageEntry) (bs : List Byte) (d : Device) : Device :=
  if e.tier = 2 then
    emit (.hostWrite (regField d .hifSpillBase 21 43 * 2 ^ 21 + e.slot) bs)
      { d with mem := { d.mem with spill := writeBytes d.mem.spill e.slot bs } }
  else { d with mem := (writeRange d.mem e.slot bs).1 }

/-- Firmware queues an edit for the next action 4. -/
def queueEdit (e : FwEdit) (d : Device) : Device := updateCol (fun c => { c with fwEdits := c.fwEdits ++ [e] }) d

/-- A copy leaves those in flight. -/
def endCopy (c : CopyRun) (d : Device) : Device := { d with role := { d.role with copies := d.role.copies.filter (· ≠ c) } }

/-- The edit of an ended copy. -/
def editOf (c : CopyRun) (flags : BitVec 7) : FwEdit :=
  { requant := c.requant, key := c.key, index := c.index, dest := c.dest, gen := c.gen, flags := flags }

/-- The copy in flight that a completion names. -/
def runOfCopy (d : Device) (requant : Bool) (c : TierCopy) : Option CopyRun :=
  d.role.copies.find? fun r =>
    r.requant = requant && r.key = c.key && r.index = c.index && r.dest = c.dest && r.gen = c.gen

/-- A copy of a page that ends (R214 item 5): byte-exact; where the page holds an uncorrectable word nothing moves and the
slot is lost (R414). -/
def copyDone (c : TierCopy) (d : Device) : Device :=
  match runOfCopy d false c with
  | none => d
  | some x =>
    let r := readSlot x.source (slotBytes x.dh x.source.fp4) (endCopy x d)
    let d := copyEvents r.2.1 r.2.2
    if anyUncorrectable r.2.1 then d else queueEdit (editOf x 0#7) (writeSlot x.dest r.1 d)

/-- A re-quantisation that ends (R214 item 6): it covers the positions that the list holds. -/
def requantDone (c : TierCopy) (d : Device) : Device :=
  match runOfCopy d true c with
  | none => d
  | some x =>
    let n := min 256 ((listAt d x.key).npos - 256 * x.index)
    let r := readSlot x.source (slotBytes x.dh false) (endCopy x d)
    let d := copyEvents r.2.1 r.2.2
    if anyUncorrectable r.2.1 then d
    else
      let y := requantSlot x.dh n d.freeCtr r.1
      queueEdit (editOf x y.2) (writeSlot x.dest y.1 { d with freeCtr := d.freeCtr + slotBytes x.dh true })

end Sys2Proof.Machine
end

