-- ==== Sys2Proof/Machine/Actions.lean ====
section
/-!
DEFINITION. The actions of a step boundary on one role (R39, R40): pages visible (R206), request records (R43, R227,
R273, R278, R280), release (R244, R282, R330, R367), firmware's own decisions of action 4 (R209, R214, R241, R242,
R257, R414), record and log (R48, R53, R81).
-/
namespace Sys2Proof.Machine

/-! ### Action 1: pages visible (R39, R206) -/

/-- The request of a slot. -/
def reqAt (d : Device) (slot : Nat) : Option Request := Tab.find d.role.reqs slot

/-- The acceptance limit of a list (R206, R278): the main lists' or the draft lists'. -/
def limitOf (d : Device) (k : ListKey) (q : Request) : Option Nat :=
  (Tab.find d.role.col.limits (handleOfReq q)).map fun l => if k.dir = mainDir d then l.1 else l.2

/-- Bytes read so far, what the reads found, and the device. -/
abbrev SlotReads := List Byte × List MemEvent × Device

/-- The bytes of one position of a page (R39): K elements, V elements, K scales, V scales (notes/assumptions 18). -/
def positionBytes (dh : Nat) (e : PageEntry) (p : Nat) (acc : SlotReads) : SlotReads :=
  let k := placeOf dh e.fp4 (p % 256) 0 0
  let v := placeOf dh e.fp4 (p % 256) 1 0
  let n := partBytes dh e.fp4
  [(k.1, n), (v.1, n), (k.2, dh / 32), (v.2, dh / 32)].foldl (fun acc x =>
    let r := readSlot { e with slot := e.slot + x.1 } x.2 acc.2.2
    (acc.1 ++ r.1, acc.2.1 ++ r.2.1, r.2.2)) acc

/-- The bytes of positions lo to hi - 1 of a page; a bad word that several of them meet is one word found (R450). -/
def spanBytes (l : PageList) (lo hi : Nat) (d : Device) : List Byte × Device :=
  match l.entries[lo / 256]? with
  | none => ([], d)
  | some e =>
    let r := (rangeFrom lo hi).foldl (fun acc p => positionBytes l.dh e p acc) ([], [], d)
    (r.1, stepEvents r.2.1 r.2.2)

/-- The newly visible positions of one page: its span CRC. -/
def spanOf (handle : Nat) (l : PageList) (after p : Nat) (d : Device) : Device :=
  let r := spanBytes l (max l.npos (256 * p)) (min after (256 * p + 256)) d
  updateCol (fun c => { c with spans := c.spans ++ [(handle, l.key.layer, l.key.head, p, crc32c r.1)] }) r.2

/-- A list with written positions (R206): NPOS advances over the run, cut to the acceptance limit. -/
def advanceList (d : Device) (l : PageList) : Device :=
  match reqAt d l.key.slot with
  | none => d
  | some q =>
    let ws := d.role.col.written
    let run := writtenRun ws l.key ws.length l.npos
    let a := match limitOf d l.key q with
      | some m => min m run
      | none => run
    if a = 0 then d
    else
      let after := l.npos + a
      let pages := rangeFrom (l.npos / 256) ((after + 255) / 256)
      let d := pages.foldl (fun d p => spanOf (handleOfReq q) l after p d) d
      let full := (pages.filter fun p => 256 * (p + 1) ≤ after).map fun p => (l.key, p)
      let gains := pages.foldl (fun t p => Tab.put t p d.job.number) l.gains
      putList { l with npos := after, lastGain := d.job.number, gains := gains } (updateCol (fun c => { c with full := c.full ++ full }) d)

/-- Own positions gained by a request at this boundary. -/
def noteGain (d : Device) (q : Request) : Device :=
  let n := ownNpos d q
  if n = q.npos then d
  else updateCol (fun c => { c with gained := c.gained ++ [(handleOfReq q, q.npos, n)] }) d

/-- Pages that became full are eligible for export (R330); nothing new after the cut. -/
def shipFull (d : Device) (s : Shipping) : Device :=
  if s.cut then d
  else
    match reqOf d s.handle with
    | none => d
    | some q =>
      let ps := d.role.col.full.filter fun f => f.1.slot = q.slot && f.1.dir = mainDir d
      updateShip s.handle (fun s => ps.foldl (fun s f =>
        match (listAt d f.1).entries[f.2]? with
        | some e => addPage d.job.number f.1 f.2 256 e s
        | none => s) s) d

/-- Action 1. -/
def actPages (d : Device) : Device :=
  let d := d.role.lists.foldl advanceList d
  let d := (sortedReqs d).foldl noteGain d
  let d := updateCol (fun c => { c with written := [] }) d
  (shipsOf d).foldl shipFull d

/-! ### Action 2: request records (R39, R43, R227, R273, R278, R280) -/

/-- The placements of a request in the step. -/
def placedOf (d : Device) (h : Nat) : List Placement := d.role.col.placements.filter fun p => placedHandle p = h

/-- The draft depth of a request's decode placement. -/
def depthPlaced (d : Device) (h : Nat) : Option Nat :=
  (placedOf d h).findSome? fun p => match p with
    | .decode _ _ depth => some depth
    | _ => none

/-- The draw of a role and index for a request. -/
def drawOf (d : Device) (h role j : Nat) : Option Drawn :=
  d.role.col.drawn.find? fun x => x.handle = h && x.role = role && x.j = j

/-- The accepted count (R278). -/
def acceptedCount (d : Device) (h depth : Nat) : Nat :=
  ((List.range depth).takeWhile fun j =>
    match drawOf d h 2 j, drawOf d h 3 (j + 1) with
    | some y, some x => y.token = x.token
    | _, _ => false).length

/-- The draws that a request's step would release, in order (R277, R278): the first token, drawn only while no token is out
(R535), or y0 to ya. -/
def drawsOf (d : Device) (q : Request) : List Drawn :=
  let h := handleOfReq q
  match depthPlaced d h with
  | some depth => (List.range (acceptedCount d h depth + 1)).filterMap (drawOf d h 2)
  | none => if q.tokensOut = 0 then (drawOf d h 1 0).toList else []

/-- Whether a token stops a request (R274). -/
def stopsAt (q : Request) (token : Nat) : Bool := q.sampler.stops.any fun t => t.toNat = token && token < 2 ^ 32 - 1

/-- The draws released (R274): none after the first that stops or fills MAX_NEW; `left` is MAX_NEW less TOKENS_OUT. -/
def cutDraws (q : Request) : Nat → List Drawn → List Drawn
  | 0, _ => []
  | _, [] => []
  | left + 1, y :: t => if stopsAt q y.token then [y] else y :: cutDraws q left t

/-- The draws of a request that this boundary releases. -/
def releasedDraws (d : Device) (q : Request) : List Drawn := cutDraws q (tokensLeft q) (drawsOf d q)

/-- The own length at which prefill ends, with the tokens out so far. -/
def stateAfter (q : Request) (placed : Bool) : ReqState :=
  match q.state with
  | .queued | .prefill =>
    if q.state = .queued && !placed then .queued
    else if q.npos < ownLength q then .prefill else .decode
  | s => s

/-- The least NPOS of a request's draft lists (R276). -/
def draftLength (d : Device) (q : Request) : Nat :=
  match (draftKeys d (scatterSets d) q.slot).map fun k => (listAt d k).npos with
  | [] => 0
  | x :: t => t.foldl min x

/-- Sampler state after a verification with depth d and a accepted (R278, R280). -/
def verified (depth a : Nat) (s : Sampler) : Sampler :=
  { s with
    drafted := min (s.drafted + depth) 0xFFFFFFFF
    accepted := min (s.accepted + a) 0xFFFFFFFF
    depth := if a = depth then min (depth + 1) s.dmax else max s.dmin (a + 1) }

/-- Whether the boundary releases the goal of a request (R43, R244). -/
def goalNow (q : Request) (placed : Bool) (tokens : Nat) : Bool :=
  !q.goalReleased && (if q.prefillOnly then placed && q.npos = q.promptLen && q.state = .decode else 0 < tokens)

/-- The record of one request at action 2. -/
def recordRequest (d : Device) (q : Request) : Device :=
  let h := handleOfReq q
  let n := d.job.number
  let placed := !(placedOf d h).isEmpty
  let npos := ownNpos d q
  let gains := (listsOfSlot d q.slot).any fun l => l.lastGain = n && 0 < l.npos
  let ys := releasedDraws d q
  let tokens := ys.map fun y => BitVec.ofNat 32 y.token
  let vm := vmax d
  let q := countPrompt vm npos q
  let counts := tokens.foldl (countPrompt.addCount vm) q.sampler.counts
  let s := { q.sampler with counts := counts, rngPos := q.sampler.rngPos + ys.length }
  let depth := depthPlaced d h
  let a := acceptedCount d h (depth.getD 0)
  let s := match depth with
    | some k => verified k a s
    | none => s
  let finished := q.finished || (match ys.getLast? with
    | some y => stopsAt q y.token || q.tokensOut + ys.length = q.maxNew
    | none => false)
  let q := { q with
    npos := npos, sampler := s, tokensOut := q.tokensOut + ys.length, released := q.released ++ tokens,
    placedEver := q.placedEver || placed, draftNpos := draftLength d q, finished := finished,
    lastStep := if (gains && placed) || !ys.isEmpty then n else q.lastStep }
  let q := { q with state := stateAfter q placed }
  let goal := goalNow q placed ys.length
  let late := q.deadline ≠ 0 && q.deadline ≤ n && !q.goalReleased && !goal && !q.late
  let q := { q with late := q.late || late, finished := q.finished || (goal && q.prefillOnly) }
  let d := updateCol (fun c => { c with
    releases := c.releases ++ ys.map fun y => (h, y.index, y.token)
    goals := if goal then c.goals ++ [h] else c.goals
    marked := if late then c.marked ++ [h] else c.marked }) d
  let d := if late then logItem 0x04 0 h 0 0 d else d
  let d := { d with stats := { d.stats with
    drafted := min (d.stats.drafted + depth.getD 0) 0xFFFFFFFF, accepted := min (d.stats.accepted + a) 0xFFFFFFFF } }
  setReq q d

/-- Action 2. -/
def actRecords (d : Device) : Device := (sortedReqs d).foldl recordRequest d

/-! ### Action 3: release (R39, R244, R282, R330, R367) -/

/-- The token record of one released token (R282): the first and second 8-byte words. -/
def tokenWords (q : Request) (n : Nat) (first accepted last stop nofinite : Bool) (index token : Nat) : List W64 :=
  let flags := ofBit first + 2 * ofBit last + 4 * ofBit stop + 8 * ofBit nofinite + 16 * ofBit accepted
  [BitVec.ofNat 64 (handleOfReq q + 2 ^ 32 * index), BitVec.ofNat 64 (token + 2 ^ 32 * flags + 2 ^ 48 * (n % 2 ^ 16))]

/-- A token packet to the token queue of a request; the taken role's ring q is ring 32 + q (R425). -/
def sendToken (q : Request) (ws : List W64) (d : Device) : Device :=
  if shadowing d then postPacket q.tq.val ws d
  else pushPacket (if d.onTaken then (q.tq.val + 32) % 64 else q.tq.val) ws (noteReleased q.tq.val ws d)

/-- The token records of one request. -/
def releaseTokens (d : Device) (q : Request) : Device :=
  let h := handleOfReq q
  let ts := d.role.col.releases.filter (·.1 = h)
  let k := ts.length
  let accepted := match depthPlaced d h with
    | some depth => acceptedCount d h depth
    | none => 0
  (ts.zip (List.range k)).foldl (fun d p =>
    let index := p.1.2.1
    let token := p.1.2.2
    let last := q.finished && p.2 + 1 = k
    let nofinite := d.role.col.drawn.any fun x =>
      x.handle = h && (x.role = 1 || x.role = 2) && x.index = index && x.nofinite
    sendToken q (tokenWords q d.job.number (index = q.promptLen) (p.2 < accepted) last (last && stopsAt q token)
      nofinite index token) d) d

/-- The completion of a GENERATE request whose goal or finish falls at this boundary (R244). -/
def releaseGenerate (d : Device) (q : Request) : Device :=
  let h := handleOfReq q
  let goal := d.role.col.goals.contains h
  let ended := q.finished && (q.state = .decode) && (d.role.col.releases.any fun r => r.1 = h)
  let x := ofBit goal + 2 * ofBit ended
  if q.prefillOnly || x = 0 then d else completeReq q codeOk x d.job.number q.tokensOut d

/-- The LATE completion of a marked request (R39, R366). -/
def releaseLate (d : Device) (h : Nat) : Device :=
  match reqOf d h with
  | some q => completeReq q 0x01 0 d.job.number q.deadline d
  | none => d

/-- The first bytes of an output row to host memory (R367), noted among what the boundary releases. -/
def writeOutput (addr : Nat) (bs : List Byte) (d : Device) : Device :=
  emit (.hostWrite addr bs) { d with bnd := { d.bnd with writes := d.bnd.writes ++ [(addr, bs)] } }

/-- The output of PREFILL_ONLY work and its completion (R367, R244). -/
def releaseOutput (d : Device) (q : Request) : Device :=
  let h := handleOfReq q
  if !q.prefillOnly || !d.role.col.goals.contains h then d
  else
    let row := ((d.role.col.rows.find? (·.1 = h)).map (·.2)).getD []
    let d := if q.outLen = 0 then d else writeOutput q.outAddr.toNat (row.take q.outLen) d
    completeReq q codeOk 3 d.job.number q.outLen d

/-- The export cut (R330): every remaining page with a visible position becomes eligible. -/
def cutShip (d : Device) (h : Nat) : Device :=
  match reqOf d h, shipOf d h with
  | some q, some s =>
    if s.cut then d
    else
      let d := updateShip h (fun s =>
        let s := (mainKeys d q.slot).foldl (fun s k =>
          let l := listAt d k
          (List.range l.entries.length).foldl (fun s i =>
            match l.entries[i]? with
            | some e => if 256 * i < l.npos then addPage d.job.number k i (min 256 (l.npos - 256 * i)) e s else s
            | none => s) s) s
        { s with cut := true }) d
      checkShip h d
  | _, _ => d

/-- Mark the goals released. -/
def markGoals (d : Device) : Device :=
  d.role.col.goals.foldl (fun d h =>
    match reqOf d h with
    | some q => setReq { q with goalReleased := true } d
    | none => d) d

/-- Action 3: tokens in ascending handle order and position, completions in the order of R39, the export cut. -/
def actRelease (d : Device) : Device :=
  let qs := sortedReqs d
  let d := qs.foldl releaseTokens d
  let d := qs.foldl releaseGenerate d
  let d := d.role.col.marked.foldl releaseLate d
  let d := qs.foldl releaseOutput d
  let d := markGoals d
  d.role.col.goals.foldl cutShip d

/-! ### Action 4: firmware's decisions (R209, R227, R241, R242, R257, R414) -/

/-- LATE clears where the goal has been released at this boundary (R235). -/
def clearLate (d : Device) : Device :=
  d.role.col.goals.foldl (fun d h =>
    match reqOf d h with
    | some q => setReq { q with late := false } d
    | none => d) d

/-- Whether the export of a request is done before action 0 (R227, R339); a request with no export has none to wait for. -/
def shipSettled (d : Device) (h : Nat) : Bool :=
  match shipOf d h with
  | none => true
  | some s => s.settled

/-- A finished request goes to DRAINING or is freed; a DRAINING one is freed once its export is (R227, R244). -/
def retire (d : Device) (q : Request) : Device :=
  let h := handleOfReq q
  if q.state = .draining then (if shipSettled d h then freeRequest q d else d)
  else if !q.finished || !q.goalReleased then d
  else
    if q.exporting && !shipSettled d h then setReq { q with state := .draining } d else freeRequest q d

/-- The exports that no longer belong to a request and are closed go. -/
def sweepShips (d : Device) : Device :=
  setShips ((shipsOf d).filter fun s => !(s.closed && (reqOf d s.handle).isNone)) d

/-- End a request whose slot is lost (R414): as a cancellation, with a STEP_FAULT completion of KIND 1. -/
def endLost (d : Device) (q : Request) : Device :=
  let d := completeReq q codeStepFault 0 d.job.number 0 (cancelRequest q d)
  updateCol (fun c => { c with ended := c.ended ++ [handleOfReq q] }) d

/-- The slots of device memory with a non-zero reference count that hold a word (R213, R452). -/
def slotsAt (d : Device) (w : Nat) : List SlotUse :=
  (slotsUsed d).filter fun u => u.1 ≠ 2 && u.2.1 ≤ w && w < u.2.1 + u.2.2

/-- The slot of a page and the ranges of its first `count` places. -/
def committedIn (dh count : Nat) (e : PageEntry) : SlotUse × List (Nat × Nat) :=
  ((e.tier, e.slot, slotBytes dh e.fp4), (slotAreas dh e.fp4).map fun a => (e.slot + a.1, count * a.2))

/-- The committed data (R414): the visible positions of every list, the pages of tree nodes, those of the variant tables. -/
def committed (d : Device) : List (SlotUse × List (Nat × Nat)) :=
  let whole := fun (ess : List (List PageEntry)) =>
    ((dirPlaces d).zip ess).flatMap fun p => p.2.map (committedIn (dimAt d p.1.1 p.1.2) 256)
  (allRoles d).flatMap (fun r =>
    (r.lists.flatMap fun l => (indexed l).map fun x => committedIn l.dh (min 256 (l.npos - 256 * x.1)) x.2) ++
      r.variants.flatMap fun v => whole v.2.pages) ++
    d.tree.flatMap fun n => whole (n.2.slots.map fun e => [e])

/-- The slots of device memory that hold committed data in a word (R414). -/
def committedAt (d : Device) (w : Nat) : List SlotUse :=
  ((committed d).filter fun p => p.1.1 ≠ 2 && p.2.any fun r => rangesMeet w 32 r.1 r.2).map (·.1)

/-- Whether an entry names a slot. -/
def namesSlot (u : SlotUse) (e : PageEntry) : Bool := e.tier = u.1 && e.slot = u.2.1

/-- The current role loses a slot: its requests end, its variants are unloaded (R414), and no copy into the slot goes on. -/
def loseInRole (u : SlotUse) (d : Device) : Device :=
  let gone := (sortedReqs d).filter fun q => (listsOfSlot d q.slot).any fun l => l.entries.any (namesSlot u)
  let d := updateCol (fun c => { c with fwEdits := c.fwEdits.filter fun e => !namesSlot u e.dest }) (gone.foldl endLost d)
  { d with role := { d.role with
      copies := d.role.copies.filter fun c => !namesSlot u c.dest
      variants := d.role.variants.filter fun v => !(v.2.pages.any fun p => p.any (namesSlot u)) } }

/-- A lost slot at action 4 (R414). DESIGN CHOICE (notes/assumptions 113): a descendant of an evicted node stays in the tree with a
PARENT that is free or used again. -/
def loseSlot (d : Device) (u : SlotUse) : Device :=
  let d := inSplit (loseInRole u) (loseInRole u d)
  let nodes := (d.tree.filter fun n => n.2.slots.any (namesSlot u)).map (·.1)
  let d := nodes.foldl (fun d i => evictNode i d) d
  let d := { d with withdrawn := d.withdrawn ++ (List.range (u.2.2 / 512)).map fun k => u.2.1 + 512 * k }
  let p := placeOfAddr u.2.1
  postEvent .slotLost p.1 p.2 0xF d.job.number u.2.1 d

/-- Whether a word lies in a slot pool of the sentence (R365). -/
def inPool (d : Device) (w : Nat) : Bool :=
  ((d.loaded.sentence.map (·.pools)).getD []).any fun p => p.base ≤ w && w < p.base + 512 * p.granules

/-- An uncorrectable word that a scrubber found, by the owner of its address (R452); one in a slot is lost with it. -/
def classScrubbed (d : Device) (w : Nat) : Device :=
  let p := placeOfAddr w
  if !(slotsAt d w).isEmpty then d
  else if inPool d w then { d with mem := putWord d.mem w (List.replicate 32 0#8) }
  else if inHub w then goFatal w d
  else stepError p.1 p.2 0xF w [] d

/-- The slots lost since the last boundary: those with committed data in a word that a step, a copy or an export found bad (R414),
and those with a non-zero reference count that hold one which a scrubber found (R452). -/
def loseSlots (d : Device) : Device :=
  let ws := d.job.scrubbed
  let us := (d.job.lost.flatMap (committedAt d) ++ ws.flatMap (slotsAt d)).eraseDups
  us.foldl loseSlot (ws.foldl classScrubbed { d with job := { d.job with scrubbed := [], lost := [] } })

/-- The queued MOVE and REQUANT edits (R209, R211). Firmware discards that of a page that an export has still to deliver
(R331). -/
def applyQueued (d : Device) : Device :=
  let es := d.role.col.fwEdits
  es.foldl (fun d e => if pagePinned d e.key e.index then d else applyFwEdit e d) (updateCol (fun c => { c with fwEdits := [] }) d)

/-- The composition of the next step as it stands at action 4, with the pages that it takes (R195, R209, R233); in replay that
of the entry that follows. -/
def nextDraft (d : Device) : Draft :=
  if d.hif.log.mode = 2 then
    match followingEntry d with
    | some e => replayDraft true (entryItems e) d
    | none => noDraft true d
  else composeNow true d

/-- CFG_REQ_COUNT, CFG_KV_TIER, CFG_KV_ALLOC, CFG_KV_LIVE and CFG_PREFIX_STAT (R220, R221, R247, R264). -/
def updateStats (d : Device) : Device :=
  let qs := (allRoles d).flatMap fun r => r.reqs.map (·.2.state)
  let count := fun (p : ReqState → Bool) => (qs.filter p).length
  let tiers := (List.range 3).map (tierCounts d)
  let named := (allRoles d).flatMap fun r => r.lists.flatMap fun l =>
    (l.entries.zip (List.range l.entries.length)).map fun p => ((p.1.tier, p.1.slot), min 256 (l.npos - 256 * p.2))
  let slots := (named.map (·.1)).eraseDups
  let live := slots.map fun s => ((named.filter (·.1 = s)).map (·.2)).foldl max 0
  { d with stats := { d.stats with
      running := count fun s => s = .queued || s = .prefill || s = .decode
      paused := count fun s => s = .pausing || s = .paused
      draining := count (· = .draining)
      held := ((allRoles d).map (·.held.length)).foldl (· + ·) 0
      tierTotal := tiers.map (·.1)
      tierUsed := tiers.map (·.2)
      kvAlloc := 256 * slots.length
      kvLive := live.foldl (· + ·) 0
      treeNodes := d.tree.length } }

/-- Held submits have been tried at one more boundary, that of their first try among them. -/
def ageHeld (d : Device) : Device :=
  { d with role := { d.role with held := d.role.held.map fun h => { h with waited := h.waited + 1 } } }

/-- What frees slots and what takes them at action 4, after the descriptors. -/
def retireAll (d : Device) : Device :=
  let d := clearLate (settleAllShares d)
  let d := tryHeld ((sortedReqs d).foldl retire d)
  sweepShips d

/-- Firmware's part of action 4 for the current role, in order: SHARE edits that wait, finished requests, held submits,
lost slots, queued edits, pauses that end, late requests and shortages, resumes, insertions into the tree, pages for the next
step, submits that have waited long enough, copies that begin. DESIGN CHOICE (notes/assumptions 113): a request that finishes or is
lost here is freed before the insertions, so its last full prompt pages are not inserted; the manual does not order the two. -/
def actFirmware (d : Device) : Device :=
  let d := settleAllShares (loseSlots (retireAll d))
  let d := settlePauses (applyQueued d)
  let d := if d.hif.log.mode = 2 then replayDecisions d
    else firmwareResumes (shortagePauses (latePauses d.role.col.marked d))
  let x := nextDraft (insertPages d.role.col.gained d)
  let d := if x.dev.onTaken then x.dev else { x.dev with poolNext := poolCount x.dev x.placed }
  beginCopies x.placed (expireHeld (ageHeld d))

/-- What goes on while action 4 of a replay or of a mirror is held: edits of copies that have ended apply, and further copies begin (R214,
R242). -/
def awaitProgress (d : Device) : Device := copyAppends (copyPausing (applyQueued d))

/-- Whether the copy of R212 of an append that a candidate may make is in flight. -/
def appendCopying (d : Device) : Bool :=
  (candidates d).any fun q => (listsOfSlot d q.slot).any fun l =>
    d.role.copies.any fun c => !c.requant && c.key = l.key && c.index = l.npos / 256

/-- Whether action 4 of a replayed boundary may go on (R55, R242): the entry that follows is there, for its pages are given
here; no request that a RESUME item names is still PAUSING for want of an edit; and what the entry that follows places may be
appended to (R212; notes/assumptions 103). That of a mirror waits for the copies of R212 that its primary's next order may rest on
(notes/assumptions 34). -/
def awaitOver (d : Device) : Bool :=
  let e := applyQueued d
  if mirrors d then !appendCopying e else
  let resumed := (laterItems (entryItems d.bnd.entry)).filter fun i => i.kind = 0x06
  !replaying d ||
    ((d.job.number = d.hif.log.endStep || (followingEntry d).isSome) &&
      (resumed.all fun i =>
        match reqOf e i.handle with
        | some q => q.state ≠ .pausing || (summaryReady e q && shippedAll e i.handle)
        | none => true) &&
      (followingEntry d).all fun x => replayReady (entryItems x) e)

/-! ### Action 5: record and log (R39, R46, R48, R53, R81) -/

/-- An item's 16 bytes (R54). -/
def itemBytes (i : LogItem) : List Byte :=
  bytesOfNat 1 i.kind ++ bytesOfNat 1 0 ++ bytesOfNat 2 i.aux ++ bytesOfNat 4 i.handle ++ bytesOfNat 4 i.a ++
    bytesOfNat 4 i.b

/-- The items of the step in log order. -/
def stepItems (c : Collect) : List LogItem := c.before ++ c.composed ++ c.items

/-- The order of spans in the digest (R48). -/
def spanKey (s : Nat × Nat × Nat × Nat × Nat) : List Nat := [s.1, s.2.1, s.2.2.1, s.2.2.2.1]

/-- Spans by handle, layer, KV head and page index. DESIGN CHOICE: the manual gives no order between a span of a draft-model
list and one of a main list with the same four; they keep the order in which action 1 has found them (notes/assumptions 100). -/
def sortSpans (ss : List (Nat × Nat × Nat × Nat × Nat)) : List (Nat × Nat × Nat × Nat × Nat) :=
  let rec ins (s : Nat × Nat × Nat × Nat × Nat) : List (Nat × Nat × Nat × Nat × Nat) → List (Nat × Nat × Nat × Nat × Nat)
    | [] => [s]
    | x :: t => if decide (spanKey s ≤ spanKey x) then s :: x :: t else x :: ins s t
  ss.foldr ins []

/-- The bytes of parts 1 to 7 of D(n) (R48). -/
def digestInput (prev : List Byte) (n : Nat) (c : Collect) : List Byte :=
  prev ++ bytesOfNat 8 n ++ (stepItems c).flatMap itemBytes ++
    c.releases.flatMap (fun r => bytesOfNat 4 r.1 ++ bytesOfNat 4 r.2.1 ++ bytesOfNat 4 r.2.2) ++
    (sortSpans c.spans).flatMap (fun s => bytesOfNat 4 s.2.2.2.2) ++ c.outputs.flatMap (bytesOfNat 4) ++
    bytesOfNat 4 c.counts.flags.toNat

/-- D(n) of the current role. -/
def stepDigest (d : Device) : List Byte := shake256_256 (digestInput d.role.digest d.job.number d.role.col)

/-- The 64-byte header and the items of a log entry (R53). -/
def logEntry (d : Device) (digest : List Byte) : List Byte :=
  let items := stepItems d.role.col
  let head := bytesOfNat 4 items.length ++ bytesOfNat 4 d.bnd.gen ++ bytesOfNat 8 d.job.number ++ padTo 32 digest ++
    bytesOfNat 4 (myRank d) ++ bytesOfNat 8 0
  let body := items.flatMap itemBytes
  head ++ bytesOfNat 4 (crc32c (head ++ body)) ++ body

/-- The flags and counts of the step applied to the error registers (R81, R180, R218, R283, R318); in SPLIT the second
role's join the first's, and the clause recorded is the lowest of both runs. -/
def applyCounts (d : Device) : Device :=
  let c := d.role.col.counts
  let e := d.errs
  let n := d.job.number
  let loc := match e.nonfiniteLoc, c.nonfiniteClause with
    | none, some k => some (n, k)
    | some x, some k => if d.onTaken && x.1 = n then some (n, min x.2 k) else some x
    | x, none => x
  { d with errs := { e with
      sticky := e.sticky ||| c.flags
      step := if d.onTaken then e.step ||| c.flags else c.flags
      underflow := satAdd48 e.underflow c.underflow
      nonfinite := satAdd48 e.nonfinite c.nonfinite
      nonfiniteLoc := loc
      emptyRows := satAdd48 e.emptyRows c.emptyRows
      rewrites := satAdd48 e.rewrites c.rewrites
      nofinite := satAdd48 e.nofinite c.nofinite
      drops := satAdd48 e.drops c.drops } }

/-- The digest chain goes on (R48); at the boundary that loaded a sentence it starts again from the initial digest, which the
registers then show (R46). -/
def chainDigest (digest : List Byte) (d : Device) : Device :=
  match d.role.initial with
  | some i => { d with role := { d.role with digest := i, digestStep := none, initial := none } }
  | none => { d with role := { d.role with digest := digest, digestStep := some d.job.number } }

/-- Write bytes of the log ring at a count, wrapping (R371). -/
def logWrite (l : LogState) (bs : List Byte) (d : Device) : Device :=
  let size := 2 ^ l.log2
  let off := l.dev % size
  let first := bs.take (size - off)
  let rest := bs.drop (size - off)
  let d := emit (.hostWrite (l.base + off) first) d
  if rest.isEmpty then d else emit (.hostWrite l.base rest) d

/-- Room of the log ring. -/
def logRoom (l : LogState) : Nat := 2 ^ l.log2 - (l.dev - l.host)

end Sys2Proof.Machine
end

