-- ==== Sys2Proof/Machine/Tiers.lean ====
section
/-!
DEFINITION. Tier copies and re-quantisations that complete (R214): they run across boundaries (R30), and each ends one copy
that firmware has begun.
-/
namespace Sys2Proof.Machine

/-- Work on the role that a copy names; the taken role exists in SPLIT alone. Where action 4 of a replay is held, the edit
applies in it (R242). -/
def onCopyRole (c : TierCopy) (f : Device → Device) (d : Device) : Device :=
  let f := fun (d : Device) => if d.bnd.ops.head? = some .hold then awaitProgress (f d) else f d
  if !serving d then d
  else if c.taken = d.onTaken then f d
  else if d.twin.taken.isSome then onOther f d
  else d

/-- TIER_COPY_DONE (R212, R214): the bytes are copied, and firmware queues a MOVE. -/
def devTierCopyDone (c : TierCopy) (d : Device) : Device := onCopyRole c (copyDone c) d

/-- TIER_COPY_DONE. -/
def execTierCopyDone (c : TierCopy) (s : State) (found : Found := []) : Host.Outcome State Fault Refusal :=
  lift (devTierCopyDone c ∘ noteFound found) s

/-- REQUANTISATION_DONE (R214): the page is re-quantised, and firmware queues a REQUANT. -/
def devRequantisationDone (c : TierCopy) (d : Device) : Device := onCopyRole c (requantDone c) d

/-- REQUANTISATION_DONE. -/
def execRequantisationDone (c : TierCopy) (s : State) (found : Found := []) : Host.Outcome State Fault Refusal :=
  lift (devRequantisationDone c ∘ noteFound found) s

end Sys2Proof.Machine
end

