-- ==== Sys2Proof/Machine/Twin.lean ====
section
/-!
DEFINITION. The pair of twins (R415 to R426): attaching, the records that a twin sends, the shadow of the other twin and
its boundaries, detaching, and the takeover by the survivor.
-/
namespace Sys2Proof.Machine

/-- Code of STATE in TWN_STATUS (R439). -/
def twinCode : TwinState → Nat
  | .unpaired => 0 | .attaching => 1 | .syncing => 2 | .paired => 3 | .mirrorPrimary => 4 | .mirror => 5 | .lost => 6
  | .split => 7

/-- The last BOUNDARY step applied to the shadow (R440). -/
def shadowStep (d : Device) : Option Nat := d.twin.shadow.bind (·.step)

/-- TWN_SHADOW_SIZE in bytes (R438). -/
def shadowSize (d : Device) : Nat := (shadowRange d).2

/-! ### The attach checks (R415, R418) -/

/-- Groups 1 to 63 that have both twins as members. -/
def groupsWith (d : Device) (node : Nat) : List Nat :=
  (d.role.groups.filter fun g => g.1 ≠ 0 && g.2.nodes.contains node).map (·.1)

/-- The enabled rings: submission n as n, completion 64 + n, token 128 + n. -/
def ringsOn (d : Device) : List Nat :=
  (List.finRange 64).flatMap fun n =>
    (if (ringCfg d (.hifSq n)).en then [n.val] else []) ++ (if (ringCfg d (.hifCq n)).en then [64 + n.val] else []) ++
      (if (ringCfg d (.hifTq n)).en then [128 + n.val] else [])

/-- The ring rules of a paired twin (R415): rings 32 to 63 of every kind enabled, no request on a ring above 31. -/
def pairRings (d : Device) : Bool :=
  let on := ringsOn d
  (List.range 32).all (fun k => on.contains (32 + k) && on.contains (96 + k) && on.contains (160 + k)) &&
    d.role.reqs.all (fun r => r.2.cq.val < 32 && r.2.tq.val < 32) && d.role.held.all fun h =>
      cqOf h.fetched < 32 && descField h.fetched.desc 41 0 6 < 32

/-- The HELLO record of this device. -/
def ownHello (d : Device) : Hello :=
  { measurement := d.boot.measurement, modelDigest := d.loaded.modelDigest.getD []
    sentenceDigest := (d.loaded.sentence.map (·.digest)).getD [], mode := d.twin.mode, primary := d.twin.primary
    rank := myRank d, members := if (groupOf d 0).isSome then memberCount d else 0, groupGen := d.job.gen
    node := nodeId d, shadowSize := shadowSize d, groupsWith := groupsWith d d.twin.node, rings := ringsOn d
    ringsOk := pairRings d, hasRequests := !d.role.reqs.isEmpty || !d.role.held.isEmpty }

/-- The shadow area lies in HBM and meets no slot pool, plan area or sentence image (R415). -/
def shadowAreaOk (d : Device) : Bool :=
  let a := shadowRange d
  match d.loaded.sentence with
  | none => false
  | some s => a.2 ≠ 0 && rangeInHbm a.1 a.2 && !rangesMeet a.1 a.2 s.dst s.len &&
      s.pools.all (fun p => !rangesMeet a.1 a.2 p.base (512 * p.granules)) &&
      s.plan.all fun p => !rangesMeet a.1 a.2 p.addr p.size

/-- The checks of R415 that both records show, and those of this device's own configuration. -/
def helloAgrees (d : Device) (peer : Hello) : Bool :=
  let me := ownHello d
  let same := me.measurement = peer.measurement && me.modelDigest = peer.modelDigest &&
    me.sentenceDigest = peer.sentenceDigest && me.mode = peer.mode && peer.node = d.twin.node
  if d.twin.mode = 1 then
    same && shadowAreaOk d && peer.shadowSize ≠ 0 && me.members ≠ 0 && me.members = peer.members &&
      me.groupGen = peer.groupGen && me.rank ≠ peer.rank && me.groupsWith.isEmpty && peer.groupsWith.isEmpty &&
      (trigTable d).all (·.group ≠ 0) && !me.primary && !peer.primary && me.ringsOk && peer.ringsOk
  else
    same && me.primary ≠ peer.primary && me.rings = peer.rings &&
      (if me.primary then me.members ≠ 0 && !peer.hasRequests else peer.members ≠ 0 && !me.hasRequests)

/-! ### Detaching (R422) -/

/-- The pair in a state without a twin; a shadow stays only where the state is LOST. -/
def dropTwin (st : TwinState) (d : Device) : Device :=
  { d with twin := { d.twin with
      state := st, left := 0, syncSent := false, synced := false, parked := none, unacked := [], detachNote := false, mismatchAt := none
      mirrorStart := none, orders := []
      peerHello := if st = .lost then d.twin.peerHello else none
      shadow := if st = .lost then d.twin.shadow else none } }

/-- A mirror that has taken over its primary's state serves no role once it is detached, until reset (R422). -/
def retireMirror (followed : Bool) (d : Device) : Device :=
  if followed then { d with twin := { d.twin with retired := true } } else d

/-- An attach that fails (R418): its descriptor completes with BAD_DESCRIPTOR. -/
def attachFail (d : Device) : Device :=
  retireMirror (mirrors d) (dropTwin .unpaired (complete d.twin.cq codeBad 0x41 0 0 0 d.twin.tag d.job.number 0 d))

/-- A mirror without its primary runs no step (R421, R423): it halts and waits for the host, keeping a step that has
reached local done. -/
def loneMirror (d : Device) : Device :=
  let d := if d.job.inFlight && !d.job.localDone then discardStep d else d
  if d.job.halted then d else haltMember d

/-- A fault detach (R422): the new state and the TWIN record, which names the last BOUNDARY that the shadow has had (R405). A
detached mirror serves no role until reset. -/
def faultDetach (st : TwinState) (tell : Bool) (d : Device) : Device :=
  let mirror := mirrors d
  let step := (shadowStep d).getD 0
  let d := if tell then sendTwin .detach d else d
  let d := deviceEvent .twin d.job.number (twinCode st + 2 ^ 16 * step) (dropTwin st d)
  if mirror && st = .lost then loneMirror d else retireMirror mirror d

/-- The twin port goes down, or a record is not acknowledged in time (R422). -/
def twinGone (d : Device) : Device :=
  match d.twin.state with
  | .attaching | .syncing => attachFail d
  | .paired | .mirrorPrimary | .mirror => faultDetach .lost false d
  | _ => d

/-- The twin ends by a TWIN_DETACH or a DETACH record (R422). -/
def cleanDetach (d : Device) : Device :=
  match d.twin.state with
  | .attaching | .syncing => attachFail d
  | .mirror | .paired | .mirrorPrimary => retireMirror (mirrors d) (dropTwin .unpaired d)
  | _ => d

/-! ### The descriptors (R418, R422) -/

/-- TWIN_ATTACH at action 4 (R418). -/
def applyTwinAttach (f : Fetched) (d : Device) : Device :=
  let x := f.desc
  let d := logDesc f d
  let mode := descField x 16 0 2
  let primary := descField x 16 2 1 = 1
  let node := descField x 20 0 32
  let free := d.twin.state = .unpaired || d.twin.state = .lost
  if !free || !(mode = 1 || mode = 2) || (mode = 1 && primary) || nodeCount d ≤ node || node = nodeId d then
    finishDesc f codeBad 0 d
  else
    let d := { d with twin := { d.twin.cleared with
      state := .attaching, mode := mode, primary := primary, node := node
      attachGen := (d.twin.attachGen + 1) % 2 ^ 32
      left := regField d .twnCfg 40 8, cq := cqOf f, tag := tagOf f } }
    sendTwin (.hello (ownHello d)) d

/-- TWIN_DETACH at action 4 (R422); with no twin it has no effect (R429). -/
def applyTwinDetach (f : Fetched) (d : Device) : Device :=
  let d := logDesc f d
  match d.twin.state with
  | .split =>
    match d.twin.taken with
    | some r =>
      if r.reqs.isEmpty && r.held.isEmpty then
        finishDesc f codeOk 0 { d with twin := d.twin.cleared }
      else finishDesc f codeBad 0 d
    | none => finishDesc f codeOk 0 d
  | .unpaired | .lost => finishDesc f codeOk 0 d
  | _ => finishDesc f codeOk 0 (cleanDetach (sendTwin .detach d))

/-- Action 4 of a boundary for an attach in progress (R418): HELLO compared, the wait counted, or the attach complete, once the
twin has acknowledged SYNC and every record through the boundary before (those of the step that ends here have its number). -/
def attachProgress (d : Device) : Device :=
  match d.twin.state with
  | .attaching =>
    match d.twin.peerHello with
    | some h =>
      if helloAgrees d h then
        { d with twin := { d.twin with state := .syncing, rank := h.rank } }
      else attachFail d
    | none =>
      if d.twin.left ≤ 1 then attachFail { d with twin := { d.twin with left := 0 } }
      else { d with twin := { d.twin with left := d.twin.left - 1 } }
  | .syncing =>
    let mirror := d.twin.mode = 2 && !d.twin.primary
    if d.twin.syncSent && (d.twin.unacked.all fun u => u.chunk.step = d.job.number) && (!mirror || mirrors d) then
      let d := { d with twin := { d.twin with
        state := if mirror then .mirror else if d.twin.mode = 2 then .mirrorPrimary else .paired } }
      complete d.twin.cq codeOk 0x41 0 0 0 d.twin.tag d.job.number 0 d
    else d
  | _ => d

/-- A DETACH record received earlier takes effect at action 4 (R422). -/
def detachNoted (d : Device) : Device := if d.twin.detachNote then cleanDetach d else d

/-! ### Slots in records (R417) -/

/-- The bytes of slots, by tier and address. -/
def slotBytesOf (us : List SlotUse) (d : Device) : List (Nat × Nat × List Byte) × Device :=
  us.foldl (fun acc u =>
    let r := readSlot { slot := u.2.1, tier := u.1, fp4 := false, shared := false } u.2.2 acc.2
    (acc.1 ++ [(u.1, u.2.1, r.1)], copyEvents r.2.1 r.2.2)) ([], d)

/-- The slot bytes of a record by place. -/
def bytesAt (bs : List (Nat × Nat × List Byte)) (e : PageEntry) : List Byte :=
  ((bs.find? fun b => b.1 = e.tier && b.2.1 = e.slot).map (·.2.2)).getD []

/-- One position's bytes written where `positionBytes` reads them. -/
def writePosition (k : ListKey) (p : Nat) (bs : List Byte) (d : Device) : Device :=
  let l := listAt d k
  match l.entries[p / 256]? with
  | none => d
  | some e =>
    let kp := placeOf l.dh e.fp4 (p % 256) 0 0
    let vp := placeOf l.dh e.fp4 (p % 256) 1 0
    let n := partBytes l.dh e.fp4
    let s := l.dh / 32
    let put := fun (off lo len : Nat) (d : Device) =>
      let w := writeRange d.mem (e.slot + off) (slice bs lo len)
      copyEvents w.2 { d with mem := w.1 }
    put vp.2 (2 * n + s) s (put kp.2 (2 * n) s (put vp.1 n n (put kp.1 0 n d)))

/-! ### What a twin sends (R417) -/

/-- The state as the records carry it: nothing collected, and none of the sender's own copies. -/
def bareRole (r : Role) : Role := { r with col := Collect.none, copies := [] }

/-- Send SYNC (R418): the committed state of the boundary just ended, the bytes of every named slot, the retained
records. A mirror sends none. -/
def sendSync (d : Device) : Device :=
  if d.twin.mode = 2 && !d.twin.primary then { d with twin := { d.twin with syncSent := true } }
  else
    let r := slotBytesOf (roleUses d (bareRole d.role)).eraseDups d
    let rec' : SyncRec := { step := stepBefore d.job.number, role := bareRole d.role, bytes := r.1, records := d.twin.records }
    let d := sendTwin (.sync rec') r.2
    { d with twin := { d.twin with syncSent := true } }

/-- Positions of the step that have both parts. -/
def wholePositions (d : Device) : List (ListKey × Nat) :=
  let ws := d.role.col.written
  ((ws.filter fun w => w.part = 0 && bothParts ws w.key w.pos).map fun w => (w.key, w.pos)).eraseDups

/-- R(n) (R421). -/
def resultDigest (d : Device) : List Byte :=
  let c := d.role.col
  let spans := (actPages d).role.col.spans
  let draws := c.drawn.foldr insertDraw []
  let chunks := d.work.sentCrcs.foldr insertCrc []
  shake256_256 (bytesOfNat 8 d.job.number ++ (c.before ++ c.composed).flatMap itemBytes ++
    (sortSpans spans).flatMap (fun s => bytesOfNat 4 s.2.2.2.2) ++
    draws.flatMap (fun x => bytesOfNat 4 x.handle ++ bytesOfNat 4 x.index ++ bytesOfNat 4 x.token) ++
    bytesOfNat 4 c.counts.flags.toNat ++ chunks.flatMap fun x => bytesOfNat 4 x.2.2.2.2)
where
  /-- Draws in ascending handle, position and role order. -/
  insertDraw (x : Drawn) : List Drawn → List Drawn
    | [] => [x]
    | y :: t => if decide ([x.handle, x.index, x.role] ≤ [y.handle, y.index, y.role]) then x :: y :: t
        else y :: insertDraw x t
  /-- Chunks in ascending entry, phase, piece and index order. -/
  insertCrc (x : Nat × Nat × Nat × Nat × Nat) :
      List (Nat × Nat × Nat × Nat × Nat) → List (Nat × Nat × Nat × Nat × Nat)
    | [] => [x]
    | y :: t =>
      if decide ([x.1, x.2.1, x.2.2.1, x.2.2.2.1] ≤ [y.1, y.2.1, y.2.2.1, y.2.2.2.1]) then x :: y :: t
      else y :: insertCrc x t

/-- The RESULT of the step at local done (R417): a mirror's carries R(n) alone. -/
def ownResult (digest : List Byte) (d : Device) : TwinResult × Device :=
  let c := d.role.col
  let bare : TwinResult := {
    step := d.job.number, items := [], placements := [], written := [], bytes := [], drawn := [], limits := []
    outputs := [], rows := [], counts := noCounts, digest := digest }
  if d.twin.mode = 2 then (bare, d)
  else
    let r := (wholePositions d).foldl (fun (acc : List (ListKey × Nat × List Byte) × List MemEvent × Device) p =>
      let l := listAt acc.2.2 p.1
      match l.entries[p.2 / 256]? with
      | none => acc
      | some e =>
        let b := positionBytes l.dh e p.2 ([], acc.2)
        (acc.1 ++ [(p.1, p.2, b.1)], b.2)) ([], [], d)
    ({ bare with items := c.before ++ c.composed, placements := c.placements, written := c.written, bytes := r.1
                 drawn := c.drawn, limits := c.limits, outputs := c.outputs, rows := c.rows, counts := c.counts }, stepEvents r.2.1 r.2.2)

/-- The BOUNDARY record of action 5 (R417). -/
def ownBoundary (d : Device) : BoundaryRec × Device :=
  let c := d.role.col
  let bare : BoundaryRec := {
    step := d.job.number, settled := [], descs := [], requants := [], shares := [], variants := [], bytes := []
    groups := [], ended := [], paused := [], items := [], released := [], writes := [], digest := d.bnd.digest }
  if d.twin.mode = 2 then
    ((if d.twin.primary then { bare with descs := d.bnd.admitted, settled := d.bnd.settled } else bare), d)
  else
    let shares := c.shared.foldl (fun acc s =>
      let r := readSlot s.entry (slotBytes (dimAt acc.2 s.key.layer s.key.head) s.entry.fp4) acc.2
      (acc.1 ++ [{ s with bytes := r.1 }], copyEvents r.2.1 r.2.2)) (([] : List Share), d)
    let fresh := d.role.variants.filter fun v => c.loaded.contains v.1
    let bytes := slotBytesOf (fresh.flatMap fun v => dirUses shares.2 v.2.pages).eraseDups shares.2
    ({ bare with
        settled := d.bnd.settled, descs := d.bnd.admitted, shares := shares.1, variants := d.role.variants, bytes := bytes.1
        requants := (c.applied.filter (·.requant)).map fun e => (e.key, e.index)
        groups := d.role.groups, ended := c.ended, paused := c.paused, items := c.fwItems, released := d.bnd.released
        writes := d.bnd.writes }, bytes.2)

/-! ### The shadow (R417, R420) -/

/-- Places in the shadow area for slots, one after another from an address. -/
def packSlots (at' : Nat) : List SlotUse → List ((Nat × Nat) × Nat)
  | [] => []
  | (t, a, n) :: r => ((t, a), at') :: packSlots (at' + n) r

/-- An entry at its place in the shadow area. -/
def repack (m : List ((Nat × Nat) × Nat)) (e : PageEntry) : PageEntry :=
  match m.find? (·.1 = (e.tier, e.slot)) with
  | some p => { e with tier := 1, slot := p.2 }
  | none => e

/-- A role whose pages lie in the shadow area. -/
def repackRole (m : List ((Nat × Nat) × Nat)) (r : Role) : Role :=
  { r with
    lists := r.lists.map fun l => { l with entries := l.entries.map (repack m) }
    variants := r.variants.map fun v => (v.1, { v.2 with pages := v.2.pages.map fun p => p.map (repack m) })
    ships := r.ships.map fun s => { s with pages := s.pages.map fun p => { p with entry := repack m p.entry } } }

/-- The twin's committed state becomes the shadow (R418); it must fit in the shadow area (R438; notes/assumptions 114). -/
def takeSync (r : SyncRec) (d : Device) : Device :=
  let us := (roleUses { d with role := r.role } r.role).eraseDups
  if shadowSize d < bytesOfUses us then attachFail d else
  let m := packSlots (shadowRange d).1 us
  let mem := us.foldl (fun mem u =>
    let e : PageEntry := { slot := u.2.1, tier := u.1, fp4 := false, shared := false }
    (writeRange mem (repack m e).slot ((bytesAt r.bytes e).take u.2.2)).1) d.mem
  { d with mem := mem, twin := { d.twin with
      synced := true
      shadow := some { role := repackRole m r.role, base := r.step, step := none, results := [], records := r.records } } }

/-- A device on which the boundary of step n runs for the twin's role: what it releases stays in its boundary record
(R420). -/
def shadowDevice (n : Nat) (x : Shadow) (d : Device) : Device :=
  { d with
    out := [], role := bareRole x.role, onTaken := true, bnd := Boundary.none, twin := { d.twin with taken := none }
    job := { d.job with number := n, lost := [], inFlight := false, startOrdered := false, faulted := false }
    hif := { d.hif with log := LogState.off } }

/-- The results of a step in the shadow's role: pages for its placements, the written bytes, what the step collected. -/
def applyResult (r : TwinResult) (d : Device) : Device :=
  let d := (replayDraft true r.items d).dev
  let d := r.bytes.foldl (fun d b => writePosition b.1 b.2.1 b.2.2 d) d
  updateCol (fun c => { c with
    composed := r.items, placements := r.placements, written := r.written, drawn := r.drawn, limits := r.limits
    outputs := r.outputs, rows := r.rows, counts := r.counts }) d

/-- A page of the twin copied into a free slot of the shadow area. One for which there is none leaves the shadow's boundary marked
as one that cannot be done (R438; notes/assumptions 114). -/
def adoptPage (size : Nat) (bs : List Byte) (e : PageEntry) (d : Device) : PageEntry × Device :=
  let s := freeSlot d 1 size
  match s.1 with
  | some a => ({ e with tier := 1, slot := a }, { s.2 with mem := (writeRange s.2.mem a (bs.take size)).1 })
  | none => (e, { s.2 with job := { s.2.job with faulted := true } })

/-- A shared page that the twin's tree gave, copied once for each of its slots. -/
def adoptShare (s : Share) (old : List (PageEntry × PageEntry)) (d : Device) : List (PageEntry × PageEntry) × Device :=
  let put := fun (e : PageEntry) => updateCol (fun c => { c with shared := c.shared ++ [{ s with entry := e, bytes := [] }] })
  match old.find? (·.1 = s.entry) with
  | some p => (old, put p.2 d)
  | none =>
    let r := adoptPage (slotBytes (dimAt d s.key.layer s.key.head) s.entry.fp4) s.bytes s.entry d
    (old ++ [(s.entry, r.1)], put r.1 r.2)

/-- A variant of the twin, page by page; one that the shadow holds in the same epoch stays. -/
def adoptVariant (bs : List (Nat × Nat × List Byte)) (v : Nat × Variant) (d : Device) : Device :=
  if (Tab.find d.role.variants v.1).map (·.epoch) = some v.2.epoch then d
  else
    let put := fun (ps : List (List PageEntry)) (d : Device) =>
      { d with role := { d.role with variants := Tab.put d.role.variants v.1 { v.2 with pages := ps } } }
    let n := v.2.pages.length
    (((dirPlaces d).zip v.2.pages).zip (List.range n)).foldl (fun d p =>
      p.1.2.foldl (fun d e =>
        let r := adoptPage (slotBytes (dimAt d p.1.1.1 p.1.1.2) e.fp4) (bytesAt bs e) e d
        let ps := ((Tab.find r.2.role.variants v.1).map (·.pages)).getD []
        put (ps.set p.2 (ps.getD p.2 [] ++ [r.1])) r.2) d) (put (List.replicate n []) d)

/-- A REQUANT of the twin on the shadow's own copy of the page (R420). -/
def shadowRequant (k : ListKey) (index : Nat) (d : Device) : Device :=
  let l := listAt d k
  match l.entries[index]? with
  | none => d
  | some e =>
    if e.fp4 then d
    else
      let r := readSlot e (slotBytes l.dh false) d
      let d := copyEvents r.2.1 r.2.2
      let x := requantSlot l.dh (min 256 (l.npos - 256 * index)) d.freeCtr r.1
      let s := adoptPage (slotBytes l.dh true) x.1 { e with fp4 := true }
        { d with freeCtr := d.freeCtr + slotBytes l.dh true }
      putList (nextGen { l with entries := l.entries.set index s.1 }) s.2

/-- A pause or resume that the twin's firmware decided. -/
def shadowDecision (d : Device) (i : LogItem) : Device :=
  match reqOf d i.handle with
  | none => d
  | some q => if i.kind = 0x05 then firmwarePause q d else if i.kind = 0x06 then resumeRequest q d else d

/-- What a request descriptor does at action 4 (R240); any other one is only logged here. -/
def applyRequestDesc (f : Fetched) (d : Device) : Device :=
  let op := opcodeOf f
  if op = 0x10 then (if replaying d then replaySubmit (loggedHandle d f) f d else applySubmit f d)
  else if op = 0x11 then applyCancel f d
  else if op = 0x12 then applyPause f d
  else if op = 0x13 then applyResume f d
  else if op = 0x14 then applyPriority f d
  else logDesc f d

/-- An admitted descriptor of the twin on the shadow. -/
def shadowDesc (d : Device) (f : Fetched) : Device :=
  if 0x10 ≤ opcodeOf f && opcodeOf f ≤ 0x14 && !descOk d f then logDesc f d else applyRequestDesc f d

/-- Exports that the twin completed before action 0. -/
def settleShips (hs : List Nat) (d : Device) : Device :=
  setShips ((shipsOf d).map fun s => if hs.contains s.handle then { s with closed := true, settled := true } else s) d

/-- Actions 1 to 3 of a boundary for the current role. -/
def actsOneToThree (d : Device) : Device := actRelease (actRecords (actPages d))

/-- The boundary of the twin on the shadow's role (R420), in the order of R39. -/
def shadowActs (r : BoundaryRec) (d : Device) : Device :=
  let d := r.variants.foldl (fun d v => adoptVariant r.bytes v d) d
  let d := (r.shares.foldl (fun acc s => adoptShare s acc.1 acc.2) (([] : List (PageEntry × PageEntry)), d)).2
  let d := actsOneToThree (settleShips r.settled d)
  let d := retireAll (r.descs.foldl shadowDesc d)
  let d := r.ended.foldl (fun d h =>
    match reqOf d h with
    | some q => endLost d q
    | none => d) d
  let d := settleAllShares d
  let d := r.requants.foldl (fun d x => shadowRequant x.1 x.2 d) d
  let d := r.paused.foldl (fun d h => settlePause h d) d
  let d := r.items.foldl shadowDecision d
  let kept := fun (v : Nat × Variant) => (Tab.find r.variants v.1).isSome
  let d := { d with role := { d.role with groups := r.groups, variants := d.role.variants.filter kept } }
  expireHeld (ageHeld d)

/-- The boundary that the shadow's state is as of: the last one applied, or that of SYNC. -/
def shadowAt (x : Shadow) : Nat := x.step.getD x.base

/-- What a boundary on the shadow's own device counts and records of the words it reads and writes (R405, R449): every word that it
corrected has its CORRECTED record, also where the boundary is not kept. -/
def keepErrors (e d : Device) : Device :=
  { d with
    freeCtr := e.freeCtr, errs := e.errs
    queues := Tab.put d.queues 128 (queueOf e 128)
    slabs := Tab.put d.slabs 128 (chainOfQueue e 128) }

/-- The shadow after a boundary that ran on a device of its own: its role with the digest chained, what it released kept with what
the last `kept` boundaries before it did (R426). -/
def keepShadow (kept : Nat) (x : Shadow) (n : Nat) (rel : Released) (e d : Device) : Device :=
  { keepErrors e d with
    mem := e.mem
    twin := { d.twin with shadow := some {
      role := bareRole { e.role with digest := stepDigest e, digestStep := some n }, base := x.base, step := some n
      results := x.results.filter fun r => n < r.step
      records := x.records.drop (x.records.length - kept) ++ [rel] } } }

/-- A BOUNDARY record applied to the shadow with the RESULT of its step (R420): whether D(n) agrees, and the device. -/
def shadowBoundary (r : BoundaryRec) (d : Device) : Bool × Device :=
  match d.twin.shadow with
  | none => (false, d)
  | some x =>
    match x.results.find? (·.step = r.step) with
    | none => (false, d)
    | some res =>
      let e := shadowActs r (applyResult res (shadowDevice r.step x d))
      if !e.job.faulted && stepDigest e = r.digest then
        (true, keepShadow 15 x r.step { step := r.step, packets := r.released, writes := r.writes } e d)
      else (false, keepErrors e d)

/-- The reconstructed boundary c (R423): from the RESULT of c, no descriptor admitted, the survivor's own decisions. -/
def reconstruct (n : Nat) (d : Device) : Device :=
  match d.twin.shadow with
  | none => d
  | some x =>
    match x.results.find? (·.step = n) with
    | none => d
    | some res =>
      let e := actFirmware (actsOneToThree (applyResult res (shadowDevice n x d)))
      keepShadow 16 x n { step := n, packets := e.bnd.posting, writes := e.bnd.writes } e d

/-! ### Takeover (R423 to R426) -/

/-- Whether the shadow can serve a restart from the boundary of step c. -/
def shadowServes (d : Device) (c : Nat) : Bool :=
  match d.twin.shadow with
  | none => false
  | some x => shadowAt x = c || (decide (shadowAt x = stepBefore c) && x.results.any (·.step = c))

/-- Whether a restart performs a takeover (R423): group 0 names this device's node at the twin's rank. -/
def takesOver (d : Device) : Bool :=
  d.twin.state = .lost && ((groupOf d 0).map fun g => decide (nodeOfRank g d.twin.rank = nodeId d)).getD false

/-- A retained packet goes to the taken role's ring: ring n of the twin is ring 32 + n here (R425, R426). -/
def takenQueue (d : Device) (q : Nat) : Nat := if q < 64 then (q + 32) % 64 else 64 + cqFor d ((q - 64 + 32) % 64)

/-- A retained packet handed to its queue. -/
def postRetained (q : Nat) (ws : List W64) (d : Device) : Device :=
  let r := takenQueue d q
  if q < 64 then pushPacket r ws d else flushPosting (postPacket r ws d)

/-- The retained records of one boundary written again (R426). -/
def writeRetained (d : Device) (r : Released) : Device :=
  let d := r.packets.foldl (fun d p => postRetained p.1 p.2 d) d
  emitAll (r.writes.map fun w => .hostWrite w.1 w.2) d

/-- An unfinished export of the taken role completes with TRANSPORT (R426) and counts as failed (R344). -/
def endTaken (d : Device) (s : Shipping) : Device :=
  postRetained (64 + s.cq.val)
    (completionWords codeStepFault 0x20 2 0x2 s.handle s.tag d.job.number s.delivered)
    { d with errs := { d.errs with exportFailed := satAdd 20 d.errs.exportFailed 1 } }

/-- A request of the taken role with its state at addresses of this device's work area (R424, R534). DESIGN CHOICE: where the area
has no place left, the addresses of the member that is gone stay (notes/assumptions 114). -/
def houseTaken (d : Device) (e : Nat × Request) : Device :=
  let h := (houseRequest e.2 d).getD (e.2, d)
  let add := fun (r : Role) => { r with reqs := r.reqs ++ [(e.1, h.1)] }
  { h.2 with twin := { h.2.twin with taken := h.2.twin.taken.map add } }

/-- A list of the taken role with its entry array in this device's work area, as long as it has a place (notes/assumptions
114). -/
def houseTakenList (d : Device) (l : PageList) : Device :=
  let x := takeFree d
  let l := { l with entriesAt := (workPlace d (workUsed d) 8 (8 * l.cap) x.1).getD l.entriesAt }
  let add := fun (r : Role) => { r with lists := r.lists ++ [l] }
  { x.2 with twin := { x.2.twin with taken := x.2.twin.taken.map add } }

/-- The takeover (R423, R424, R426) at a restart from the boundary of step c. A mirror becomes the member at the primary's
rank; the exports that its primary had not completed end with TRANSPORT. -/
def takeover (c : Nat) (d : Device) : Device :=
  if d.twin.mode = 2 then
    ((shipsOf d).filter fun s => !s.closed).foldl (fun d s => closeShip s .transport d)
      { d with twin := d.twin.cleared }
  else
    let d := if d.twin.shadow.map shadowAt = some c then d else reconstruct c d
    match d.twin.shadow with
    | none => d
    | some x =>
      let d := x.records.foldl writeRetained d
      let d := (x.role.ships.filter fun s => !s.closed).foldl endTaken d
      let groups := match groupOf d 0 with
        | some g => Tab.put x.role.groups 0 { g with myRank := d.twin.rank }
        | none => x.role.groups
      let d := { d with twin := { d.twin.cleared with
          state := .split, rank := d.twin.rank, mode := 1
          taken := some { x.role with groups := groups, ships := [], reqs := [], lists := [] } } }
      x.role.lists.foldl houseTakenList (x.role.reqs.foldl houseTaken d)

end Sys2Proof.Machine
end

