-- ==== Sys2Proof/Machine/Boundary.lean ====
section
/-!
DEFINITION. The step boundary (R39, R40): reading the doorbell page (R350 to R355), the descriptors of action 4 (R357), the
actions in order with what holds them (R368, R371), halt boundaries and JOB_RESTART (R411, R412), local done, commit
(R29, R33 to R36, R278, R419).
-/
namespace Sys2Proof.Machine

/-! ### The doorbell page (R350 to R355, R377) -/

/-- Set a bit of HIF_ERR; the message of R372. -/
def setHifErr (k : Nat) (d : Device) : Device := msix 0 { d with hif := { d.hif with err := d.hif.err ||| (1#3 <<< k) } }

/-- Stop a submission ring (R355). -/
def stopRing (n : Nat) (d : Device) : Device :=
  if d.hif.sqErr.getLsbD n then d else msix 0 { d with hif := { d.hif with sqErr := d.hif.sqErr ||| (1#64 <<< n) } }

/-- Descriptors of a submission ring that are placed and not fetched. -/
def sqWaiting (d : Device) (n : Nat) : Nat :=
  (Tab.getD d.hif.sqProd n 0 + 2 ^ 32 - Tab.getD d.hif.sqCons n 0) % 2 ^ 32

/-- Stop the rings whose counts lie more than a ring apart (R355). -/
def stopOverrun (d : Device) : Device :=
  (List.finRange 64).foldl (fun d n =>
    let c := ringCfg d (.hifSq n)
    if c.en && ringSize c < sqWaiting d n.val then stopRing n.val d else d) d

/-- A count table of the page. -/
def pageCounts (t : Tab (BitVec 32)) : Tab Nat := t.map fun e => (e.1, e.2.toNat)

/-- The doorbell page is read (R352, R353); a failed read sets HIF_ERR.DOORBELL (R355). -/
def readPage (page : Option Doorbell) (d : Device) : Device :=
  match page with
  | none => setHifErr 2 d
  | some p =>
    stopOverrun { d with hif := { d.hif with
      sqProd := pageCounts p.sqProd, cqCons := pageCounts p.cqCons, tqCons := pageCounts p.tqCons
      log := { d.hif.log with
        host := p.logHost.toNat
        bytes := if d.hif.log.mode = 2 then p.logBytes.take (p.logHost.toNat - d.hif.log.dev) else d.hif.log.bytes } } }

/-! ### Action 4 of one descriptor (R357) -/

/-- A rejected descriptor: logged, completed with BAD_DESCRIPTOR, no other effect (R357). -/
def rejectDesc (f : Fetched) (d : Device) : Device := finishDesc f codeBad (namedHandle f) (logDesc f d)

/-- An accepted descriptor at action 4 in its role. JOB_RESTART is refused: it belongs to a halt boundary (R412). -/
def applyAccepted (f : Fetched) (d : Device) : Device :=
  let op := opcodeOf f
  if op = 0x01 then applyModelLoad f d
  else if op = 0x02 then applySentenceLoad f d
  else if op = 0x03 then applyVariantLoad f d
  else if op = 0x20 then applyExportSlots f d
  else if op = 0x30 then applyGroupDefine f d
  else if op = 0x31 then applyGroupReform f d
  else if op = 0x40 then rejectDesc f d
  else if op = 0x41 then applyTwinAttach f d
  else if op = 0x42 then applyTwinDetach f d
  else if op = 0x50 then applyStepLog f d
  else applyRequestDesc f d

/-- One admitted descriptor at action 4 (R357, R425). -/
def applyDescriptor (f : Fetched) (d : Device) : Device :=
  forRing f.ring.val (fun d => if descOk d f then applyAccepted f d else rejectDesc f d) d

/-! ### Action 0 (R39, R55, R228, R353) -/

/-- Fetched descriptors in admission order (R228): by ring; within a ring they wait in ring order. -/
def admissionOrder (fs : List Fetched) : List Fetched :=
  (List.finRange 64).flatMap fun r => fs.filter fun f => f.ring = r

/-- The fetched descriptor that an item names. -/
def namedDesc (d : Device) (i : LogItem) : Option Fetched :=
  d.hif.fetched.find? fun f => f.ring.val = i.aux && f.index % 2 ^ 32 = i.a

/-- Exports whose completion is written before action 0 (R339). -/
def markSettled (d : Device) : Device :=
  let d := setShips ((shipsOf d).map fun s => { s with settled := s.closed }) d
  { d with bnd := { d.bnd with settled := ((shipsOf d).filter (·.settled)).map (·.handle) } }

/-- Descriptors admitted; the edits of the boundary count from 0 (R210). -/
def admitAll (fs : List Fetched) (d : Device) : Device :=
  let d := { d with
    hif := { d.hif with fetched := d.hif.fetched.filter fun f => !fs.contains f }
    twin := { d.twin with taken := d.twin.taken.map fun r => { r with col := { r.col with edits := 0 } } }
    bnd := { d.bnd with admitted := fs } }
  updateCol (fun c => { c with edits := 0 }) d

/-- Whether this is a mirror whose primary is lost (R421, R423). -/
def primaryLost (d : Device) : Bool := d.twin.state = .lost && d.twin.mode = 2 && !d.twin.primary

/-- What is left of the cut-off after the doorbell read: in replay, the descriptors that the log names, once all are
fetched (R55); on a mirror, those of the primary's record and its own TWIN_DETACH (R421), none once the primary is lost (R423); else
all fetched ones. -/
def cutoff (d : Device) : Option Device :=
  if d.hif.log.mode = 2 && !d.bnd.entry.isEmpty then
    ((boundaryItems (entryItems d.bnd.entry)).mapM (namedDesc d)).map fun fs => admitAll fs (markSettled d)
  else if primaryLost d then some (admitAll [] (markSettled d))
  else if mirrors d then
    match d.twin.orders.find? (·.step = d.job.number) with
    | none => none
    | some r =>
      let own := d.hif.fetched.filter fun f => opcodeOf f = 0x42
      some { admitAll (r.descs ++ own) (markSettled (settleShips r.settled d)) with
        twin := { d.twin with orders := d.twin.orders.filter (·.step ≠ d.job.number) } }
  else some (admitAll (admissionOrder d.hif.fetched) (markSettled d))

/-! ### Actions 5 and 6 (R39, R48, R53, R56, R417) -/

/-- The last n elements. -/
def lastOf {α : Type} (n : Nat) (xs : List α) : List α := xs.drop (xs.length - n)

/-- Action 5 for the current role: D(n), flags and counts. -/
def actRecord (d : Device) : Device :=
  let digest := stepDigest d
  let d := chainDigest digest (applyCounts d)
  if d.onTaken then d
  else { d with
      bnd := { d.bnd with digest := digest }
      twin := { d.twin with ownDigests := lastOf 16 (d.twin.ownDigests ++ [(d.job.number, digest)]) } }

/-- Action 5: the record to the twin, with all that the boundary has released (R417, R426). -/
def actTell (d : Device) : Device :=
  if sendsRecords d then
    let r := ownBoundary d
    sendTwin (.boundary r.1) r.2
  else d

/-- The log at action 5 (R53, R56, R371): a recorded entry waits for room; a replayed one is compared. -/
def actLog (d : Device) : Option Device :=
  let l := d.hif.log
  let n := d.job.number
  if l.mode = 1 then
    let e := logEntry d d.bnd.digest
    if logRoom l < e.length then none
    else
      let d := logWrite l e d
      let d := { d with hif := { d.hif with log := { d.hif.log with dev := l.dev + e.length, last := n } } }
      some (statusWrite 1536 (l.dev + e.length) d)
  else if l.mode = 2 && !d.bnd.entry.isEmpty then
    let k := d.bnd.entry.length
    let d := { d with hif := { d.hif with log := { l with dev := l.dev + k, bytes := l.bytes.drop k, last := n } } }
    let d := statusWrite 1536 (l.dev + k) d
    if slice d.bnd.entry 16 32 ≠ padTo 32 d.bnd.digest then some (stopLog codeStepFault n d)
    else if n = l.endStep then some (stopLog codeOk n d)
    else some d
  else some d

/-- What a role keeps after its boundary: the edits that firmware has queued, and what halt boundaries have logged. -/
def freshCollect (r : Role) : Role := { r with col := { Collect.none with fwEdits := r.col.fwEdits, halts := r.col.halts } }

/-- Action 6 (R28): the step number advances; the number that would follow the last step stops the device. -/
def actAdvance (d : Device) : Device :=
  let n := d.job.number
  if n + 1 = 2 ^ 48 - 1 then goFatal 0 d
  else
    let rel : Released := { step := n, packets := d.bnd.released, writes := d.bnd.writes }
    let d := { d with
      job := { d.job with
        number := n + 1, inFlight := false, localDone := false, doneSent := false, doneFrom := [], wantNoted := false
        wantSent := false, faulted := false, aborted := false, lastBoundary := some n }
      work := d.work.over
      role := freshCollect d.role
      twin := { d.twin with
        taken := d.twin.taken.map freshCollect, mirrorStart := none, records := lastOf 16 (d.twin.records ++ [rel])
        mismatchAt := none } }
    if d.twin.state = .syncing && !d.twin.syncSent then sendSync d else d

/-! ### A mirror takes its primary's state (R418, R421) -/

/-- The state received in SYNC replaces a mirror's own once no step and no boundary of its own is in progress. It then follows its
primary; its attach completes at action 4 of the first boundary that it performs so. It sends no frame from then on (R421). -/
def adoptMirror (d : Device) : Device :=
  match d.twin.parked with
  | some r =>
    if mirrorSide d && !inBoundary d && !d.job.inFlight then
      { d with
        role := bareRole r.role
        job := { d.job with number := (r.step + 1) % 2 ^ 48, lastBoundary := some r.step
                            gen := ((Tab.find r.role.groups 0).map (·.gen)).getD d.job.gen }
        fab := { d.fab with particles := [], chunks := [] }
        twin := { d.twin with parked := none, syncSent := true, rank := ((Tab.find r.role.groups 0).map (·.myRank)).getD 0
                              records := r.records } }
    else d
  | none => d

/-! ### Work pending (R29, R35) -/

/-- Whether a role holds a descriptor whose change is not complete: a submit held, or a request that is being paused
(R229, R227; notes/assumptions 63). -/
def changePending (r : Role) : Bool := !r.held.isEmpty || r.reqs.any fun q => q.2.state = .pausing

/-- Whether work is pending (R29): tokens to prefill or decode, a fetched descriptor that is still to change a request's
state, a STEP_WANT that counts, or in replay the next entry. -/
def workPending (d : Device) : Bool :=
  !d.hif.fetched.isEmpty || d.job.wantNoted ||
    ((allRoles d).any fun r => changePending r || r.reqs.any fun q => isCandidate q.2) ||
    (d.hif.log.mode = 2 && (entryOf d.job.number d.hif.log.bytes).isSome)

/-- Whether a member other than 0 should ask for a step (R35). -/
def wantsStep (d : Device) : Bool :=
  serving d && !isLead d && !d.job.inFlight && !d.job.startOrdered && !d.job.halted && !inBoundary d &&
    !mirrors d && workPending d

/-- STEP_WANT at once (R35). -/
def sendWant (d : Device) : Device :=
  if wantsStep d && !d.job.wantSent then
    sendParticle (partitionNode d 0) (stepParticle d typeWant 0 d.job.number) { d with job := { d.job with wantSent := true } }
  else d

/-! ### The order of the actions -/

/-- Actions 0 to 6 for one role, or for the own role and then the taken one (R39, R424). -/
def boundaryOps (split : Bool) : List BOp :=
  if split then
    [.cutoff, .pages, .swap, .pages, .swap, .records, .swap, .records, .swap, .release, .swap, .release, .swap, .edits,
     .firmware, .swap, .firmware, .swap, .record, .swap, .record, .swap, .log, .advance]
  else [.cutoff, .pages, .records, .release, .edits, .await, .firmware, .record, .log, .tell, .advance]

/-- Put operations in front of those left. -/
def pushOps (ops : List BOp) (d : Device) : Device := { d with bnd := { d.bnd with ops := ops ++ d.bnd.ops } }

/-- The opcodes that a halt boundary admits (R411). -/
def haltOpcodes : List Nat := [0x40, 0x30, 0x31, 0x42]

/-- Those of them that this device applies from its own rings: a mirror only TWIN_DETACH, and GROUP_REFORM and JOB_RESTART once its
primary is lost (R421). -/
def haltApplies (d : Device) : List Nat :=
  if primaryLost d then [0x40, 0x31, 0x42] else if mirrors d then [0x42] else haltOpcodes

/-- The descriptors that a halt boundary admits (R411): ring 0 up to the first of another opcode, without those that a mirror
does not apply. -/
def haltAdmits (d : Device) : List Fetched :=
  ((d.hif.fetched.filter fun f => f.ring.val = 0).takeWhile fun f => haltOpcodes.contains (opcodeOf f)).filter fun f =>
    (haltApplies d).contains (opcodeOf f)

/-- Whether a JOB_RESTART is accepted (R412, R423). -/
def restartOk (d : Device) (f : Fetched) : Bool :=
  let step := descField f.desc 16 0 48
  let gen := descField f.desc 24 0 32
  let here := step = haltInfo d || (d.job.inFlight && d.job.localDone && step = d.job.number)
  here && d.job.haltGen < gen && d.job.gen ≤ gen && (!takesOver d || d.twin.mode = 2 || shadowServes d step)

/-- What halt boundaries have logged waits for the first step after the restart (R411). -/
def keepHalts (d : Device) : Device := updateCol (fun c => { c with halts := c.halts ++ c.items, items := [] }) d

/-- JOB_RESTART at a halt boundary (R412): a member at local done of STEP performs that boundary first, which reads the doorbell
page at its own action 0 (R352). -/
def haltRestart (f : Fetched) (d : Device) : Device :=
  if !restartOk d f then rejectDesc f d
  else if descField f.desc 16 0 48 = haltInfo d then pushOps [.restart f] d
  else pushOps (.doorbell :: boundaryOps d.twin.taken.isSome ++ [.restart f]) (keepHalts d)

/-- One descriptor of a halt boundary (R411). -/
def applyHalt (f : Fetched) (d : Device) : Device :=
  if descOk d f && opcodeOf f = 0x40 then (if d.job.halted then haltRestart f d else rejectDesc f d)
  else applyDescriptor f d

/-- What an accepted JOB_RESTART does (R412 items 1 to 3): generation, takeover or the end of a lost pair, completion. -/
def restartJob (f : Fetched) (d : Device) : Device :=
  let d := logDesc f d
  let step := descField f.desc 16 0 48
  let d := adoptGen (descField f.desc 24 0 32) d
  let d := { d with job := { d.job with
    number := (step + 1) % 2 ^ 48, restarts := 0, restartFrom := step, halted := false } }
  let d := if takesOver d then takeover step d
    else if d.twin.state = .lost then retireMirror (primaryLost d) (dropTwin .unpaired d)
    else d
  finishDesc f codeOk 0 d

/-- Item 4 of R412, and item 2 of R408 for a member: fences and RESTART record, then ready; member 0 waits for the ready of
every rank. The chunks for which the discarded ones make room leave last (R296). -/
def resumeJob (gen : Nat) (d : Device) : Device :=
  let r := itemTwo gen d
  if !r.1 then serve r.2
  else if isLead r.2 then serve (tryReady { r.2 with job := { r.2.job with awaitReady := true, ready := servedRanks r.2 } })
  else
    let d := sendReady r.2
    serve { d with job := { d.job with doneSent := true } }

/-- Answer the queries that were fetched while the boundary was in progress (R369). -/
def answerQueries (d : Device) : Device :=
  let qs := d.hif.queries
  qs.foldl (fun d f => forRing f.ring.val (answerQuery f) d) { d with hif := { d.hif with queries := [] } }

/-- The end of a boundary: queries, what waits for the end of action 6 (R479), a fault that arose during it (R36), a mirror that
waits for its state, and work that is still pending (R35). A step that a halt holds keeps its log entry. -/
def actFinish (d : Device) : Device :=
  let entry := if d.job.inFlight then d.bnd.entry else []
  let d := serveWaiting (answerQueries { d with bnd := { Boundary.none with posting := d.bnd.posting, entry := entry } })
  let d := if d.job.scrubFault && (d.job.inFlight || d.job.startOrdered) then
      faultNow { d with job := { d.job with scrubFault := false } }
    else d
  sendWant (adoptMirror d)

/-- Firmware's part of action 4 is held (R55, R242). The boundary at which STEP_LOG starts a replay follows the log's entry from here
on, once it is there, if the log's first entry is its own (R53, R371; notes/assumptions 116). -/
def beginAwait (d : Device) : Option Device :=
  let hold := fun (d : Device) => pushOps [.hold] (awaitProgress d)
  if mirrors d then some (hold d)
  else if d.hif.log.mode ≠ 2 then some d
  else if !d.bnd.entry.isEmpty then some (hold d)
  else (wholeEntry d.hif.log.bytes).map fun e =>
    if entryStep e = d.job.number then hold { d with bnd := { d.bnd with entry := e } } else d

/-- One operation of a boundary; none where it is held. -/
def runOp (op : BOp) (d : Device) : Option Device :=
  match op with
  | .cutoff => (cutoff d).map holdSlots
  | .pages => some (actPages d)
  | .records => some (actRecords d)
  | .release => some (actRelease d)
  | .edits => some (pushOps (d.bnd.admitted.map .apply) (attachProgress (detachNoted d)))
  | .apply f => some (applyDescriptor f d)
  | .await => beginAwait d
  | .hold => if awaitOver d then some d else none
  | .firmware =>
    let d := firmwareLooks d
    some (if d.job.fatal then d else updateStats (actFirmware d))
  | .record => some (actRecord d)
  | .log => actLog d
  | .tell => some (actTell d)
  | .advance => some (actAdvance d)
  | .swap => some (swapRoles d)
  | .doorbell => none
  | .haltCutoff =>
    let fs := haltAdmits d
    some (pushOps (fs.map .haltApply)
      (detachNoted { d with hif := { d.hif with fetched := d.hif.fetched.filter fun f => !fs.contains f } }))
  | .haltApply f => some (applyHalt f d)
  | .restart f => some (restartJob f d)
  | .haltEnd =>
    let d := updateStats (keepHalts (loseSlots d))
    some (if d.job.halted || d.twin.retired then d else resumeJob d.job.gen d)
  | .abandon gen => some (resumeJob gen d)
  | .finish => some (actFinish d)

/-- Run the operations left, in order, until one is held or none is left (R39, R368, R371); `fuel` bounds them. -/
def runOps : Nat → Device → Device
  | 0, d => d
  | fuel + 1, d =>
    let d := flushPosting d
    if !d.bnd.posting.isEmpty then d
    else
      match d.bnd.ops with
      | [] => d
      | op :: rest =>
        match runOp op { d with bnd := { d.bnd with ops := rest } } with
        | none => d
        | some d => runOps fuel d

/-- A bound on the operations of a boundary: those left, two full boundaries, and one for each descriptor. -/
def opsBound (d : Device) : Nat :=
  d.bnd.ops.length + d.hif.fetched.length + ((d.twin.orders.map (·.descs.length)).foldl (· + ·) 0) + 80

/-- The boundary in progress goes on. -/
def runBoundary (d : Device) : Device := runOps (opsBound d) d

/-- Begin a boundary with operations: action 0 reads the doorbell page (R39, R352). -/
def beginOps (ops : List BOp) (page : Option Doorbell) (d : Device) : Device :=
  let d := readPage page (toOwn d)
  runBoundary { d with bnd := { d.bnd with
    gen := d.job.gen, ops := ops, admitted := [], settled := [], released := [], writes := [] } }

/-- The boundary that ends the step in flight (R39). -/
def beginBoundary (page : Option Doorbell) (d : Device) : Device :=
  beginOps (boundaryOps d.twin.taken.isSome ++ [.finish]) page d

/-- BOUNDARY_ACTION_RESUME (R368, R371). -/
def devBoundaryActionResume (d : Device) : Device :=
  if !powered d || !d.cfgLocked || (!inBoundary d && d.bnd.posting.isEmpty) then d else runBoundary d

/-- BOUNDARY_ACTION_RESUME. -/
def execBoundaryActionResume (s : State) : Host.Outcome State Fault Refusal := lift devBoundaryActionResume s

/-- HELD_SUBMIT_TIMEOUT (R229): held submits that have waited ADMIT_WAIT boundaries complete with NO_SLOT. -/
def devHeldSubmitTimeout (d : Device) : Device :=
  if !serving d || inBoundary d then d else inSplit expireHeld (expireHeld d)

/-- HELD_SUBMIT_TIMEOUT. -/
def execHeldSubmitTimeout (s : State) : Host.Outcome State Fault Refusal := lift devHeldSubmitTimeout s

/-! ### Local done (R29, R142, R278, R367) -/

/-- Acceptance limits of the decode placements (R278): main lists, draft lists. -/
def acceptLimits (d : Device) : Tab (Nat × Nat) :=
  d.role.col.placements.foldl (fun t p =>
    match p with
    | .decode h _ depth =>
      let a := acceptedCount d h depth
      Tab.put t h (a + 1, if depth = 0 then 1 else min (a + 1) depth)
    | _ => t) []

/-- Numbers in ascending order, each once. -/
def ascending (xs : List Nat) : List Nat :=
  let rec ins (x : Nat) : List Nat → List Nat
    | [] => [x]
    | y :: t => if x < y then x :: y :: t else if x = y then y :: t else y :: ins x t
  xs.foldr ins []

/-- The operations marked STEPOUT, in sentence order, as (clause, operation). -/
def stepOutputs (d : Device) : List (Nat × Nat) :=
  let cs := (d.loaded.sentence.map (·.clauses)).getD []
  (cs.zip (List.range cs.length)).flatMap fun c =>
    ((c.1.ops.zip (List.range c.1.ops.length)).filter (·.1.stepout)).map fun o => (c.2, o.2)

/-- CRC-32C of each step output: the bytes written, in ascending address order (R48, R142). A step that runs no clause
(R29) has no step output (notes/assumptions 19). -/
def outputCrcs (d : Device) : List Nat :=
  if d.role.col.placements.isEmpty then []
  else (stepOutputs d).map fun p =>
    let addrs := ascending ((d.work.outBytes.filter fun x => x.1 = p.1 && x.2.1 = p.2).flatMap (·.2.2))
    crc32c (addrs.map (readByte d.mem.bytes))

/-- The OUTPUT plan entry (R364). -/
def outputPlan (d : Device) : Option PlanEntry := ((d.loaded.sentence.map (·.plan)).getD []).find? (·.kind = 0x0B)

/-- The output row of PREFILL_ONLY work whose last prompt row is known (R367). -/
def outputRows (d : Device) : List (Nat × List Byte) × Device :=
  match outputPlan d with
  | none => ([], d)
  | some p => d.role.col.rowOf.foldl (fun acc x =>
      let r := workRead (p.addr + x.2 * p.size) p.size acc.2
      (acc.1 ++ [(x.1, r.1)], r.2)) ([], d)

/-- The work of the current role's run becomes what its boundary uses. -/
def finishRun (d : Device) : Device :=
  let w := d.work
  let d := updateCol (fun c => { c with written := w.written, drawn := w.drawn, counts := w.counts, outputs := outputCrcs d }) d
  let limits := acceptLimits d
  let r := outputRows (updateCol (fun c => { c with limits := limits }) d)
  updateCol (fun c => { c with rows := r.1 }) r.2

/-- Whether the step's work is complete (R29): eight regions, every entry, every outbound transfer. -/
def workDone (d : Device) : Bool :=
  (List.range 8).all (fun r => d.work.regionsDone.contains r) &&
    ((List.range (trigTable d).length).all fun e => (runOf d e).complete) &&
    d.fab.chunks.all fun c => c.2.chunk.ftype = 0x20

/-! ### Gating and commit (R33, R34, R419) -/

/-- R(c) of both twins agree for the step in flight. -/
def resultsAgree (d : Device) : Bool :=
  match d.twin.ownR, d.twin.peerR with
  | some a, some b => a.1 = d.job.number && b.1 = d.job.number && a.2 = b.2
  | _, _ => false

/-- Whether STEP_DONE may go (R419). -/
def gateOpen (d : Device) : Bool :=
  if d.twin.detachNote then true
  else match d.twin.state with
    | .paired => d.twin.unacked.all fun u => u.kind ≠ 3 && u.kind ≠ 4
    | .mirrorPrimary => (d.twin.unacked.all fun u => u.kind ≠ 4) && resultsAgree d
    | _ => true

/-- Commit at member 0 (R33): STEP_START for n + 1 to every other member, then the boundary. -/
def commitStep (begin' : Device → Device) (d : Device) : Device :=
  let d := if memberCount d ≤ (servedRanks d).length then d
    else sendMembers { stepParticle d typeStart 0 ((d.job.number + 1) % 2 ^ 48) with sender := 0 }
      { d with job := { d.job with startOrdered := true } }
  begin' d

/-- What local done, an acknowledgement or a STEP_DONE makes possible (R33, R34, R419, R421). -/
def progressDone (begin' : Device → Device) (d : Device) : Device :=
  if !serving d || !d.job.inFlight || !d.job.localDone || d.job.faulted || d.job.halted || inBoundary d then d
  else if mirrors d then
    (if d.twin.orders.any (·.step = d.job.number) then begin' d else d)
  else if !gateOpen d then d
  else if isLead d then
    let others := otherRanks (memberCount d) (servedRanks d)
    if others.all fun r => d.job.doneFrom.contains r then commitStep begin' d else d
  else if d.job.doneSent then d
  else
    (servedRanks d).foldl
      (fun d r => sendParticle (partitionNode d 0) { stepParticle d typeDone 0 d.job.number with sender := r } d)
      { d with job := { d.job with doneSent := true } }

/-- A mirror's R(n) that differs from the primary's (R421, R422): the step faults; on a second run the primary detaches. -/
def compareResults (d : Device) : Device :=
  match d.twin.ownR, d.twin.peerR with
  | some a, some b =>
    if a.1 ≠ b.1 || a.2 = b.2 then d
    else if d.twin.mismatchAt = some a.1 then faultDetach .unpaired true d
    else faultStep { d with twin := { d.twin with mismatchAt := some a.1 } }
  | _, _ => d

/-- What local done sends to the twin (R417, R421). -/
def sendResult (d : Device) : Device :=
  if !sendsRecords d then d
  else
    let digest := resultDigest d
    let d := { d with twin := { d.twin with ownR := some (d.job.number, digest) } }
    if d.twin.mode = 2 && d.twin.primary then compareResults d
    else
      let r := ownResult digest d
      sendTwin (.result r.1) r.2

/-- LOCAL_DONE (R29, R34): every region is done, every entry complete, every transfer acknowledged. In SPLIT both roles have
run (R424). -/
def devLocalDone (page : Option Doorbell) (d : Device) : Device :=
  if !serving d || !d.job.inFlight || d.job.faulted || d.job.localDone || d.job.halted || inBoundary d || !workDone d ||
      (d.twin.taken.isSome && !d.onTaken) then d
  else
    let d := toOwn (finishRun d)
    if d.job.faulted || !d.job.inFlight then d
    else progressDone (beginBoundary page) (sendResult { d with job := { d.job with localDone := true } })

/-- LOCAL_DONE. -/
def execLocalDone (page : Option Doorbell) (s : State) : Host.Outcome State Fault Refusal := lift (devLocalDone page) s

end Sys2Proof.Machine
end

