-- ==== Sys2Proof/Machine/FabricCmds.lean ====
section
/-!
DEFINITION. The commands of the fabric (R285 to R320): frames and answers arriving, timeouts, ports, folding, ordered
reduction, failures.
-/
namespace Sys2Proof.Machine

/-- Acknowledgement of a chunk of a twin record (R416). -/
def twinAcked (f : Frame) (d : Device) : Device :=
  if f.gen ≠ d.twin.attachGen then countStale d
  else { d with twin := { d.twin with unacked := d.twin.unacked.filter fun u => !namesTwin f u } }

/-- NAK of a chunk of a twin record: the chunk again at once (R292, R416). -/
def twinNaked (f : Frame) (d : Device) : Device :=
  if f.gen ≠ d.twin.attachGen then countStale d
  else match twinNamed d f with
    | some u => resendTwin u d
    | none => d

/-! ### DATA (R291, R313) -/

/-- A primary hands every chunk it has accepted on to its mirror (R417, R421). -/
def forwardChunk (result : Bool) (port : Nat) (f : Frame) (bs : List Byte) (d : Device) : Device :=
  if sendsRecords d && d.twin.mode = 2 && d.twin.primary then
    sendTwin (.forward result port { f with frag := 0, nfrag := 0, len := bs.length, payload := bs }) d
  else d

/-- A whole chunk with a good CRC arrives (R291): agreement, arrival, flags of phase 1, acknowledgement. -/
def chunkArrived (e : Nat) (t : TrigEntry) (g : Group) (s : Nat) (dest : Dest) (port : Nat) (f : Frame) (bs : List Byte)
    (d : Device) : Device :=
  let d := forwardChunk false port f bs (sendAnswer 0x02 port f d)
  if f.agree ≠ agreeWord t (fmtByte t.type) g.gen then failNow e reasonAgreement true d
  else
    let r := runOf d e
    let d := setRun e { r with arrived := r.arrived ++ [(s, f.phase, f.piece, f.index)] } d
    let d := match dest with
      | .counts k => countsCame e t g.members k bs d
      | _ => d
    let d := if isReduction t.op && f.phase = 1 then raiseStep f.flags d else d
    if isReduction t.op && f.phase = 0 && (runOf d e).method = .inSwitch then failNow e reasonConflict true d
    else settle d

/-- A frame of a chunk that the operation expects (R291): its payload goes straight to its destination bytes, which a chunk with a
bad CRC leaves free. -/
def acceptFrame (kind e : Nat) (t : TrigEntry) (members : Nat) (dest : Dest) (port : Nat) (f : Frame)
    (arrive : List Byte → Device → Device) (d : Device) : Device :=
  let old := d.fab.receive.find? (matchesRx kind f)
  if (old.map (·.arrived)).getD false then sendAnswer 0x02 port f d
  else if old.isNone && 2048 ≤ (d.fab.receive.filter fun x => x.port = port && !x.arrived).length then discardFrame d
  else
    let x := rxAdd f (old.getD (rxNew port kind f))
    let d := placeBytes e t members dest (frameSize * f.frag) f.payload d
    if !rxWhole x then { d with fab := { d.fab with receive := putRx kind f x d.fab.receive } }
    else
      let bs := rxBytes x
      if crc32c bs = f.crc then
        arrive bs { d with fab := { d.fab with
          receive := putRx kind f { x with arrived := true, frames := [] } d.fab.receive } }
      else
        let b := freeBytes bs.length d
        let d := placeBytes e t members dest 0 b.1 b.2
        sendAnswer 0x03 port f
          { d with fab := { d.fab with receive := putRx kind f { x with frames := [] } d.fab.receive } }

/-- DATA for an entry of the step (R291, R311, R313, R320). DESIGN CHOICE (notes/assumptions 121): a chunk that the operation does not
expect, or one from a node outside the group, is discarded, counted as stale and not acknowledged. -/
def dataFrame (port : Nat) (f : Frame) (d : Device) : Device :=
  match trigOf d f.entry, groupOf d f.group with
  | some t, some g =>
    let r := runOf d f.entry
    match rankOfNode g f.src with
    | none => countStale d
    | some s =>
      if r.failed || t.group ≠ f.group then countStale d
      else
        match dataDest t g.members g.myRank s f.phase f.piece f.index with
        | none => if f.agree ≠ agreeWord t (fmtByte t.type) g.gen then
            failNow f.entry reasonAgreement true (sendAnswer 0x02 port f d)
          else countStale d
        | some dest =>
          if f.agree ≠ agreeWord t (fmtByte t.type) g.gen then
            acceptFrame 0x01 f.entry t g.members .nothing port f (chunkArrived f.entry t g s .nothing port f) d
          else acceptFrame 0x01 f.entry t g.members dest port f (chunkArrived f.entry t g s dest port f) d
  | _, _ => countStale d

/-- DATA (R286, R291, R31): a frame on the twin port carries part of a twin record (R416). A mirror takes none from its own
ports (R421). -/
def devData (port : Fin 9) (f : Frame) (d : Device) : Device :=
  if !fabricRuns d || (mirrors d && port.val ≠ 8) then d
  else if !frameOk d [1, 2, 3] f then discardFrame d
  else if port.val = 8 then twinData f d
  else if staleFrame d f then countStale d
  else dataFrame port.val f d

/-- DATA. -/
def execData (port : Fin 9) (f : Frame) (s : State) : Host.Outcome State Fault Refusal := lift (devData port f) s

/-! ### ACK and NAK (R292, R298, R338) -/

/-- Whether an answer names a page of the own role's exports that is under way (R338). -/
def ownAnswer (d : Device) (f : Frame) : Bool := exportAnswerOk (if d.onTaken then swapRoles d else d) f

/-- ACK of a chunk of step work, of a release, or of an export page. -/
def ackChunk (port : Nat) (f : Frame) (d : Device) : Device :=
  if f.vc = 2 && !ownAnswer d f then countStale d
  else if f.vc ≠ 2 && staleFrame d f then countStale d
  else
    match findChunk d port f with
    | none => d
    | some (id, t) =>
      let d := dropChunk id d
      if t.chunk.ftype = 0x20 then serve (ownTurn (exportAcked t.chunk.entry t.chunk.gen t.chunk.step) d) else settle d

/-- ACK (R292). -/
def devAck (port : Fin 9) (f : Frame) (d : Device) : Device :=
  if !fabricRuns d || (mirrors d && port.val ≠ 8) then d
  else if !frameOk d [0, 1, 2, 3] f then discardFrame d
  else if port.val = 8 then twinAcked f d
  else if f.vc = 0 then
    match d.fab.particles.find? (fun e => matchesParticle f e.2) with
    | some (id, _) => { d with fab := { d.fab with particles := Tab.drop d.fab.particles id } }
    | none => d
  else ackChunk port.val f d

/-- NAK (R292): the whole chunk again at once. -/
def devNak (port : Fin 9) (f : Frame) (d : Device) : Device :=
  if !fabricRuns d || (mirrors d && port.val ≠ 8) then d
  else if !frameOk d [1, 2, 3] f then discardFrame d
  else if port.val = 8 then twinNaked f d
  else if f.vc = 2 && !ownAnswer d f then countStale d
  else if f.vc ≠ 2 && staleFrame d f then countStale d
  else
    match findChunk d port.val f with
    | some (id, t) => resendChunk id (if isPlaneChunk t then t.port else routePort d t.port) d
    | none => d

/-- NAK. -/
def execNak (port : Fin 9) (f : Frame) (s : State) : Host.Outcome State Fault Refusal := lift (devNak port f) s

/-! ### Timeouts and ports (R292, R293) -/

/-- A chunk is unacknowledged after its last resend: a transport failure of its operation (R292); a release is given up
(R309). -/
def transportFailure (id : Nat) (t : TxChunk) (d : Device) : Device :=
  if t.chunk.ftype = 0x20 then serve (ownTurn (exportChunkFailed t.chunk.entry t.chunk.gen t.chunk.step) (dropChunk id d))
  else if t.chunk.ftype = 0x15 then serve (dropChunk id d)
  else failNow t.chunk.entry reasonTransport true (dropChunk id d)

/-- The timeout of a twin record's chunk (R416): after the last resend only the wait of R422 is left. -/
def twinRetry (id : Nat) (d : Device) : Device :=
  match d.twin.unacked.find? (·.id = id) with
  | some u => if fabricRuns d && u.resends < regField d .fabRetry 24 4 then resendTwin u d else d
  | none => d

/-- TRANSPORT_RETRY_TIMEOUT (R292). -/
def devTransportRetryTimeout (id : Nat) (d : Device) : Device :=
  match Tab.find d.fab.chunks id with
  | none => twinRetry id d
  | some t =>
    if !fabricRuns d || t.waiting then d
    else if t.resends < regField d .fabRetry 24 4 then
      resendChunk id (if isPlaneChunk t then t.port else routePort d t.port) d
    else transportFailure id t d

/-- TRANSPORT_RETRY_TIMEOUT. -/
def execTransportRetryTimeout (id : Nat) (s : State) : Host.Outcome State Fault Refusal :=
  lift (devTransportRetryTimeout id) s

/-- Entries that wait for the answer of a plane: a plane whose port is down counts as REFUSE (R309). -/
def planeDown (port : Nat) (d : Device) : Device :=
  ((d.fab.entries.filter fun e => e.2.method = .asking).map (·.1)).foldl (fun d e => addAnswer e port false d) d

/-- PORT_DOWN (R293, R322): an ORED_OPEN that has not left does not any more. -/
def devPortDown (port : Fin 8) (d : Device) : Device :=
  if !powered d || d.job.fatal || !portUp d port.val then d
  else
    let bit := 1#8 <<< port.val
    let d := { d with fab := { d.fab with
      up := d.fab.up &&& ~~~bit, downEvt := d.fab.downEvt ||| bit
      chunks := d.fab.chunks.filter fun c => !(c.2.port = port.val && c.2.chunk.ftype = 0x10) } }
    settle (planeDown port.val (moveChunks port.val d))

/-- PORT_DOWN. -/
def execPortDown (port : Fin 8) (s : State) : Host.Outcome State Fault Refusal := lift (devPortDown port) s

/-! ### Folding and ordered reduction (R307, R309) -/

/-- CONTRIBUTION_FOLD (R307): the contribution of a rank to a chunk of the own piece, once every lower rank's is
folded. -/
def devContributionFold (entry : Fin 4096) (rank chunk : Nat) (d : Device) : Device :=
  match trigOf d entry.val with
  | none => d
  | some t =>
    match groupOf d t.group with
    | none => d
    | some g =>
      let r := runOf d entry.val
      let here := rank = g.myRank || r.arrived.contains (rank, 0, g.myRank, chunk)
      let inPiece := decide (chunk < chunkCount (bytesFor t.type (pieceLen t.n g.members g.myRank)))
      if fabricRuns d && d.job.inFlight && !d.job.faulted && isReduction t.op && r.fired && !r.failed &&
          r.method = .direct && rank < g.members && inPiece && here && Tab.getD r.folded chunk 0 = rank then
        settle (foldChunk entry.val t g rank chunk d)
      else d

/-- CONTRIBUTION_FOLD. -/
def execContributionFold (entry : Fin 4096) (rank chunk : Nat) (s : State) : Host.Outcome State Fault Refusal :=
  lift (devContributionFold entry rank chunk) s

/-- The checks of an answer or result of a plane (R286, R308, R31). -/
def planeFrame (len : Nat) (f : Frame) (act : Device → Device) (d : Device) : Device :=
  if !fabricRuns d || mirrors d then d
  else if !frameOk d [1] f || (len ≠ 0 && f.len ≠ len) then discardFrame d
  else if staleFrame d f then countStale d
  else act d

/-- The answer of a plane for an entry of the frame's group; any other is stale (R309). -/
def planeAnswer (port : Nat) (grant : Bool) (f : Frame) (d : Device) : Device :=
  if (trigOf d f.entry).any (·.group = f.group) then settle (addAnswer f.entry port grant d) else countStale d

/-- ORED_GRANT (R309): REASON 0x00. -/
def devOredGrant (port : Fin 8) (f : Frame) (d : Device) : Device :=
  planeFrame 8 f (fun d =>
    if !allZero f.payload then discardFrame d else planeAnswer port.val true f d) d

/-- ORED_GRANT. -/
def execOredGrant (port : Fin 8) (f : Frame) (s : State) : Host.Outcome State Fault Refusal :=
  lift (devOredGrant port f) s

/-- ORED_REFUSE (R309): REASON 0x01 to 0x04. -/
def devOredRefuse (port : Fin 8) (f : Frame) (d : Device) : Device :=
  planeFrame 8 f (fun d =>
    let reason := field f.payload 0 1
    if reason = 0 || 4 < reason || !allZero (f.payload.drop 1) then discardFrame d
    else planeAnswer port.val false f d) d

/-- ORED_REFUSE. -/
def execOredRefuse (port : Fin 8) (f : Frame) (s : State) : Host.Outcome State Fault Refusal :=
  lift (devOredRefuse port f) s

/-- The planes that have not answered an entry. -/
def silentPlanes (r : EntryRun) : List Nat := (List.range 8).filter fun p => !r.answers.any (·.1 = p)

/-- ORED_ANSWER_TIMEOUT (R309): planes that have not answered count as REFUSE. -/
def devOredAnswerTimeout (entry : Fin 4096) (d : Device) : Device :=
  let r := runOf d entry.val
  match trigOf d entry.val with
  | none => d
  | some t =>
    match groupOf d t.group with
    | none => d
    | some g =>
      if !fabricRuns d || r.method ≠ .asking || r.failed then d
      else
        let answers := r.answers ++ (silentPlanes r).map fun p => (p, false)
        settle (decide8 entry.val t g (setRun entry.val { r with answers := answers } d))

/-- ORED_ANSWER_TIMEOUT. -/
def execOredAnswerTimeout (entry : Fin 4096) (s : State) : Host.Outcome State Fault Refusal :=
  lift (devOredAnswerTimeout entry) s

/-- A result chunk of the switch arrives: its flags are raised (R309). -/
def resultArrived (e port : Nat) (f : Frame) (bs : List Byte) (d : Device) : Device :=
  let d := forwardChunk true port f bs (sendAnswer 0x02 port f d)
  let r := runOf d e
  settle (raiseStep f.flags (setRun e { r with arrived := r.arrived ++ [(2, 2, f.piece, f.index)] } d))

/-- A chunk of a result for an entry of the step: for an operation that runs by direct exchange it fails the
collective (R311). DESIGN CHOICE (notes/assumptions 122): one that comes while the member waits for the planes' answers is stale and
is not acknowledged. -/
def resultFrame (port : Nat) (f : Frame) (d : Device) : Device :=
  match trigOf d f.entry, groupOf d f.group with
  | some t, some g =>
    let r := runOf d f.entry
    if r.failed || !r.fired || t.group ≠ f.group || r.method = .asking then countStale d
    else if r.method = .direct then
      (if isReduction t.op then failNow f.entry reasonConflict true d else countStale d)
    else
      match resultDest t g.members g.myRank f.piece f.index with
      | some dest => acceptFrame 0x14 f.entry t g.members dest port f (resultArrived f.entry port f) d
      | none => countStale d
  | _, _ => countStale d

/-- ORED_RESULT (R309, R311). -/
def devOredResult (port : Fin 8) (f : Frame) (d : Device) : Device := planeFrame 0 f (resultFrame port.val f) d

/-- ORED_RESULT. -/
def execOredResult (port : Fin 8) (f : Frame) (s : State) : Host.Outcome State Fault Refusal :=
  lift (devOredResult port f) s

/-- COLLECTIVE_PROGRESS_TIMEOUT (R319): not while the entry waits for the planes. -/
def devCollectiveProgressTimeout (entry : Fin 4096) (d : Device) : Device :=
  let r := runOf d entry.val
  if fabricRuns d && d.job.inFlight && r.fired && !r.complete && !r.failed && r.method ≠ .asking then
    failNow entry.val reasonTimeout true d
  else d

/-- COLLECTIVE_PROGRESS_TIMEOUT. -/
def execCollectiveProgressTimeout (entry : Fin 4096) (s : State) : Host.Outcome State Fault Refusal :=
  lift (devCollectiveProgressTimeout entry) s

/-- COLL_FAIL (R320): of the current generation and the step in flight, for an entry of its group; any other is stale. -/
def devCollFail (pin : ParticleIn) (d : Device) : Device :=
  if !fabricRuns d then d
  else
    receiveParticle typeCollFail pin
      (fun d p => d.job.inFlight && p.step = d.job.number && ((groupOf d p.group).map (·.gen)) = some p.gen &&
        (trigOf d p.entry).any (·.group = p.group))
      (fun p d => failNow p.entry p.status false d) d

/-- COLL_FAIL. -/
def execCollFail (p : ParticleIn) (s : State) : Host.Outcome State Fault Refusal := lift (devCollFail p) s

end Sys2Proof.Machine
end

