-- ==== Sys2Proof/Machine/Partition.lean ====
section
/-!
DEFINITION. Steps across a partition (R32 to R37, R408, R409), acknowledgements that let a step go on (R419), and the
records of the twin that arrive (R416 to R422).
-/
namespace Sys2Proof.Machine

/-- The step after `n`, modulo 2^48. -/
def stepAfter (n : Nat) : Nat := (n + 1) % 2 ^ 48

/-! ### STEP_START (R34, R408) -/

/-- Whether a STEP_START commits the step in flight: it waits at local done and has sent STEP_DONE. -/
def startCommits (d : Device) (p : Particle) : Bool :=
  d.job.inFlight && d.job.localDone && d.job.doneSent && !inBoundary d && p.step = stepAfter d.job.number

/-- Whether a STEP_START orders the next step of a member that is in none. -/
def startOrders (d : Device) (p : Particle) : Bool :=
  !d.job.inFlight && !d.job.startOrdered && !inBoundary d && p.step = d.job.number

/-- STEP_START (R34): commit n and begin n + 1. -/
def devStepStart (pin : ParticleIn) (page : Option Doorbell) (d : Device) : Device :=
  if !serving d then d
  else
    receiveParticle typeStart pin
      (fun d p => !isLead d && !d.job.halted && p.gen = d.job.gen && p.sender = 0 && (startCommits d p || startOrders d p))
      (fun p d =>
        let commits := startCommits d p
        let d := { d with job := { d.job with startOrdered := true } }
        if commits then beginBoundary page d else d) d

/-- STEP_START. -/
def execStepStart (p : ParticleIn) (page : Option Doorbell) (s : State) : Host.Outcome State Fault Refusal :=
  lift (devStepStart p page) s

/-! ### STEP_DONE at member 0 (R33, R408) -/

/-- Whether a STEP_DONE is the ready of a restart (R408). -/
def isReady (d : Device) (p : Particle) : Bool := d.job.awaitReady && p.step = stepBefore d.job.number

/-- STEP_DONE (R33): of the step in flight, or a ready. -/
def devStepDone (pin : ParticleIn) (page : Option Doorbell) (d : Device) : Device :=
  if !serving d then d
  else
    receiveParticle typeDone pin
      (fun d p => isLead d && !d.job.halted && p.gen = d.job.gen && p.sender < memberCount d &&
        (isReady d p || (d.job.inFlight && !inBoundary d && p.step = d.job.number)))
      (fun p d =>
        if isReady d p then
          (if p.status = 0 then tryReady { d with job := { d.job with ready := d.job.ready ++ [p.sender] } } else d)
        else if p.status = 1 then faultStep d
        else progressDone (beginBoundary page) { d with job := { d.job with doneFrom := d.job.doneFrom ++ [p.sender] } }) d

/-- STEP_DONE. -/
def execStepDone (p : ParticleIn) (page : Option Doorbell) (s : State) : Host.Outcome State Fault Refusal :=
  lift (devStepDone p page) s

/-! ### STEP_ABORT (R36, R408, R409) -/

/-- Item 2 of R408 after the operations that are left of a boundary. -/
def abandonAfter (gen : Nat) (d : Device) : Device :=
  { d with bnd := { d.bnd with ops := (d.bnd.ops.filter (· ≠ .finish)) ++ [.abandon gen, .finish] } }

/-- A member is told that step `n` is discarded (R408): it performs boundary n - 1 first where it has not yet. -/
def memberAbort (n : Nat) (page : Option Doorbell) (d : Device) : Device :=
  let gen := (d.job.gen + 1) % 2 ^ 32
  if inBoundary d then abandonAfter gen d
  else if n = d.job.number then sendWant (resumeJob gen (toOwn d))
  else beginOps (boundaryOps d.twin.taken.isSome ++ [.abandon gen, .finish]) page d

/-- A member's report at member 0 (R36): a fault of the step in flight; while member 0 waits for ready, a member that halted has
reported (R410), and the job restarts once more. -/
def leadAbort (d : Device) : Device := if d.job.awaitReady && !inBoundary d then restartBegin d else faultStep d

/-- STEP_ABORT: at member 0 the report of a member (R36), at another member the order of member 0 (R408). -/
def devStepAbort (pin : ParticleIn) (page : Option Doorbell) (d : Device) : Device :=
  if !serving d then d
  else
    receiveParticle typeAbort pin
      (fun d p => p.gen = d.job.gen &&
        (if isLead d then p.sender ≠ 0 && (p.step = d.job.number || p.step = stepBefore d.job.number)
         else p.sender = 0 && (p.step = d.job.number || (p.step = stepAfter d.job.number &&
           (inBoundary d || (d.job.inFlight && d.job.localDone))))))
      (fun p d => if isLead d then leadAbort d else memberAbort p.step page d) d

/-- STEP_ABORT. -/
def execStepAbort (p : ParticleIn) (page : Option Doorbell) (s : State) : Host.Outcome State Fault Refusal :=
  lift (devStepAbort p page) s

/-! ### STEP_WANT (R35) -/

/-- STEP_WANT at member 0. -/
def devStepWant (pin : ParticleIn) (d : Device) : Device :=
  if !serving d then d
  else
    receiveParticle typeWant pin
      (fun d p => isLead d && p.gen = d.job.gen && p.step = d.job.number && p.sender < memberCount d)
      (fun _ d => { d with job := { d.job with wantNoted := true } }) d

/-- STEP_WANT. -/
def execStepWant (p : ParticleIn) (s : State) : Host.Outcome State Fault Refusal := lift (devStepWant p) s

/-- STEP_WANT_REPEAT (R35): HIF_POLL_CYCLES have passed and the work is still pending. -/
def devStepWantRepeat (d : Device) : Device :=
  if wantsStep d then sendWant { d with job := { d.job with wantSent := false } } else d

/-- STEP_WANT_REPEAT. -/
def execStepWantRepeat (s : State) : Host.Outcome State Fault Refusal := lift devStepWantRepeat s

/-! ### ACK (R292, R298, R419) -/

/-- ACK; that of a twin record may let STEP_DONE go or commit the step (R419). -/
def execAck (port : Fin 9) (f : Frame) (s : State) (page : Option Doorbell := none) : Host.Outcome State Fault Refusal :=
  lift (fun d =>
    let d := devAck port f d
    if port.val = 8 then progressDone (beginBoundary page) d else d) s

/-! ### Records of the twin that arrive (R416 to R422) -/

/-- Whether a receive context holds a chunk of the twin port. -/
def rxTwin (c : Chunk) (x : RxChunk) : Bool := x.kind = twinRx && x.piece = c.piece && x.index = c.index

/-- A record has come whole: each of its chunks that no frame command has shown is acknowledged by its part and index, and
the next part is awaited (R291, R416; notes/assumptions 14). -/
def ackRecord (r : TwinRec) (d : Device) : Device :=
  let cs := twinChunks d false d.twin.received r
  let seen := fun (c : Chunk) => d.fab.receive.any fun x => rxTwin c x && x.arrived
  let acks := (cs.filter fun c => !seen c).flatMap fun c => (chunkFrames d c).take 1
  { acks.foldl (fun d f => sendTwinAnswer 0x02 { f with src := d.twin.node } d) d with
    fab := { d.fab with receive := d.fab.receive.filter fun x => !cs.any (rxTwin · x) }
    twin := { d.twin with received := d.twin.received + partsTaken cs } }

/-- A record of the current attach generation is acknowledged and acts; any other is discarded (R416). -/
def receiveTwin (gen : Nat) (r : TwinRec) (act : Device → Device) (d : Device) : Device :=
  if !serving d then d
  else if gen ≠ d.twin.attachGen || !pairExists d then countStale d
  else act (ackRecord r d)

/-- HELLO (R418): compared at the next action 4; a mirror, which runs no step of its own meanwhile, compares it at once
(notes/assumptions 49). -/
def devHello (gen : Nat) (h : Hello) (d : Device) : Device :=
  receiveTwin gen (.hello h) (fun d =>
    if d.twin.state ≠ .attaching then d
    else
      let d := { d with twin := { d.twin with peerHello := some h } }
      if d.twin.mode = 2 && !d.twin.primary && !inBoundary d then attachProgress d else d) d

/-- HELLO. -/
def execHello (attachGen : Nat) (h : Hello) (s : State) : Host.Outcome State Fault Refusal := lift (devHello attachGen h) s

/-- The primary's state as a mirror receives it: the bytes of its slots at their own places, the rest kept until no step
and no boundary is in progress. -/
def keepSync (r : SyncRec) (d : Device) : Device :=
  let d := r.bytes.foldl (fun d b =>
    if b.1 = 2 then { d with mem := { d.mem with spill := writeBytes d.mem.spill b.2.1 b.2.2 } }
    else { d with mem := (writeRange d.mem b.2.1 b.2.2).1 }) d
  adoptMirror { d with twin := { d.twin with synced := true, parked := some r } }

/-- SYNC (R418). -/
def devSync (gen : Nat) (r : SyncRec) (d : Device) : Device :=
  receiveTwin gen (.sync r) (fun d =>
    if d.twin.synced then d
    else if d.twin.mode = 1 then takeSync r d
    else if d.twin.primary then d
    else keepSync r d) d

/-- SYNC. -/
def execSync (attachGen : Nat) (r : SyncRec) (s : State) : Host.Outcome State Fault Refusal := lift (devSync attachGen r) s

/-- RESULT (R420, R421): kept for the shadow's boundary, or R(n) of the mirror compared. -/
def devResult (gen : Nat) (r : TwinResult) (page : Option Doorbell) (d : Device) : Device :=
  receiveTwin gen (.result r) (fun d =>
    if d.twin.mode = 1 then
      { d with twin := { d.twin with
        shadow := d.twin.shadow.map fun x => { x with results := (x.results.filter (·.step ≠ r.step)) ++ [r] } } }
    else if d.twin.primary then
      progressDone (beginBoundary page) (compareResults { d with twin := { d.twin with peerR := some (r.step, r.digest) } })
    else d) d

/-- RESULT. -/
def execResult (attachGen : Nat) (r : TwinResult) (s : State) (page : Option Doorbell := none) : Host.Outcome State Fault Refusal :=
  lift (devResult attachGen r page) s

/-- A BOUNDARY record of the mirror: its D(n) against the primary's own (R421, R422). -/
def compareDigest (r : BoundaryRec) (d : Device) : Device :=
  match d.twin.ownDigests.find? (·.1 = r.step) with
  | some x => if x.2 = r.digest then d else faultDetach .unpaired true d
  | none => d

/-- BOUNDARY (R420, R421): applied to the shadow, performed by the mirror, or compared by the primary. -/
def devBoundary (gen : Nat) (r : BoundaryRec) (page : Option Doorbell) (d : Device) : Device :=
  receiveTwin gen (.boundary r) (fun d =>
    let d := if d.twin.mode = 1 then
        let x := shadowBoundary r d
        if x.1 then x.2 else faultDetach .unpaired true x.2
      else if d.twin.primary then compareDigest r d
      else { d with twin := { d.twin with orders := d.twin.orders ++ [r] } }
    progressDone (beginBoundary page) d) d

/-- BOUNDARY. -/
def execBoundary (attachGen : Nat) (r : BoundaryRec) (s : State) (page : Option Doorbell := none) :
    Host.Outcome State Fault Refusal :=
  lift (devBoundary attachGen r page) s

/-- ORDER (R421): the mirror starts the step; an order for the step in flight starts it afresh. -/
def devOrder (gen step : Nat) (items : List LogItem) (d : Device) : Device :=
  receiveTwin gen (.order step items) (fun d =>
    if !mirrorSide d then d
    else
      let d := if d.job.inFlight && step = d.job.number && !inBoundary d then discardStep d else d
      { d with twin := { d.twin with mirrorStart := some (step, items) } }) d

/-- ORDER. -/
def execOrder (attachGen step : Nat) (items : List LogItem) (s : State) : Host.Outcome State Fault Refusal :=
  lift (devOrder attachGen step items) s

/-- A chunk that the primary accepted acts on the mirror as if it had come by the port; group 0 carries the generation of
the primary. -/
def forwarded (result : Bool) (port : Nat) (f : Frame) (d : Device) : Device :=
  let d := if f.group = 0 && d.job.gen < f.gen then adoptGen f.gen d else d
  if result then resultFrame port f d else dataFrame port f d

/-- FORWARD (R417, R421): taken once the mirror runs the chunk's step. -/
def devForward (gen : Nat) (result : Bool) (port : Fin 8) (f : Frame) (d : Device) : Device :=
  if serving d && mirrorSide d && gen = d.twin.attachGen && (!d.job.inFlight || f.step ≠ d.job.number) then d
  else
    receiveTwin gen (.forward result port.val f) (fun d => if mirrors d then forwarded result port.val f d else d) d

/-- FORWARD. -/
def execForward (attachGen : Nat) (result : Bool) (port : Fin 8) (f : Frame) (s : State) :
    Host.Outcome State Fault Refusal :=
  lift (devForward attachGen result port f) s

/-- DETACH (R422): effective at the next action 4; a mirror that is in no boundary has none to wait for. The record does not say
whether a TWIN_DETACH or a mismatch of the twin's shadow has sent it: between paired twins a free value decides whether it is a
fault detach (notes/assumptions 50). -/
def devDetach (gen : Nat) (page : Option Doorbell) (d : Device) : Device :=
  receiveTwin gen .detach (fun d =>
    let note := fun (d : Device) => { d with twin := { d.twin with detachNote := true } }
    let d := if mirrors d && !inBoundary d then cleanDetach d
      else if d.twin.state = .paired then
        let x := takeFree d
        if x.1 % 2 = 0 then note x.2 else faultDetach .unpaired false x.2
      else note d
    progressDone (beginBoundary page) d) d

/-- DETACH. -/
def execDetach (attachGen : Nat) (s : State) (page : Option Doorbell := none) : Host.Outcome State Fault Refusal :=
  lift (devDetach attachGen page) s

/-- TWIN_WAIT_TIMEOUT (R422): a record is not acknowledged in time. -/
def devTwinWaitTimeout (page : Option Doorbell) (d : Device) : Device :=
  if !serving d || d.twin.unacked.isEmpty then d else progressDone (beginBoundary page) (twinGone d)

/-- TWIN_WAIT_TIMEOUT. -/
def execTwinWaitTimeout (s : State) (page : Option Doorbell := none) : Host.Outcome State Fault Refusal :=
  lift (devTwinWaitTimeout page) s

/-- TWIN_HELLO_TIMEOUT (R418): ATTACH_STEPS boundaries have passed without HELLO. -/
def devTwinHelloTimeout (d : Device) : Device :=
  if serving d && d.twin.state = .attaching && d.twin.peerHello.isNone && d.twin.left = 0 then attachFail d else d

/-- TWIN_HELLO_TIMEOUT. -/
def execTwinHelloTimeout (s : State) : Host.Outcome State Fault Refusal := lift devTwinHelloTimeout s

/-- TWIN_PORT_DOWN (R322, R422). -/
def devTwinPortDown (page : Option Doorbell) (d : Device) : Device :=
  if !powered d || d.job.fatal then d
  else
    let d := { d with fab := { d.fab with twinUp := false } }
    if serving d then progressDone (beginBoundary page) (twinGone d) else d

/-- TWIN_PORT_DOWN. -/
def execTwinPortDown (s : State) (page : Option Doorbell := none) : Host.Outcome State Fault Refusal :=
  lift (devTwinPortDown page) s

/-- TWIN_PORT_UP (R322). -/
def devTwinPortUp (d : Device) : Device :=
  if !fwRuns d || (d.test.busy && d.test.target = 2) then d else { d with fab := { d.fab with twinUp := true } }

/-- TWIN_PORT_UP. -/
def execTwinPortUp (s : State) : Host.Outcome State Fault Refusal := lift devTwinPortUp s

end Sys2Proof.Machine
end

