-- ==== Sys2Proof/Machine/HostIf.lean ====
section
/-!
DEFINITION. The host interface's own commands: polling the doorbell page and halt boundaries (R352, R411), fetches that
complete (R353, R355), each descriptor taking effect (R357), ring restart (R355), accesses through BAR2 (R347, R534),
completion timeouts (R530).
-/
namespace Sys2Proof.Machine

/-! ### Polling and fetching (R352 to R355) -/

/-- DOORBELL_POLL (R352); a halted member performs a halt boundary after the read (R411), and the boundary that JOB_RESTART asks for
begins with it. -/
def devDoorbellPoll (page : Option Doorbell) (d : Device) : Device :=
  if !powered d || !d.cfgLocked || d.twin.retired then d
  else if d.bnd.ops.head? = some .doorbell then
    let d := readPage page d
    runBoundary { d with bnd := { d.bnd with ops := d.bnd.ops.tail } }
  else if d.job.halted && !d.job.fatal && !inBoundary d then beginOps [.haltCutoff, .haltEnd, .finish] page d
  else readPage page d

/-- DOORBELL_POLL. -/
def execDoorbellPoll (page : Option Doorbell) (s : State) : Host.Outcome State Fault Refusal :=
  lift (devDoorbellPoll page) s

/-- What a fetched descriptor does (R353, R361, R362, R369): QUERY is answered, or waits for the boundary in progress; a
load makes its copy; any other waits for its boundary. -/
def takeFetched (f : Fetched) (d : Device) : Device :=
  if opcodeOf f = 0x60 then
    (if inBoundary d then { d with hif := { d.hif with queries := d.hif.queries ++ [f] } }
     else forRing f.ring.val (answerQuery f) d)
  else
    let d := fetchCopy f d
    sendWant { d with hif := { d.hif with fetched := d.hif.fetched ++ [f] } }

/-- Whether a descriptor of a ring can be fetched (R353, R355): the ring is enabled and not stopped, and one is placed. -/
def fetches (d : Device) (ring : Fin 64) : Bool :=
  serving d && (ringCfg d (.hifSq ring)).en && !d.hif.sqErr.getLsbD ring.val && sqWaiting d ring.val ≠ 0

/-- The index of the next descriptor of a ring. -/
def nextIndex (d : Device) (ring : Fin 64) : Nat := Tab.getD d.hif.sqCons ring.val 0

/-- A fetch completes (R353): the ring's consumer count advances, in the status page too, and the descriptor is taken. -/
def fetchDone (f : Fetched) (d : Device) : Device :=
  let next := (nextIndex d f.ring + 1) % 2 ^ 32
  takeFetched f (statusWrite (8 * f.ring.val) next
    { d with hif := { d.hif with sqCons := Tab.put d.hif.sqCons f.ring.val next } })

/-- DESCRIPTOR_FETCH (R353, R355): the next descriptor of an enabled ring that is not stopped. -/
def devDescriptorFetch (ring : Fin 64) (rd : FetchRead) (d : Device) : Device :=
  if !fetches d ring then d
  else
    match rd with
    | .failed => stopRing ring.val d
    | .got desc a b => fetchDone { ring := ring, index := nextIndex d ring, desc := desc, blockA := a, blockB := b } d

/-- DESCRIPTOR_FETCH. -/
def execDescriptorFetch (ring : Fin 64) (rd : FetchRead) (s : State) : Host.Outcome State Fault Refusal :=
  lift (devDescriptorFetch ring rd) s

/-! ### Descriptors (R357) -/

/-- A descriptor with an opcode whose fetch completes (R353), the next one of its ring: a load makes its copy at once; what the descriptor does
otherwise it does at action 4 of the boundary that admits it (R16, R29, R39, R357), a halted member's at its next halt
boundary (R411). Another member than 0 tells member 0 at once that work is pending (R35). -/
def devDescriptor (op : Nat) (f : Fetched) (d : Device) : Device :=
  if !fetches d f.ring || f.index ≠ nextIndex d f.ring || opcodeOf f ≠ op then d else fetchDone f d

/-- MODEL_LOAD (R361). -/
def execModelLoad (f : Fetched) (s : State) : Host.Outcome State Fault Refusal := lift (devDescriptor 0x01 f) s

/-- SENTENCE_LOAD (R362). -/
def execSentenceLoad (f : Fetched) (s : State) : Host.Outcome State Fault Refusal := lift (devDescriptor 0x02 f) s

/-- VARIANT_LOAD (R249). -/
def execVariantLoad (f : Fetched) (s : State) : Host.Outcome State Fault Refusal := lift (devDescriptor 0x03 f) s

/-- REQ_SUBMIT (R229). -/
def execReqSubmit (f : Fetched) (s : State) : Host.Outcome State Fault Refusal := lift (devDescriptor 0x10 f) s

/-- REQ_CANCEL (R243). -/
def execReqCancel (f : Fetched) (s : State) : Host.Outcome State Fault Refusal := lift (devDescriptor 0x11 f) s

/-- REQ_PAUSE (R240). -/
def execReqPause (f : Fetched) (s : State) : Host.Outcome State Fault Refusal := lift (devDescriptor 0x12 f) s

/-- REQ_RESUME (R242). -/
def execReqResume (f : Fetched) (s : State) : Host.Outcome State Fault Refusal := lift (devDescriptor 0x13 f) s

/-- REQ_PRIORITY (R235). -/
def execReqPriority (f : Fetched) (s : State) : Host.Outcome State Fault Refusal := lift (devDescriptor 0x14 f) s

/-- EXPORT_SLOTS (R332). -/
def execExportSlots (f : Fetched) (s : State) : Host.Outcome State Fault Refusal := lift (devDescriptor 0x20 f) s

/-- GROUP_DEFINE (R300). -/
def execGroupDefine (f : Fetched) (s : State) : Host.Outcome State Fault Refusal := lift (devDescriptor 0x30 f) s

/-- GROUP_REFORM (R321). -/
def execGroupReform (f : Fetched) (s : State) : Host.Outcome State Fault Refusal := lift (devDescriptor 0x31 f) s

/-- JOB_RESTART (R412). -/
def execJobRestart (f : Fetched) (s : State) : Host.Outcome State Fault Refusal := lift (devDescriptor 0x40 f) s

/-- TWIN_ATTACH (R418). -/
def execTwinAttach (f : Fetched) (s : State) : Host.Outcome State Fault Refusal := lift (devDescriptor 0x41 f) s

/-- TWIN_DETACH (R422). -/
def execTwinDetach (f : Fetched) (s : State) : Host.Outcome State Fault Refusal := lift (devDescriptor 0x42 f) s

/-- STEP_LOG (R55, R371). -/
def execStepLog (f : Fetched) (s : State) : Host.Outcome State Fault Refusal := lift (devDescriptor 0x50 f) s

/-- QUERY (R369). -/
def execQuery (f : Fetched) (s : State) : Host.Outcome State Fault Refusal := lift (devDescriptor 0x60 f) s

/-! ### BAR0 and HIF_SQ_ERR (R346, R355, R510) -/

/-- Whether the host reaches BAR0 and BAR2: power and a trained link (R510). -/
def linked (d : Device) : Bool := powered d && d.power.linkUp

/-- RING_RESTART (R355): the bits written as 1 restart their rings. -/
def devRingRestart (v : W64) (d : Device) : Device :=
  if linked d then { d with hif := { d.hif with sqErr := d.hif.sqErr &&& ~~~v } } else d

/-- RING_RESTART. -/
def execRingRestart (v : W64) (s : State) : Host.Outcome State Fault Refusal := lift (devRingRestart v) s

/-! ### What firmware keeps in memory (R253, R254, R225, R197, R534) -/

/-- The 8 bytes of each of some entries. -/
def entriesBytes (es : List PageEntry) : List Byte := es.flatMap fun e => bytesOfNat 8 (entryWord e)

/-- A node index in the tree index: none is all ones (R253, R254). -/
def nodeWord (n : Option Nat) : Nat := n.getD 0xFFFFFFFF

/-- The 64 bytes of a tree node (R254). -/
def nodeBytes (n : TreeNode) : List Byte :=
  bytesOfNat 16 n.key ++ bytesOfNat 4 (nodeWord n.parent) ++ bytesOfNat 4 (nodeWord n.next) ++ bytesOfNat 4 n.holders ++
    bytesOfNat 4 n.children ++ bytesOfNat 8 n.lastStep ++ bytesOfNat 2 n.variant ++ bytesOfNat 2 0 ++
    bytesOfNat 4 n.depth ++ bytesOfNat 4 (1 + 2 * ofBit n.indexed) ++ bytesOfNat 12 0

/-- Byte `a` of a view of `bs` at `at'`. -/
def viewAt (at' : Nat) (bs : List Byte) (a : Nat) : Option Byte := if at' ≤ a then bs[a - at']? else none

/-- A byte of the tree index (R253). DESIGN CHOICE (notes/assumptions 129): with MAX_NODES = 0, or with no sentence loaded, there is no
index, and its area is plain memory. -/
def treeByte (d : Device) (a : Nat) : Option Byte :=
  let base := regField d .cfgPrefixBase 21 27 * 2 ^ 21
  let off := a - base
  let per := 8 * dirLayers d * dirHeads d
  if maxNodes d = 0 || d.loaded.sentence.isNone || a < base || 0x11000000 + maxNodes d * per ≤ off then none
  else if off < 0x01000000 then (bytesOfNat 4 (nodeWord (bucketHead d (off / 4))))[off % 4]?
  else if off < 0x11000000 then
    (Tab.find d.tree ((off - 0x01000000) / 64)).bind fun n => (nodeBytes n)[off % 64]?
  else
    let x := off - 0x11000000
    (Tab.find d.tree (x / per)).bind fun n => (entriesBytes n.slots)[x % per]?

/-- The bytes of token identifiers (R359). -/
def tokensBytes (ts : List (BitVec 32)) : List Byte := ts.flatMap fun t => bytesOfNat 4 t.toNat

/-- A byte of what firmware keeps where the host can find it (R534): request records and list heads of the own role; entry
arrays, sampler states, prompt and released tokens of every role; the tree index. -/
def firmwareByte (d : Device) (a : Nat) : Option Byte :=
  if requestTable ≤ a && a < requestTable + 64 * 16384 then
    (reqAt (toOwn d) ((a - requestTable) / 64)).bind fun q => (recordBytes q)[a % 64]?
  else
    let heads := (toOwn d).role.lists.findSome? fun l => viewAt (headAddr d l.key) (headBytes l) a
    let area := workArea d
    let kept := if a < area.1 || area.1 + area.2 ≤ a then none else (allRoles d).findSome? fun r =>
      (r.lists.findSome? fun l => viewAt l.entriesAt (entriesBytes l.entries) a) <|>
        r.reqs.findSome? fun q => viewAt q.2.stateAddr (samplerState d q.2) a <|>
          viewAt q.2.promptAt (tokensBytes q.2.prompt) a <|> viewAt q.2.tokensAt (tokensBytes q.2.released) a
    heads <|> kept <|> treeByte d a

/-! ### BAR2 (R347, R450, R455, R534) -/

/-- Device address of BAR2 offset 0: BASE rounded down to a multiple of the BAR2 size. -/
def bar2Base (d : Device) : Nat :=
  let size := 2 ^ d.pcie.host.bar2Log
  regField d .hifBar2Window 30 18 * 2 ^ 30 / size * size

/-- Whether the memory that holds an address has been wiped (R455). -/
def memoryDone (d : Device) (a : Nat) : Bool :=
  if inHub a then d.boot.wipe.hubDone else if inBlock a then d.boot.wipe.blockDone else d.boot.wipe.hbmDone

/-- Whether BAR2 finds memory at an address: it lies in the map, and no loop-back has its stack (R347, R496). -/
def bar2Reaches (d : Device) (a : Nat) : Bool :=
  inMap a && !(d.test.busy && d.test.target = 3 && inHbm a && d.test.index = stackOf a)

/-- What a BAR2 read does with the words it finds (R449, R450): counts, and no fault class. -/
def bar2Events (es : List MemEvent) (d : Device) : Device := eachEvent (fun w st => noteUncorrectable w 3 st) es d

/-- One byte of a BAR2 read, where memory delivers `stored`. -/
def bar2Byte (d : Device) (a : Nat) (stored : Byte) : Byte :=
  if !bar2Reaches d a then 0xFF#8
  else if !memoryDone d a then 0#8
  else (firmwareByte d a).getD stored

/-- Whether a BAR2 write may reach an address: HBM or block memory that has been wiped. -/
def bar2Writes (d : Device) (a : Nat) : Bool := bar2Reaches d a && !inHub a && memoryDone d a

/-- Whether an address lies in the firmware work area or a page-list directory (R534). -/
def firmwareOwned (d : Device) (a : Nat) : Bool :=
  match d.loaded.sentence with
  | none => false
  | some s =>
    let inDir := fun (dir layers heads : Nat) => dir ≤ a && a < dir + directorySize layers heads
    (s.fwArea ≤ a && a < s.fwArea + s.fwSize) || inDir s.dir s.dirLayers s.dirHeads ||
      (namedSets d).any fun x => inDir x.dir x.dirLayers x.dirHeads

/-! ### Reads of the device that are not answered (R355, R402, R530) -/

/-- The least and the most microseconds after which an unanswered read expires, by the Completion Timeout Value (R530). -/
def readExpiry (v : BitVec 4) : Nat × Nat :=
  if v = 1#4 then (90, 100) else if v = 0#4 || v = 2#4 then (9000, 10000) else (16000, 17000)

/-- A read of the device's own that expires (R530): AER logs it. -/
def logExpiry (d : Device) : Device := { d with pcie := { d.pcie with aerTimeout := true } }

/-- COMPLETION_TIMEOUT (R530): a read that a step needs is a STEP error (R402); one of the doorbell page or of a descriptor fails
(R355), where such a read can be outstanding. With the link down nothing is answered any more, which is FATAL (R402). -/
def devCompletionTimeout (rd : HostRead) (d : Device) : Device :=
  match rd with
  | .linkDown =>
    if !powered d then d
    else
      let d := { d with power := { d.power with linkUp := false } }
      if fwRuns d then goFatal 0 d else d
  | .step => if stepInFlight d then stepFault 0 (logExpiry d) else d
  | .doorbell => if serving d then setHifErr 2 (logExpiry d) else d
  | .descriptor r => if fetches d r then stopRing r.val (logExpiry d) else d
  | .other => if serving d then logExpiry d else d
where
  /-- Whether there is a step that needs a read. -/
  stepInFlight (d : Device) : Bool := serving d && d.job.inFlight

/-- Whether a read that was issued so many microseconds ago can have expired (R530); where none are given, it has. -/
def expired (d : Device) (after : Option Nat) : Bool :=
  match after with
  | some t => (readExpiry d.pcie.host.cplTimeout).1 ≤ t
  | none => true

/-- COMPLETION_TIMEOUT. -/
def execCompletionTimeout (rd : HostRead) (s : State) (after : Option Nat := none) : Host.Outcome State Fault Refusal :=
  lift (fun d => whenD (rd = .linkDown || expired d after) (devCompletionTimeout rd) d) s

end Sys2Proof.Machine
end

