-- ==== Sys2Proof/Machine/Registers.lean ====
section
/-!
DEFINITION. The setup registers (R506 to R518): the map of BAR0, which fields a write sets (R9), what a read returns, the
checks of CFG_LOCK (R430, R511), the digest latch (R515), reads by offset (R346), the CLEAR commands.
-/
namespace Sys2Proof.Machine

/-! ### The map (R506) -/

/-- Offsets of the ID_, LCS_ and HIF_ registers that stand alone. -/
def lowRegs : List (Nat × RegName) :=
  [(0x000000, .idDevice), (0x000008, .idCellCount), (0x010000, .lcsState), (0x010008, .lcsBootStatus),
   (0x010010, .lcsBootCtl), (0x010018, .lcsResetCause), (0x010020, .lcsWipeStatus), (0x010028, .lcsFwSrc),
   (0x010030, .lcsFwLen), (0x010038, .lcsSerial), (0x010040, .lcsLcChallenge), (0x010048, .lcsReportDst),
   (0x010050, .lcsCertLen), (0x020000, .hifDoorbellBase), (0x020008, .hifStatusBase), (0x020010, .hifPollCycles),
   (0x020018, .hifBar2Window), (0x020020, .hifSpillBase), (0x020028, .hifSpillSize), (0x020030, .hifSqErr),
   (0x020038, .hifErr)]

/-- Offsets of the CFG_ registers that stand alone. -/
def cfgRegs : List (Nat × RegName) :=
  [(0x030000, .cfgLock), (0x030008, .cfgStepNumber), (0x030010, .cfgStepDigestStep), (0x030040, .cfgStepDoneTimeout),
   (0x030048, .cfgStepStartTimeout), (0x030050, .cfgSteal), (0x030058, .cfgSched), (0x030060, .cfgReqCount),
   (0x030068, .cfgKvWater), (0x030088, .cfgKvAlloc), (0x030090, .cfgKvLive), (0x030098, .cfgPrefixBase),
   (0x0300A0, .cfgPrefixCtl), (0x0300A8, .cfgPrefixStat), (0x0300B0, .cfgSpecStat), (0x0300B8, .cfgWatchdog),
   (0x0300C0, .cfgRestart), (0x0300C8, .cfgScrub)]

/-- Offsets of the FAB_ and TWN_ registers. -/
def fabRegs : List (Nat × RegName) :=
  [(0x040000, .fabPortStatus), (0x040008, .fabFrame), (0x040010, .fabNode), (0x040018, .fabNodeTable),
   (0x040020, .fabRetry), (0x040028, .fabVcWeight), (0x040030, .fabOredCtl), (0x040038, .fabXferStat),
   (0x040040, .fabExportCtl), (0x040048, .fabExportStat), (0x050000, .twnStatus), (0x050008, .twnCfg),
   (0x050010, .twnShadowBase), (0x050018, .twnShadowSize), (0x050020, .twnShadowStep)]

/-- Offsets of the ERR_, QUE_ and TST_ registers that stand alone. -/
def errRegs : List (Nat × RegName) :=
  [(0x060000, .errCfgLocked), (0x060008, .errArithSticky), (0x060010, .errArithStep), (0x060018, .errBlkUnderflowCnt),
   (0x060020, .errBlkNonfiniteCnt), (0x060028, .errBlkNonfiniteLoc), (0x060030, .errAttnEmptyCnt),
   (0x060038, .errKvRewriteCnt), (0x060040, .errSampleNofiniteCnt), (0x060048, .errExpertDropCnt),
   (0x060050, .errStaleDiscard), (0x060058, .errCorrCnt), (0x060060, .errFence), (0x060068, .errMemCe),
   (0x060070, .errMemUe), (0x060078, .errMemUeAddr), (0x060080, .errHbmOdecc), (0x060088, .errQueParity),
   (0x070000, .queSel), (0x070008, .queStat), (0x070010, .queEventCfg), (0x070018, .queEventWord),
   (0x070020, .queEventInfo), (0x070028, .queEventCmd), (0x080000, .tstLbCtl), (0x080008, .tstLbStatus),
   (0x080010, .tstLbResult), (0x080018, .tstSelftest), (0x080020, .tstInject)]

/-- An array of registers, stride 8: base, and the names in order. -/
def regArrays : List (Nat × List RegName) :=
  [(0x000100, (List.finRange 32).map .idCellPresent), (0x000200, (List.finRange 32).map .idCellActive),
   (0x010100, (List.finRange 8).map .lcsFwMeas), (0x010140, (List.finRange 4).map .lcsNonce),
   (0x010200, (List.finRange 18).map .lcsToken), (0x020200, (List.finRange 64).map .hifSq),
   (0x020400, (List.finRange 64).map .hifCq), (0x020600, (List.finRange 64).map .hifTq),
   (0x030020, (List.finRange 4).map .cfgStepDigest), (0x030070, (List.finRange 3).map .cfgKvTier),
   (0x030200, (List.finRange 64).map .cfgLoopBound), (0x070200, (List.finRange 64).map .queTqCfg)]

/-- The register of an array at an offset. -/
def inArray (off : Nat) (a : Nat × List RegName) : Option RegName := if off < a.1 then none else a.2[(off - a.1) / 8]?

/-- The register of a region at an offset. -/
def regionReg (off : Nat) : Option RegName :=
  let r := (off - 0x100000) / 0x10000
  if h : 0x100000 ≤ off ∧ r < 8 then
    (if off % 0x10000 = 0 then some (.rgnTileStat ⟨r, h.2⟩)
     else if off % 0x10000 = 8 then some (.rgnStatus ⟨r, h.2⟩) else none)
  else none

/-- The register at an 8-byte aligned offset of BAR0 (R506). -/
def regAt (off : Nat) : Option RegName :=
  if off % 8 ≠ 0 then none
  else
    Tab.find (lowRegs ++ cfgRegs ++ fabRegs ++ errRegs) off <|> regArrays.findSome? (inArray off) <|> regionReg off

/-- A register that stands alone, by name. -/
def offsetOf (r : RegName) : Nat :=
  match (lowRegs ++ cfgRegs ++ fabRegs ++ errRegs).find? (·.2 = r) with
  | some e => e.1
  | none => 0

/-! ### Writes to fields (R9) -/

/-- Bits `lo` to `hi`. -/
def bitMask (lo hi : Nat) : Nat := 2 ^ (hi + 1) - 2 ^ lo

/-- The RW bits of a register. -/
def rwMask : RegName → Nat
  | .lcsFwSrc => bitMask 12 63
  | .lcsFwLen => bitMask 0 25
  | .lcsReportDst => bitMask 9 63
  | .lcsNonce _ | .lcsToken _ => bitMask 0 63
  | .hifBar2Window => bitMask 30 47
  | .queSel => bitMask 0 9
  | .tstLbCtl => bitMask 4 6 + bitMask 8 11 + bitMask 12 13 + bitMask 16 47
  | .tstInject => bitMask 0 50
  | _ => 0

/-- The RWL bits of a register. -/
def rwlMask : RegName → Nat
  | .hifDoorbellBase | .hifStatusBase => bitMask 12 63
  | .hifPollCycles | .cfgLoopBound _ => bitMask 0 31
  | .hifSpillBase => bitMask 21 63
  | .hifSpillSize | .twnShadowSize => bitMask 0 19
  | .hifSq _ => bitMask 0 5 + bitMask 12 63
  | .hifCq _ | .hifTq _ | .fabNode => bitMask 0 63
  | .cfgStepDoneTimeout | .cfgStepStartTimeout | .cfgKvWater | .fabExportCtl => bitMask 0 39
  | .cfgSteal => bitMask 0 33
  | .cfgSched => bitMask 0 53
  | .cfgPrefixBase | .twnShadowBase => bitMask 21 47
  | .cfgPrefixCtl => bitMask 0 22
  | .cfgWatchdog => bitMask 0 23
  | .cfgRestart => bitMask 0 18
  | .cfgScrub | .twnCfg => bitMask 0 47
  | .fabFrame => bitMask 0 28 + bitMask 32 43
  | .fabNodeTable => bitMask 6 47
  | .fabRetry => bitMask 0 27
  | .fabVcWeight => bitMask 0 11
  | .fabOredCtl => bitMask 0 0
  | .queEventCfg => bitMask 0 43
  | .queTqCfg _ => bitMask 0 6 + bitMask 8 51
  | _ => 0

/-- The bits of a register that an access covers (R346). -/
def partMask : RegPart → Nat
  | .whole => bitMask 0 63
  | .low => bitMask 0 31
  | .high => bitMask 32 63

/-- The word that an access writes, in its place. -/
def partWord (part : RegPart) (v : W64) : W64 :=
  match part with
  | .whole => v
  | .low => v &&& 0xFFFFFFFF#64
  | .high => v <<< 32

/-- What an access reads of a word. -/
def accessBytes (part : RegPart) (v : W64) : List Byte :=
  match part with
  | .whole => bytesOfNat 8 v.toNat
  | .low => bytesOfNat 4 v.toNat
  | .high => bytesOfNat 4 (v.toNat / 2 ^ 32)

/-- A register with the bits of a mask taken from a word. -/
def setBits (r : RegName) (mask : Nat) (v : W64) (d : Device) : Device :=
  let m := BitVec.ofNat 64 mask
  regSet r ((regGet d r &&& ~~~m) ||| (v &&& m)) d

/-- The effect of a write on RW and RWL fields (R9): after CFG_LOCK a write that covers an RWL field is ignored there, and
ERR_CFG_LOCKED says so. -/
def writeFields (r : RegName) (part : RegPart) (v : W64) (d : Device) : Device :=
  let w := partWord part v
  let rw := rwMask r &&& partMask part
  let rwl := rwlMask r &&& partMask part
  let d := if rw = 0 then d else setBits r rw w d
  if rwl = 0 then d
  else if d.cfgLocked then { d with errs := { d.errs with writeIgnored := true } }
  else setBits r rwl w d

/-- The effect of a write on W1C fields (R9). -/
def writeOnes (r : RegName) (w : W64) (d : Device) : Device :=
  match r with
  | .lcsResetCause => { d with boot := { d.boot with resetCause := d.boot.resetCause &&& ~~~(w.setWidth 7) } }
  | .hifSqErr => devRingRestart w d
  | .hifErr => { d with hif := { d.hif with err := d.hif.err &&& ~~~(w.setWidth 3) } }
  | .fabPortStatus => { d with fab := { d.fab with downEvt := d.fab.downEvt &&& ~~~((w >>> 8).setWidth 8) } }
  | .errCfgLocked => { d with errs := { d.errs with writeIgnored := d.errs.writeIgnored && !w.getLsbD 0 } }
  | .errArithSticky => { d with errs := { d.errs with sticky := d.errs.sticky &&& ~~~(w.setWidth 7) } }
  | .queStat =>
    let q := regField d .queSel 0 10
    if w.getLsbD 43 then setQueue q { queueOf d q with overrun := false } d else d
  | .tstLbStatus => { d with test := { d.test with refused := d.test.refused && !w.getLsbD 6 } }
  | _ => d

/-! ### Reads (R9, R508) -/

/-- Fields of a word: each as (lowest bit, value). -/
def packWord (fs : List (Nat × Nat)) : W64 := BitVec.ofNat 64 ((fs.map fun f => f.2 * 2 ^ f.1).foldl (· + ·) 0)

/-- Register n of a cell set (R23). -/
def laneWord (v : BitVec 1536) (n : Nat) : W64 :=
  packWord ((List.range 4).map fun l => (16 * l, bitsOf v.toNat (12 * (4 * n + l)) 12))

/-- The code of a phase (R486). -/
def phaseCode : Phase → Nat
  | .wipe => 0 | .waitFw => 1 | .loading => 2 | .verifying => 3 | .running => 4 | .halted => 5

/-- Whether the whole wipe has ended (R456). -/
def wipeDone (d : Device) : Bool :=
  d.boot.wipe.hubDone && d.boot.wipe.blockDone && d.boot.wipe.hbmDone && d.boot.wipe.localDone

/-- LCS_WIPE_STATUS (R456). -/
def wipeWord (d : Device) : W64 :=
  let w := d.boot.wipe
  packWord [(0, ofBit w.hubDone), (1, ofBit w.blockDone), (2, ofBit w.hbmDone), (3, ofBit w.localDone),
    (4, ofBit (wipeDone d)), (8, ofBit w.hubFail), (9, ofBit w.blockFail), (10, ofBit w.hbmFail),
    (12, ofBit w.lifecycle), (32, w.cycles)]

/-- UNIT_FAIL (R504). -/
def unitFail (d : Device) : Nat :=
  if d.boot.selfDone then (d.boot.selfTest.units.map fun u => 2 ^ u.1).foldl Nat.lor 0 else 0

/-- UNIT_LOC (R504): a block index for kinds 0 to 3, a region number for kinds 4 and 5, 0xFF for the hash engine. -/
def unitPlace (kind place : Nat) : Nat := if kind < 4 then place % 128 else if kind < 6 then place % 8 else 0xFF

/-- TST_SELFTEST (R504): the outcome, once the self-tests have ended. -/
def selftestWord (d : Device) : W64 :=
  if d.boot.selfDone then
    let u := d.boot.selfTest.units.headD (0, 0)
    packWord [(0, countCells d.fuses.present - countCells (activeAfter d.fuses.present d.boot.selfTest)), (16, unitFail d), (24, unitPlace u.1 u.2), (32, u.1), (63, 1)]
  else 0#64

/-- A count of 48 bits. -/
def countWord (n : Nat) : W64 := packWord [(0, n)]

/-- QUE_STAT (R398, R516). -/
def queStatWord (d : Device) : W64 :=
  let q := regField d .queSel 0 10
  let x := queueOf d q
  packWord [(0, heldWords x), (21, (packetsOf { x with words := x.words ++ x.beyond }).length), (42, ofBit (queueFull d q)), (43, ofBit x.overrun),
    (44, ofBit (x.gap ≠ 0)), (45, ofBit x.swallow)]

/-- The blocks of a region that are not fenced, and its active cells (R518). -/
def regionWord (d : Device) (r : Nat) : W64 :=
  let live := ((List.range 16).map fun b => if d.errs.fencedBlocks.contains (16 * r + b) then 0 else 2 ^ b)
  packWord [(0, live.foldl (· + ·) 0), (16, regionCells d r)]

/-- The word that a read of a register returns, without the side effect of R515 (R9). -/
def regRead (d : Device) (r : RegName) : W64 :=
  match r with
  | .idDevice => 0x0044190800014810#64
  | .idCellCount => packWord [(0, countCells d.fuses.present), (16, countCells d.active)]
  | .idCellPresent n => laneWord d.fuses.present n.val
  | .idCellActive n => laneWord d.active n.val
  | .lcsState => packWord [(0, lifecycleCode d.fuses.lifecycle), (8, d.fuses.svn)]
  | .lcsBootStatus =>
    packWord [(0, phaseCode d.boot.phase), (8, d.boot.error), (16, d.boot.runSvn), (32, d.boot.loads)]
  | .lcsResetCause => d.boot.resetCause.setWidth 64
  | .lcsWipeStatus => wipeWord d
  | .lcsSerial => d.fuses.serial
  | .lcsLcChallenge => d.boot.challenge
  | .lcsCertLen => packWord [(0, d.boot.chain.length % 2 ^ 14)]
  | .lcsFwMeas n => wordOf (slice d.boot.measurement (8 * n.val) 8)
  | .hifSqErr => d.hif.sqErr
  | .hifErr => d.hif.err.setWidth 64
  | .cfgLock => packWord [(1, ofBit d.cfgLocked)]
  | .cfgStepNumber => packWord [(0, d.job.number), (63, ofBit d.job.inFlight)]
  | .cfgStepDigestStep => packWord [(0, d.job.latchStep.getD 0), (63, ofBit d.job.latchStep.isSome)]
  | .cfgStepDigest n => wordOf (slice d.job.latch (8 * n.val) 8)
  | .cfgReqCount =>
    packWord [(0, d.stats.running), (15, d.stats.paused), (30, d.stats.draining), (45, d.stats.held),
      (59, if d.job.inFlight then d.poolD else d.poolNext)]
  | .cfgKvTier n => packWord [(0, d.stats.tierTotal.getD n.val 0), (32, d.stats.tierUsed.getD n.val 0)]
  | .cfgKvAlloc => countWord d.stats.kvAlloc
  | .cfgKvLive => countWord d.stats.kvLive
  | .cfgPrefixStat => packWord [(0, d.stats.treeNodes), (32, d.stats.treeHits)]
  | .cfgSpecStat => packWord [(0, d.stats.drafted), (32, d.stats.accepted)]
  | .fabPortStatus => packWord [(0, d.fab.up.toNat), (8, d.fab.downEvt.toNat), (16, ofBit d.fab.twinUp)]
  | .fabXferStat => packWord [(0, d.errs.resends), (20, d.errs.discards), (40, d.errs.refusals)]
  | .fabExportStat => packWord [(0, d.errs.delivered), (32, d.errs.exportFailed)]
  | .twnStatus => packWord [(0, twinCode d.twin.state), (16, d.twin.rank)]
  | .twnShadowStep => packWord [(0, (shadowStep d).getD 0), (63, ofBit (shadowStep d).isSome)]
  | .errCfgLocked => packWord [(0, ofBit d.errs.writeIgnored), (1, ofBit d.errs.refused), (8, d.errs.offset)]
  | .errArithSticky => d.errs.sticky.setWidth 64
  | .errArithStep => d.errs.step.setWidth 64
  | .errBlkUnderflowCnt => countWord d.errs.underflow
  | .errBlkNonfiniteCnt => countWord d.errs.nonfinite
  | .errBlkNonfiniteLoc =>
    match d.errs.nonfiniteLoc with
    | some l => packWord [(0, l.1), (48, l.2 % 2 ^ 15), (63, 1)]
    | none => 0#64
  | .errAttnEmptyCnt => countWord d.errs.emptyRows
  | .errKvRewriteCnt => countWord d.errs.rewrites
  | .errSampleNofiniteCnt => countWord d.errs.nofinite
  | .errExpertDropCnt => countWord d.errs.drops
  | .errStaleDiscard => countWord d.errs.stale
  | .errCorrCnt => countWord d.errs.corr
  | .errFence => packWord [(0, d.errs.fenceCells), (16, d.errs.fenceBlocks)]
  | .errMemCe => packWord [(0, d.errs.ceBlock), (16, d.errs.ceHub), (32, d.errs.ceHbm)]
  | .errMemUe => countWord d.errs.ue
  | .errMemUeAddr =>
    match d.errs.ueAddr with
    | some (a, source, stack) => packWord [(0, a), (48, source), (50, ofBit stack), (63, 1)]
    | none => 0#64
  | .errHbmOdecc => packWord ((List.range 4).map fun s => (16 * s, d.errs.odecc.getD s 0))
  | .errQueParity => packWord [(0, d.errs.parityWords), (32, d.errs.parityPointer)]
  | .queStat => queStatWord d
  | .queEventWord => (((queueOf d 128).words.head?).map (·.data)).getD 0#64
  | .queEventInfo =>
    match (queueOf d 128).words.head? with
    | some w => packWord [(0, 1), (1, ofBit w.last), (2, w.tag)]
    | none => 0#64
  | .tstLbStatus =>
    packWord [(0, ofBit d.test.busy), (1, ofBit d.test.done), (2, ofBit d.test.pass), (3, ofBit d.test.lock),
      (4, ofBit d.test.nolock), (5, ofBit d.test.aborted), (6, ofBit d.test.refused), (16, d.test.corr)]
  | .tstLbResult => packWord [(0, d.test.units), (32, d.test.errors)]
  | .tstSelftest => selftestWord d
  | .rgnTileStat r =>
    let x := Tab.getD d.errs.tileStat r.val { stealsIn := 0, stealsX := 0, casFail := 0 }
    packWord [(0, x.stealsIn), (20, x.stealsX), (40, x.casFail)]
  | .rgnStatus r => regionWord d r.val
  | .lcsBootCtl | .queEventCmd => 0#64
  | _ => regGet d r

/-- LCS_CERT_LEN.BYTES (R488). -/
def certLen (d : Device) : Nat := d.boot.chain.length % 2 ^ 14

/-- Byte o of LCS_CERT_WINDOW (R514). -/
def certByte (d : Device) (o : Nat) : Byte := if o < certLen d then d.boot.chain.getD o 0#8 else 0#8

/-- Where LCS_CERT_WINDOW begins in BAR0 (R506, R514). -/
def certWindow : Nat := 0x18000

/-! ### CFG_LOCK (R430, R511) -/

/-- A failing check answers the offsets of its registers. -/
def failAt (c : Bool) (offs : List Nat) : List Nat := if c then offs else []

/-- The registers that hold the smaller step wait (R427, R511). -/
def waitRegs (d : Device) : List Nat :=
  let s := stepWaitMin d
  failAt (regField d .cfgStepDoneTimeout 0 40 = s) [0x030040] ++ failAt (regField d .cfgStepStartTimeout 0 40 = s) [0x030048]

/-- The conditions of R427 that CFG_LOCK checks, and R341. -/
def timeoutFailures (d : Device) : List Nat :=
  let b := retryBudget d
  let smin := stepWaitMin d
  let wait := regField d .twnCfg 0 40
  let cell := regField d .cfgWatchdog 0 24
  failAt (25 * smin ≤ 32 * b || smin < 2 * wait || 17 * smin ≤ 20 * cell || smin < 0x04000000) (waitRegs d) ++
    failAt (25 * wait ≤ 32 * b) [offsetOf .twnCfg] ++ failAt (cell < 65536) [offsetOf .cfgWatchdog] ++
    failAt (regField d .fabExportCtl 0 40 ≤ b) [offsetOf .fabExportCtl]

/-- Whether a ring fails R375. -/
def ringFails (d : Device) (r : RegName) (must : Bool) : Bool :=
  let c := ringCfg d r
  (c.en && (c.log2 < 4 || 16 < c.log2)) || (must && !c.en)

/-- The checks of R375, R393, R394 and R382. -/
def ringFailures (d : Device) : List Nat :=
  let limits := (List.finRange 64).map fun n => regField d (.queTqCfg n) 40 12
  let event := regField d .queEventCfg 32 12
  let slabs := (limits.map (· + 1)).foldl (· + ·) (event + 1)
  ((List.finRange 64).flatMap fun n =>
    failAt (ringFails d (.hifSq n) (n.val = 0)) [0x020200 + 8 * n.val] ++
      failAt (ringFails d (.hifCq n) (n.val = 0)) [0x020400 + 8 * n.val] ++
      failAt (ringFails d (.hifTq n) false) [0x020600 + 8 * n.val] ++
      failAt (regField d (.queTqCfg n) 1 6 = 0 || 32 < regField d (.queTqCfg n) 1 6 || regField d (.queTqCfg n) 8 32 = 0 ||
        regField d (.queTqCfg n) 40 12 = 0) [0x070200 + 8 * n.val]) ++
    failAt (regField d .queEventCfg 0 32 = 0 || event = 0 || 65536 < slabs) [offsetOf .queEventCfg]

/-- The checks of one register's own fields in the CFG_, FAB_ and HIF_ windows. -/
def fieldFailures (d : Device) : List Nat :=
  let chunk := schedChunkMax d
  failAt (regField d .hifPollCycles 0 32 < 1024) [offsetOf .hifPollCycles] ++
    failAt (regField d .cfgStepDoneTimeout 0 40 = 0) [0x030040] ++
    failAt (regField d .cfgStepStartTimeout 0 40 = 0) [0x030048] ++
    failAt (regField d .cfgSteal 0 16 < 2 || regField d .cfgSteal 16 16 < 2) [offsetOf .cfgSteal] ++
    failAt (schedBudget d = 0 || chunk = 0 || chunk % 256 ≠ 0) [offsetOf .cfgSched] ++
    failAt (regField d .cfgKvWater 8 8 ≤ regField d .cfgKvWater 0 8 ||
      regField d .cfgKvWater 24 8 ≤ regField d .cfgKvWater 16 8) [offsetOf .cfgKvWater] ++
    failAt (!rangeInHbm (regField d .cfgPrefixBase 21 27 * 2 ^ 21) 0x11000000) [offsetOf .cfgPrefixBase] ++
    failAt (4194304 < regField d .cfgPrefixCtl 0 23) [offsetOf .cfgPrefixCtl] ++
    failAt (regField d .fabFrame 0 16 < 0x0600) [offsetOf .fabFrame] ++
    failAt (nodeCount d ≤ nodeId d) [offsetOf .fabNode] ++
    failAt (!rangeInHbm (regField d .fabNodeTable 6 42 * 64) (64 * nodeCount d)) [offsetOf .fabNodeTable] ++
    failAt (regField d .fabRetry 0 24 = 0) [offsetOf .fabRetry] ++
    failAt (regField d .fabVcWeight 0 4 = 0 || regField d .fabVcWeight 4 4 = 0 || regField d .fabVcWeight 8 4 = 0)
      [offsetOf .fabVcWeight]

/-- The checks of R455 and R492. -/
def unitFailures (d : Device) : List Nat :=
  let w := d.boot.wipe
  failAt (w.hubFail || w.blockFail || w.hbmFail) [offsetOf .lcsWipeStatus] ++
    failAt (unitFail d ≠ 0) [offsetOf .tstSelftest] ++
    failAt (countCells d.active < regField d .cfgRestart 8 11) [offsetOf .idCellCount, offsetOf .cfgRestart]

/-- The offsets of the registers of every failing check (R511). -/
def lockFailures (d : Device) : List Nat :=
  unitFailures d ++ ringFailures d ++ fieldFailures d ++ timeoutFailures d

/-- The status page from byte 1,552 on, which the device writes as zero (R350). DESIGN CHOICE (notes/assumptions 105): once,
when the configuration is locked. -/
def clearStatusPage (d : Device) : Device := emit (.hostWrite (statusBase d + 1552) (List.replicate 2544 0#8)) d

/-- Run the checks (R430): lock, or record the refusal with the lowest offset. -/
def runLockChecks (d : Device) : Device :=
  match (lockFailures d).min? with
  | none => clearStatusPage { d with cfgLocked := true }
  | some off => { d with errs := { d.errs with refused := true, offset := off } }

/-- A held CFG_LOCK runs its checks once firmware runs, the wipe is done, and no loop-back runs (R455, R466, R493). -/
def tryLock (d : Device) : Device :=
  if d.cfgHeld && d.boot.phase = .running && wipeDone d && !d.test.busy then runLockChecks { d with cfgHeld := false }
  else d

/-- Whether CFG_LOCK has been written since the reset. -/
def lockWritten (d : Device) : Bool := d.cfgLocked || d.cfgHeld || d.errs.refused

/-- CFG_LOCK.LOCK written as 1 (R430): no further LOCK is accepted. -/
def devCfgLock (d : Device) : Device :=
  if !linked d || lockWritten d then d else tryLock { d with cfgHeld := true }

/-- CFG_LOCK. -/
def execCfgLock (s : State) : Host.Outcome State Fault Refusal := lift devCfgLock s

/-! ### The digest latch (R515) -/

/-- DIGEST_LATCH: a read of CFG_STEP_DIGEST0 takes the live digest into the latch, then returns the latch (R509). -/
def devDigestLatch (part : RegPart) (d : Device) : Device :=
  if !linked d then d
  else
    let own := (toOwn d).role
    let d := { d with job := { d.job with latch := own.digest, latchStep := own.digestStep } }
    emit (.readData (accessBytes part (regRead d (.cfgStepDigest 0))) false) d

/-- DIGEST_LATCH. -/
def execDigestLatch (part : RegPart) (s : State) : Host.Outcome State Fault Refusal := lift (devDigestLatch part) s

/-! ### Reads of BAR0 (R346) -/

/-- A count of 32 bits that stops at its top. -/
def count32 (n : Nat) : Nat := min n 0xFFFFFFFF

/-- Whether the loop-back counts units and errors: every depth but FAR_ANALOG (R495). -/
def countsUnits (t : Test) : Bool := !(t.target = 0 && t.depth = 2)

/-- Whether corrected codewords go to CORR: the PCS depth of a fabric port or the twin port (R495). -/
def countsFec (t : Test) : Bool := (t.target = 1 || t.target = 2) && t.depth = 1

/-- The counts of a running loop-back go on by amounts that nothing in the model fixes (R495, R502, R503): free values. -/
def advanceLoopback (d : Device) : Device :=
  let t := d.test
  if !t.busy || !t.lock then d
  else
    let n := d.freeCtr
    { d with
      freeCtr := n + 3
      test := { t with
        units := if countsUnits t then count32 (t.units + Config.free n) else t.units
        errors := if countsUnits t then count32 (t.errors + Config.free (n + 1)) else t.errors
        corr := if countsFec t then count32 (t.corr + Config.free (n + 2)) else t.corr } }

/-- The bytes that an aligned read of BAR0 returns: those of LCS_CERT_WINDOW (R514), those of a register, 0 at an unassigned
offset (R346). -/
def bar0Read (off size : Nat) (d : Device) : List Byte :=
  if certWindow ≤ off && off < certWindow + 0x4000 then (List.range size).map fun k => certByte d (off - certWindow + k)
  else
    let w := ((regAt (off / 8 * 8)).map (regRead d)).getD 0#64
    slice (bytesOfNat 8 w.toNat) (off % 8) size

/-- What a read of a register changes before it answers: QUE_EVENT_WORD and QUE_EVENT_INFO read the head word of queue 128 in
the pool (R391, R517), and the counts of a running loop-back go on (R503). A read of CFG_STEP_DIGEST0 is DIGEST_LATCH (R515). -/
def beforeRead (r : RegName) (pool : PoolRead) (d : Device) : Device :=
  match r with
  | .queEventWord | .queEventInfo =>
    whenD (!(queueOf d 128).words.isEmpty) (poolRead 128 { words := pool.words.filter (· = 0), pointers := 0, lost := none }) d
  | .tstLbStatus | .tstLbResult => advanceLoopback d
  | _ => d

/-- BAR0_SIZE_ACCESS (R346): ignored; a read returns 0 in every byte. An access of 8 or 4 aligned bytes is none: a read returns
the register's bytes, and a write is REGISTER_WRITE. `pool` is what the pool finds where the read is of one of its words. -/
def devBar0SizeAccess (off size : Nat) (isWrite : Bool) (pool : PoolRead) (d : Device) : Device :=
  let aligned := (size = 8 && off % 8 = 0) || (size = 4 && off % 4 = 0)
  if !linked d then d
  else if aligned then
    if isWrite then d
    else if regAt (off / 8 * 8) = some (.cfgStepDigest 0) then
      devDigestLatch (if size = 8 then .whole else if off % 8 = 0 then .low else .high) d
    else
      let d := ((regAt (off / 8 * 8)).map fun r => beforeRead r pool d).getD d
      emit (.readData (bar0Read off size d) false) d
  else
    let d := setHifErr 0 d
    if isWrite then d else emit (.readData (List.replicate size 0#8) false) d

/-- BAR0_SIZE_ACCESS. -/
def execBar0SizeAccess (off size : Nat) (isWrite : Bool) (s : State) (pool : PoolRead := PoolRead.clean) :
    Host.Outcome State Fault Refusal :=
  lift (devBar0SizeAccess off size isWrite pool) s

/-- Device Capabilities 2: completion timeout ranges A and B without Completion Timeout Disable (R530), and 10-bit tags as
completer and requester (R2). -/
def deviceCapabilities2 : Nat := 0x30003

/-- The 4 configuration bytes from a multiple of 4: Device ID and Vendor ID, class code and revision (R2, R345), and Device
Capabilities 2 in the PCI Express capability (R530). No command of the table reads the configuration space. -/
def configWord (off : Nat) : Nat :=
  if off = 0 then 0x4810 * 2 ^ 16 + Config.vendorId.toNat
  else if off = 8 then 0x120000 * 2 ^ 8 + Config.revisionId.toNat
  else if off = Config.pcieCapability + 0x24 then deviceCapabilities2
  else 0

/-! ### CLEAR (R85, R136, R181, R218, R283, R318, R328, R344, R399, R432, R433, R458, R459) -/

/-- What the CLEAR field of a register clears. -/
def clearCounts (r : RegName) (e : Errs) : Errs :=
  match r with
  | .errBlkUnderflowCnt => { e with underflow := 0 }
  | .errBlkNonfiniteCnt => { e with nonfinite := 0, nonfiniteLoc := none }
  | .errAttnEmptyCnt => { e with emptyRows := 0 }
  | .errKvRewriteCnt => { e with rewrites := 0 }
  | .errSampleNofiniteCnt => { e with nofinite := 0 }
  | .errExpertDropCnt => { e with drops := 0 }
  | .errStaleDiscard => { e with stale := 0 }
  | .errCorrCnt => { e with corr := 0 }
  | .errMemCe => { e with ceBlock := 0, ceHub := 0, ceHbm := 0 }
  | .errMemUe => { e with ue := 0, ueAddr := none }
  | .errQueParity => { e with parityWords := 0, parityPointer := 0 }
  | .rgnTileStat r => { e with tileStat := Tab.put e.tileStat r.val { stealsIn := 0, stealsX := 0, casFail := 0 } }
  | .fabXferStat => { e with resends := 0, discards := 0, refusals := 0 }
  | .fabExportStat => { e with delivered := 0, exportFailed := 0 }
  | _ => e

/-- A write of 1 to CLEAR. -/
def devClear (r : RegName) (d : Device) : Device := if linked d then { d with errs := clearCounts r d.errs } else d

/-- ERR_BLK_UNDERFLOW_CNT_CLEAR. -/
def execErrBlkUnderflowCntClear (s : State) : Host.Outcome State Fault Refusal := lift (devClear .errBlkUnderflowCnt) s

/-- ERR_BLK_NONFINITE_CNT_CLEAR: the location goes too (R85). -/
def execErrBlkNonfiniteCntClear (s : State) : Host.Outcome State Fault Refusal := lift (devClear .errBlkNonfiniteCnt) s

/-- ERR_ATTN_EMPTY_CNT_CLEAR. -/
def execErrAttnEmptyCntClear (s : State) : Host.Outcome State Fault Refusal := lift (devClear .errAttnEmptyCnt) s

/-- ERR_KV_REWRITE_CNT_CLEAR. -/
def execErrKvRewriteCntClear (s : State) : Host.Outcome State Fault Refusal := lift (devClear .errKvRewriteCnt) s

/-- ERR_SAMPLE_NOFINITE_CLEAR. -/
def execErrSampleNofiniteClear (s : State) : Host.Outcome State Fault Refusal := lift (devClear .errSampleNofiniteCnt) s

/-- ERR_EXPERT_DROP_CNT_CLEAR. -/
def execErrExpertDropCntClear (s : State) : Host.Outcome State Fault Refusal := lift (devClear .errExpertDropCnt) s

/-- ERR_STALE_DISCARD_CLEAR. -/
def execErrStaleDiscardClear (s : State) : Host.Outcome State Fault Refusal := lift (devClear .errStaleDiscard) s

/-- ERR_CORR_CNT_CLEAR. -/
def execErrCorrCntClear (s : State) : Host.Outcome State Fault Refusal := lift (devClear .errCorrCnt) s

/-- ERR_MEM_CE_CLEAR. -/
def execErrMemCeClear (s : State) : Host.Outcome State Fault Refusal := lift (devClear .errMemCe) s

/-- ERR_MEM_UE_CLEAR: the address record goes too (R459). -/
def execErrMemUeClear (s : State) : Host.Outcome State Fault Refusal := lift (devClear .errMemUe) s

/-- ERR_QUE_PARITY_CLEAR. -/
def execErrQueParityClear (s : State) : Host.Outcome State Fault Refusal := lift (devClear .errQueParity) s

/-- TILE_STAT_CLEAR (R136). -/
def execTileStatClear (r : Fin 8) (s : State) : Host.Outcome State Fault Refusal := lift (devClear (.rgnTileStat r)) s

/-- FAB_XFER_STAT_CLEAR (R328). -/
def execFabXferStatClear (s : State) : Host.Outcome State Fault Refusal := lift (devClear .fabXferStat) s

/-- FAB_EXPORT_STAT_CLEAR (R344). -/
def execFabExportStatClear (s : State) : Host.Outcome State Fault Refusal := lift (devClear .fabExportStat) s

end Sys2Proof.Machine
end

