-- ==== Sys2Proof/Machine/Boot.lean ====
section
/-!
DEFINITION. Resets, the wipe, firmware loads, attestation reports, life-cycle changes and fuse burns (R453 to R456, R462 to
R484, R522).
-/
namespace Sys2Proof.Machine

/-- ERROR of LCS_BOOT_STATUS set (R486). -/
def bootError (e : Nat) (d : Device) : Device := { d with boot := { d.boot with error := e } }

/-- The ERROR codes of R471, R472, R477 and R483. -/
def errEarly : Nat := 0x1
def errBusy : Nat := 0x2
def errFormat : Nat := 0x3
def errKey : Nat := 0x4
def errRollback : Nat := 0x5
def errSignature : Nat := 0x6
def errFetch : Nat := 0x7
def errDigest : Nat := 0x8
def errPhase : Nat := 0x9
def errState : Nat := 0xA
def errLcState : Nat := 0xB
def errToken : Nat := 0xC

/-! ### Firmware images (R467, R468) -/

/-- The firmware area: the first 16 MiB of hub SRAM. -/
def fwAreaSize : Nat := 0x1000000

/-- A segment descriptor (R468). -/
structure Segment where
  target : Nat
  offset : Nat
  length : Nat
  load : Nat
  entry : Nat
  rsvZero : Bool
  digest : List Byte
  deriving DecidableEq, Repr

/-- The segment descriptor of 96 bytes. -/
def segmentOf (bs : List Byte) : Segment :=
  let t := field bs 0 4
  let l := field bs 12 4
  { target := t % 4, offset := field bs 4 4, length := field bs 8 4, load := l % 2 ^ 24, entry := field bs 16 4,
    rsvZero := t / 4 = 0 && l / 2 ^ 24 = 0 && allZero (slice bs 20 12), digest := slice bs 32 64 }

/-- NSEG, SVN and KEYID of a manifest. -/
def manifestNseg (m : List Byte) : Nat := field m 6 2 % 32
def manifestSvn (m : List Byte) : Nat := field m 8 4 % 128
def manifestKey (m : List Byte) : Nat := field m 12 4 % 2

/-- L of a manifest. -/
def manifestLen (m : List Byte) : Nat := 16 + 96 * manifestNseg m

/-- The segments of a manifest. -/
def manifestSegments (m : List Byte) : List Segment :=
  (List.range (manifestNseg m)).map fun s => segmentOf (padTo 96 (slice m (16 + 96 * s) 96))

/-- Whether two ranges share nothing. -/
def apart (a n b k : Nat) : Bool := a + n ≤ b || b + k ≤ a

/-- Whether no two segments overlap, in the image or in the firmware area. -/
def segmentsApart : List Segment → Bool
  | [] => true
  | s :: t =>
    (t.all fun u => apart s.offset s.length u.offset u.length && apart s.load s.length u.load u.length) && segmentsApart t

/-- Whether a segment's fields and bounds are right; `first` for segment 0. -/
def segmentOk (l len : Nat) (first : Bool) (s : Segment) : Bool :=
  s.rsvZero && s.target < (if first then 1 else 2) && s.offset % 512 = 0 && l + 114 ≤ s.offset &&
    1 ≤ s.length && s.length ≤ 0x1000000 && s.load % 512 = 0 && s.offset + s.length ≤ len &&
    s.load + s.length ≤ fwAreaSize && (if first then s.entry < s.length else s.entry = 0)

/-- Step 3 of R471: MAGIC, VERSION, NSEG, reserved fields, segment bounds. -/
def manifestOk (m : List Byte) (len : Nat) : Bool :=
  let n := manifestNseg m
  let segs := manifestSegments m
  field m 0 4 = 0x31504E48 && field m 4 2 = 1 && 1 ≤ n && n ≤ 16 && field m 6 2 / 32 = 0 && field m 8 4 / 128 = 0 &&
    manifestSvn m ≤ 64 && field m 12 4 / 2 = 0 && len % 512 = 0 && len ≤ 0x2000000 &&
    ((segs.zip (List.range n)).all fun p => segmentOk (manifestLen m) len (p.2 = 0) p.1) && segmentsApart segs

/-- Whether a life-cycle state accepts a key: 0 the production key, 1 the test key (R481). -/
def keyAccepted (l : Lifecycle) (key : Nat) : Bool :=
  match l with
  | .blank => key = 1
  | .test | .returned => key < 2
  | .field => key = 0
  | .scrap => false

/-- Whether the signature of a manifest holds (R467). -/
def signatureOk (m : List Byte) : Bool :=
  edVerify (Config.romKey (manifestKey m)) (m.take (manifestLen m)) (slice m (manifestLen m) 114)

/-! ### Loading (R471, R472) -/

/-- What the boot ROM finds in hub SRAM (R449, R450). -/
def romEvents (es : List MemEvent) (d : Device) : Device := bar2Events es d

/-- Copy the segments into the firmware area. -/
def copySegments (ss : List (Segment × List Byte)) (d : Device) : Device :=
  ss.foldl (fun d s =>
    let t := writeRange d.mem (hubBase + s.1.load) (padTo s.1.length s.2)
    romEvents t.2 { d with mem := t.1 }) d

/-- Check the digest of each copy in hub SRAM. -/
def checkSegments : List Segment → Device → Bool × Device
  | [], d => (true, d)
  | s :: t, d =>
    let r := touchRange d.mem (hubBase + s.load) s.length
    let d := romEvents r.2.2 { d with mem := r.2.1 }
    if anyUncorrectable r.2.2 || shake256_512 r.1 ≠ s.digest then (false, d) else checkSegments t d

/-- The zero word over the whole firmware area. -/
def zeroFirmware (m : Mem) : Mem :=
  let inside := fun (a : Nat) => decide (hubBase ≤ a) && decide (a < hubBase + fwAreaSize)
  { m with bytes := m.bytes.filter (fun e => !inside e.1), upsets := m.upsets.filter (fun e => !inside e.1) }

/-- A load ends with an ERROR (R471). -/
def loadFails (e : Nat) (d : Device) : Device :=
  { d with
    mem := zeroFirmware d.mem
    boot := { d.boot with error := e, loads := min (d.boot.loads + 1) 0xFFFFFFFF, phase := .waitFw, loading := none } }

/-- Steps 7 and 8 of R471. -/
def loadSegments (m : List Byte) (segments : Option (List (List Byte))) (d : Device) : Device :=
  match segments with
  | none => loadFails errFetch d
  | some bs =>
    let segs := manifestSegments m
    let r := checkSegments segs (copySegments (segs.zip (bs ++ List.replicate segs.length [])) d)
    if r.1 then
      { r.2 with boot := { r.2.boot with
          phase := .verifying
          loading := some { measurement := shake256_512 (m.take (manifestLen m)), svn := manifestSvn m } } }
    else loadFails errDigest r.2

/-- A load that begins in WAIT_FW: steps 2 to 8 of R471. -/
def runLoad (rd : LoadRead) (d : Device) : Device :=
  match rd.manifest with
  | none => loadFails errFetch d
  | some m =>
    if !manifestOk m (regField d .lcsFwLen 0 26) then loadFails errFormat d
    else if !keyAccepted d.fuses.lifecycle (manifestKey m) then loadFails errKey d
    else if manifestSvn m < d.fuses.svn then loadFails errRollback d
    else if !signatureOk m then loadFails errSignature d
    else loadSegments m rd.segments d

/-- LOAD (R471, R472). -/
def devLoad (rd : LoadRead) (d : Device) : Device :=
  if !linked d then d
  else
    match d.boot.phase with
    | .wipe => bootError errEarly d
    | .loading | .verifying => bootError errBusy d
    | .running | .halted => bootError errPhase d
    | .waitFw => if d.fuses.lifecycle = .scrap then bootError errState d else runLoad rd d

/-- LOAD. -/
def execLoad (rd : LoadRead) (s : State) : Host.Outcome State Fault Refusal := lift (devLoad rd) s

/-- FIRMWARE_RUNNING: step 9 of R471 (R475 to R477), after which a held CFG_LOCK may run (R466). -/
def devFirmwareRunning (d : Device) : Device :=
  match d.boot.loading with
  | none => d
  | some l =>
    if !powered d || d.boot.phase ≠ .verifying then d
    else
      let b := { d.boot with
        phase := .running, loading := none, measurement := l.measurement, runSvn := l.svn }
      let b := match classByte d.fuses.lifecycle with
        | none => b
        | some c => { b with
            aliasSeed := aliasSeedOf d.fuses.secret c l.measurement
            chain := chainOf d.fuses c l.measurement l.svn }
      tryLock { d with boot := b }

/-- FIRMWARE_RUNNING. -/
def execFirmwareRunning (s : State) : Host.Outcome State Fault Refusal := lift devFirmwareRunning s

/-- SVN_COMMIT (R474); while a burn runs it has no effect (notes/assumptions 61). -/
def devSvnCommit (d : Device) : Device :=
  if !linked d then d
  else if d.boot.phase ≠ .running then bootError errPhase d
  else if d.boot.runSvn ≤ d.fuses.svn || d.boot.burn.isSome then d
  else { d with boot := { d.boot with burn := some (.svn d.boot.runSvn) } }

/-- SVN_COMMIT. -/
def execSvnCommit (s : State) : Host.Outcome State Fault Refusal := lift devSvnCommit s

/-- REPORT (R477, R479): during a boundary it is served at its end. -/
def devReport (d : Device) : Device :=
  if !linked d then d
  else if d.boot.phase ≠ .running then bootError errPhase d
  else if (classByte d.fuses.lifecycle).isNone then bootError errState d
  else if inBoundary d then { d with boot := { d.boot with reportPending := true } }
  else writeReport d

/-- REPORT. -/
def execReport (s : State) : Host.Outcome State Fault Refusal := lift devReport s

/-! ### Life-cycle (R481 to R484) -/

/-- The life-cycle state of a code. -/
def lifecycleOf : Nat → Option Lifecycle
  | 0 => some .blank
  | 1 => some .test
  | 2 => some .field
  | 3 => some .returned
  | 4 => some .scrap
  | _ => none

/-- A transition of R483: the key that signs its token, if it needs one; none where it does not exist. -/
def transition : Lifecycle → Lifecycle → Option (Option Nat)
  | .blank, .test => some (some 1)
  | .test, .field => some (some 0)
  | .field, .returned => some (some 0)
  | .blank, .scrap | .test, .scrap | .field, .scrap | .returned, .scrap => some none
  | _, _ => none

/-- The token bytes in register order (R482). -/
def tokenBytes (d : Device) : List Byte := (List.finRange 18).flatMap fun n => bytesOfNat 8 (regGet d (.lcsToken n)).toNat

/-- Whether the token serves the transition (R482, R483). -/
def tokenOk (d : Device) (target : Lifecycle) (key : Nat) : Bool :=
  let t := tokenBytes d
  field t 0 8 = lifecycleCode target && field t 8 8 = d.fuses.serial.toNat && field t 16 8 = d.boot.challenge.toNat &&
    edVerify (Config.romKey key) (t.take 24) (slice t 24 114)

/-- LC_REQ (R482, R483): an accepted transition burns. -/
def devLcReq (target : BitVec 3) (d : Device) : Device :=
  if !linked d then d
  else if d.boot.phase ≠ .waitFw then bootError errPhase d
  else if d.boot.burn.isSome then d
  else
    match (lifecycleOf target.toNat).bind fun t => (transition d.fuses.lifecycle t).map fun k => (t, k) with
    | none => bootError errLcState d
    | some (t, k) =>
      if k.all (tokenOk d t) then { d with boot := { d.boot with burn := some (.lifecycle t) } }
      else bootError errToken d

/-- LC_REQ. -/
def execLcReq (target : BitVec 3) (s : State) : Host.Outcome State Fault Refusal := lift (devLcReq target) s

/-- The fuses once a burn is made (R475, R476); `ctr` numbers the free values of a new device secret. -/
def burnt (f : Fuses) (b : Burn) (ctr : Nat) : Fuses :=
  match b with
  | .svn n => { f with svn := n }
  | .lifecycle t =>
    let f := { f with lifecycle := t }
    match t with
    | .test => { f with secret := (List.range 32).map fun k => BitVec.ofNat 8 (Config.free (ctr + k)) }
    | .field => { f with certs := identityCert f.secret }
    | _ => f

/-- A burn that a reset or a power loss interrupts leaves the old value or the new one (R474, R484). -/
def settleBurn (d : Device) : Device :=
  match d.boot.burn with
  | none => d
  | some b =>
    let r := takeFree d
    let d := r.2
    { d with
      fuses := if r.1 % 2 = 0 then d.fuses else burnt d.fuses b d.freeCtr
      freeCtr := d.freeCtr + 32
      boot := { d.boot with burn := none } }

/-! ### Resets (R462 to R465) -/

/-- Whether a reset meets another reset, a wipe, a load or a burn (R464). -/
def resetBusy (d : Device) : Bool :=
  !wipeDone d || d.boot.phase = .loading || d.boot.phase = .verifying || d.boot.burn.isSome

/-- A full device reset with a cause bit; `train` says that the link trains afresh, `life` that the wipe is of a life-cycle
change. -/
def resetWith (bit : Nat) (st : SelfTest) (train life : Bool) (d : Device) : Device :=
  let cause := (1#7 <<< bit) ||| (if resetBusy d then d.boot.resetCause else 0#7)
  let b := settleBurn d
  { deviceAfter { b.power with linkUp := !train && b.power.linkUp, inReset := false } (if train then Pcie.set else b.pcie.afterReset)
      b.fuses cause st life b.freeCtr with
    out := d.out }

/-- RESET: LCS_BOOT_CTL.RESET (R462). -/
def execReset (st : SelfTest) (s : State) : Host.Outcome State Fault Refusal :=
  lift (fun d => whenD (linked d) (resetWith 4 st false false) d) s

/-- POWER_ON_RESET (R522): the reset that begins with power-up ends; only bit 0 is set. -/
def execPowerOnReset (st : SelfTest) (s : State) : Host.Outcome State Fault Refusal :=
  lift (fun d => whenD (d.power.pwrGood && d.power.inReset)
    (fun d => { deviceAfter { d.power with linkUp := false, inReset := false } Pcie.set d.fuses 1#7 st false d.freeCtr with out := d.out }) d) s

/-- PERST_RESET (R462). -/
def execPerstReset (st : SelfTest) (s : State) : Host.Outcome State Fault Refusal :=
  lift (fun d => whenD (powered d) (resetWith 1 st true false) d) s

/-- HOT_RESET (R462): the data-link-down of a PCIe loop-back is no reset (R496). -/
def execHotReset (st : SelfTest) (s : State) : Host.Outcome State Fault Refusal :=
  lift (fun d => whenD (powered d && !pcieTest d) (resetWith 2 st true false) d) s

/-- FUNCTION_LEVEL_RESET (R462). -/
def execFunctionLevelReset (st : SelfTest) (s : State) : Host.Outcome State Fault Refusal :=
  lift (fun d => whenD (linked d) (resetWith 3 st false false) d) s

/-- CARRIER_CONTROLLER_RESET (R462). -/
def execCarrierControllerReset (st : SelfTest) (s : State) : Host.Outcome State Fault Refusal :=
  lift (fun d => whenD (powered d) (resetWith 5 st true false) d) s

/-- BURN_COMPLETE (R474, R484): the new security version, or the reset of a life-cycle change. -/
def devBurnComplete (st : SelfTest) (d : Device) : Device :=
  match d.boot.burn with
  | none => d
  | some b =>
    if !powered d then d
    else
      let d := { d with fuses := burnt d.fuses b d.freeCtr, freeCtr := d.freeCtr + 32, boot := { d.boot with burn := none } }
      match b with
      | .svn _ => d
      | .lifecycle _ => resetWith 6 st false true d

/-- BURN_COMPLETE. -/
def execBurnComplete (st : SelfTest) (s : State) : Host.Outcome State Fault Refusal := lift (devBurnComplete st) s

/-! ### The wipe (R453 to R456, R491) -/

/-- The words of one memory that the memory self-test and the wipe's read-back found corrected (R449, R453, R491). -/
def wipeCorrected (inside : Nat → Bool) (ws : List Nat) (d : Device) : Device :=
  (ws.filter inside).foldl (fun d a => noteCorrected (wordAddr a) d) d

/-- The words of one memory that read back uncorrectable (R453, R491), with the errors they hold; one that failed only the
memory self-test holds none after the wipe. -/
def wipeBad (inside : Nat → Bool) (bad : Found) : Found := bad.filter fun e => inside e.1

/-- A memory's part of the wipe has ended: the words found, and its bits of LCS_WIPE_STATUS. -/
def memoryWiped (inside : Nat → Bool) (bad : Found) (corrected : List Nat) (f : Bool → Wipe → Wipe) (d : Device) : Device :=
  let bad := wipeBad inside bad
  let d := wipeCorrected inside corrected (noteFound bad d)
  { d with boot := { d.boot with wipe := f (!bad.isEmpty) d.boot.wipe } }

/-- HUB_DONE (R454, R465): hub SRAM is wiped; the boot ROM waits for firmware, unless the device is halted (R473). -/
def devHubDone (bad : Found) (corrected : List Nat) (d : Device) : Device :=
  if !powered d || d.boot.wipe.hubDone then d
  else
    let d := memoryWiped inHub bad corrected (fun fail w => { w with hubDone := true, hubFail := fail }) d
    { d with boot := { d.boot with phase := if d.boot.phase = .wipe then .waitFw else d.boot.phase } }

/-- HUB_DONE. -/
def execHubDone (bad : Found) (corrected : List Nat) (s : State) : Host.Outcome State Fault Refusal :=
  lift (devHubDone bad corrected) s

/-- One part of the wipe other than hub SRAM ends; one that has ended stays so. -/
def wipePart (badBlock badHbm : Found) (correctedBlock correctedHbm : List Nat) (p : WipePart) (d : Device) : Device :=
  let w := d.boot.wipe
  match p with
  | .block =>
    whenD (!w.blockDone) (memoryWiped inBlock badBlock correctedBlock fun fail w => { w with blockDone := true, blockFail := fail }) d
  | .hbm => whenD (!w.hbmDone) (memoryWiped inHbm badHbm correctedHbm fun fail w => { w with hbmDone := true, hbmFail := fail }) d
  | .cellLocal => { d with boot := { d.boot with wipe := { w with localDone := true } } }

/-- The whole wipe has ended, and with it the self-tests (R456, R489, R504); a held CFG_LOCK may run (R455). -/
def wipeEnds (cycles : Nat) (d : Device) : Device :=
  if wipeDone d then
    tryLock { d with boot := { d.boot with selfDone := true, wipe := { d.boot.wipe with cycles := cycles % 2 ^ 32 } } }
  else d

/-- WIPE_DONE (R454, R455, R489, R504): one part of the wipe ends, or all that are left. HBM and all that are left end after hub
SRAM, which is wiped first. -/
def devWipeDone (badBlock badHbm : Found) (correctedBlock correctedHbm : List Nat) (cycles : Nat) (part : Option WipePart)
    (d : Device) : Device :=
  let early := part = some .block || part = some .cellLocal
  if !powered d || wipeDone d || (!d.boot.wipe.hubDone && !early) then d
  else
    let parts := match part with
      | some p => [p]
      | none => [.block, .hbm, .cellLocal]
    wipeEnds cycles (parts.foldl (fun d p => wipePart badBlock badHbm correctedBlock correctedHbm p d) d)

/-- WIPE_DONE. -/
def execWipeDone (badBlock badHbm : Found) (correctedBlock correctedHbm : List Nat) (cycles : Nat) (s : State)
    (part : Option WipePart := none) : Host.Outcome State Fault Refusal :=
  lift (devWipeDone badBlock badHbm correctedBlock correctedHbm cycles part) s

end Sys2Proof.Machine
end

