-- ==== Sys2Proof/Machine/Draw.lean ====
section
/-!
DEFINITION. One draw of a sampler (R270 to R273): a function of the logits row, the request's parameters, its penalty
counts and a counter-based random number.
-/
namespace Sys2Proof.Machine

/-- ARITH of a sampler (R270). -/
def drawArith : Arith := { sat := false, ftz := false }

/-- One rounding to FP32; the sampler raises no flag (R271). -/
def drawRound (v : Val × BitVec 7) : Val := f32Val (roundF32 drawArith v.1).1

/-- A logit after penalties and temperature (R270); `c` is the penalty count of its token. -/
def penalised (st : Sampler) (c : Nat) (l : Val) : Val :=
  let rep := f32Val st.rep
  let l := if 0 < c ∧ st.rep ≠ 0x3F800000#32 then
      (if ltVal .zero l then drawRound (divVal l rep) else drawRound (mulVal l rep))
    else l
  let l := drawRound (addVal l (drawRound (mulVal (f32Val st.freq) (ofInt c))).neg)
  let l := if 0 < c then drawRound (addVal l (f32Val st.pres).neg) else l
  let it := f32Val st.invTemp
  let l := if it.isZero then l else drawRound (mulVal l it)
  match l with
  | .nan => .inf true
  | l => l

/-- A token with its value put in its place of a ranking: higher values first, equal values in the order they came
(R271). -/
def insertRank (t : Nat × Val) : List (Nat × Val) → List (Nat × Val)
  | [] => [t]
  | r :: rs => if ltVal r.2 t.2 then t :: r :: rs else r :: insertRank t rs

/-- The first `k` places of the ranking of tokens in ascending order (R270, R271). -/
def rankTop (k : Nat) (ys : List (Nat × Val)) : List (Nat × Val) :=
  ys.foldl (fun acc t => (insertRank t acc).take k) []

/-- rand24 (R272). -/
def rand24 (seed : W64) (t idx : Nat) : Nat :=
  let h := shake256 8 (bytesOfNat 8 seed.toNat ++ bytesOfNat 4 t ++ bytesOfNat 4 idx)
  natOfBytes h / 2 ^ 40

/-- Running sums of exponentials with one rounding each (R270). -/
def cumulative (m : Val) : Val → List (Nat × Val) → List Val
  | _, [] => []
  | s, r :: rs =>
    let e := drawRound (expVal (drawRound (addVal r.2 m.neg)), 0#7)
    let s' := drawRound (addVal s e)
    s' :: cumulative m s' rs

/-- The first candidate whose running sum is above z; the last one if none is. -/
def pick (z : Val) : List (Nat × Val) → Nat
  | [] => 0
  | [(t, _)] => t
  | (t, c) :: r => if ltVal z c then t else pick z r

/-- The draw of own token index `t` with draw index `idx` (R270): the token, and whether a case of R271 was met. -/
def drawToken (st : Sampler) (count : Nat → Nat) (seed : W64) (t idx : Nat) (logits : List Val) : Nat × Bool :=
  let nanLogit := logits.any (· = .nan)
  let ys := (List.range logits.length).map fun x => (x, penalised st (count x) (logits.getD x .nan))
  let k := min (if st.topK = 0 then 1024 else st.topK) logits.length
  let rank := rankTop k ys
  let first := rank.headD (0, .inf true)
  let m := first.2
  let nonfin := m.nonFinite
  let nofinite := nanLogit || nonfin
  if (f32Val st.invTemp).isZero || nonfin then (first.1, nofinite)
  else
    let cum := cumulative m .zero rank
    let s := cum.getLastD .zero
    let h := drawRound (mulVal (f32Val st.topP) s)
    let kk := 1 + ((cum.take (k - 1)).filter (fun c => ltVal c h)).length
    let z := drawRound (mulVal (.fin false (rand24 seed t idx) (-24)) (cum.getD (kk - 1) .zero))
    (pick z ((rank.map (·.1)).zip (cum.take kk)), nofinite)

end Sys2Proof.Machine
end

