-- ==== Sys2Proof/Machine/Plan.lean ====
section
/-!
DEFINITION. What firmware writes into the plan areas of a step (R364): page-list sets and row maps (R197, R204), position
words (R139, R251, R276, R277), key counts (R179), score passes (R182), length tables (R184), token identifiers (R364), sample
lists (R265, R266, R272, R275, R277), output rows (R367).
-/
namespace Sys2Proof.Machine

/-! ### Reading a plan -/

/-- The device with the bytes of a plan in memory: what firmware's words say once they are written. -/
def withPlan (plan : List PlanWrite) (d : Device) : Device :=
  { d with mem := plan.foldl (fun m w => (writeRange m w.addr w.bytes).1) d.mem }

/-- The 4-byte word at an address, looked at without a read of the step. -/
def wordAt (d : Device) (a : Nat) : Nat := natOfBytes (peekBytes d.mem a 4)

/-- Whether an area of a kind and a clause holds some bytes (R364). -/
def areaHolds (d : Device) (kind clause a n : Nat) : Bool :=
  (planOf d).any fun p => p.kind = kind && p.index = clause && p.addr ≤ a && a + n ≤ p.addr + p.size

/-- Whether a word lies in a plan area (R364). -/
def planned (d : Device) (a : Nat) : Bool := (planOf d).any fun p => p.kind ≠ 0x09 && p.kind ≠ 0x0B && p.addr ≤ a && a + 4 ≤ p.addr + p.size

/-- Whether a word is the N bound of an operation that reads column positions, which firmware writes (R119, R139). -/
def keyBoundWord (d : Device) (a : Nat) : Bool :=
  (clausesOf d).any fun c => c.ops.any fun o => readsCols o && o.loops.any fun l => l.role = .n && l.bound = .mem a

/-- Whether a plan write lies in an area of the plan map (R364), or is an N bound word that firmware writes itself (R139). -/
def inPlan (d : Device) (w : PlanWrite) : Bool :=
  ((planOf d).any fun p => p.kind ≠ 0x0B && p.addr ≤ w.addr && w.addr + w.bytes.length ≤ p.addr + p.size) ||
    (w.bytes.length = 4 && keyBoundWord d w.addr)

/-- A bound that is known when the step begins: a constant, a register, a word of the plan, or an N bound that firmware writes
(R116, R119, R364). A word that a clause of the step may write is not. -/
def plannedBound (d : Device) (l : Loop) : Option Nat :=
  match l.bound with
  | .const v => some v
  | .reg n => some (regField d (.cfgLoopBound n) 0 32)
  | .mem a => whenOk (planned d a || keyBoundWord d a) (wordAt d a)

/-- The bound of the loop of a role; 1 where the operation has none. -/
def plannedRole (d : Device) (o : OpDesc) (r : LoopRole) : Option Nat :=
  match o.loops.find? (·.role = r) with
  | some l => plannedBound d l
  | none => some 1

/-- Ocount, where the bounds of the OUTER loops are known (R139). -/
def plannedOuter (d : Device) (o : OpDesc) : Option Nat :=
  ((o.loops.filter (·.role = .outer)).mapM (plannedBound d)).map fun bs => bs.foldl (· * ·) 1

/-- The number of rows, where it is known (R139). -/
def plannedRows (d : Device) (o : OpDesc) : Option Nat := do
  let oc ← plannedOuter d o
  let m ← plannedRole d o .m
  some (oc * m)

/-- The request slot of a SEQTAB entry (R197, R200). -/
def seqSlot (d : Device) (s : PageSet) (i : Nat) : Option Nat :=
  let w := wordAt d (s.seqtab + 4 * i)
  whenOk (i < s.nseq && w < 16384) w

/-- The list that outer number `o` of a paged operand selects (R200). -/
def peekList (d : Device) (s : PageSet) (o : Nat) : Option ListKey :=
  (seqSlot d s (o / s.nheads)).map fun w => { dir := s.dir, slot := w, layer := s.layer, head := s.head0 + o % s.nheads }

/-- The clauses with their operations and numbers. -/
def numberedOps (d : Device) : List (Nat × Clause × OpDesc) :=
  let cs := clausesOf d
  ((List.range cs.length).zip cs).flatMap fun c => c.2.ops.map fun o => (c.1, c.2, o)

/-! ### What page-scatter will write (R204) -/

/-- The request slot that page-scatter's row map gives a row (R197, R204). -/
def rowSlot (d : Device) (s : PageSet) (rho : Nat) : Option Nat := seqSlot d s (wordAt d (s.rowmap + 4 * rho))

/-- The parts that page-scatter writes (R197). -/
def partsWritten (s : PageSet) : List Nat := if s.parts = 1 then [0] else if s.parts = 2 then [1] else [0, 1]

/-- The positions that a page-scatter slot writes in so many rows, by list and part. -/
def scatterWrites (d : Device) (c : Clause) (rows : Nat) (s : PageSet) : List Written :=
  (List.range rows).flatMap fun rho =>
    let p := wordAt d (c.posA + 4 * rho)
    match if p = padPos then none else rowSlot d s rho with
    | none => []
    | some slot => (List.range s.nheads).flatMap fun h => (partsWritten s).map fun pt =>
        { key := { dir := s.dir, slot := slot, layer := s.layer, head := s.head0 + h }, pos := p, part := pt }

/-- The positions that one page-scatter slot writes, by list and part; none where its rows or its set are not known. -/
def plannedWrites (d : Device) (c : Clause) (o : OpDesc) (m : Modifier) : Option (List Written) := do
  let n ← plannedRows d o
  let s ← plannedSet d m.addr
  some (scatterWrites d c n s)

/-- The positions that the page-scatter slots of the sentence write, in order, with their clauses; none where a bound or a set is
not known. -/
def allWrites (d : Device) : Option (List (Nat × Written)) :=
  ((numberedOps d).flatMap fun x => (x.2.2.epi.filter (·.kind = 0x18)).map fun m => (x, m)).foldl
    (fun acc y => acc.bind fun ws => (plannedWrites d y.1.2.1 y.1.2.2 y.2).map fun vs => ws ++ vs.map (y.1.1, ·)) (some [])

/-- The positions that the clauses below `n` write. -/
def writesBefore (d : Device) (n : Nat) : Option (List Written) :=
  ((numberedOps d).filter fun x => x.1 < n && x.2.2.epi.any (·.kind = 0x18)).foldl
    (fun acc x => acc.bind fun ws => ((x.2.2.epi.filter (·.kind = 0x18)).mapM (plannedWrites d x.2.1 x.2.2)).map fun vs =>
      ws ++ vs.flatMap id) (some [])

/-- The key count that the walker will give outer number `o` of a set in clause `i` (R168, R202). -/
def plannedKeys (d : Device) (i : Nat) (s : PageSet) (o : Nat) : Option Nat :=
  (writesBefore d i).map fun ws =>
    ((peekList d s o).map (keyCount { lists := d.role.lists, written := ws })).getD 0

/-! ### What a composition asks for -/

/-- Own tokens of a request, prompt first. -/
def ownTokens (q : Request) : List (BitVec 32) := q.prompt ++ q.released

/-- The token identifier of a position of a chunk; none for a draft token, which no word names yet. -/
def tokenAt (d : Device) (x : RowChunk) (pos : Nat) : Option Nat :=
  (reqOf d x.handle).bind fun q => ((ownTokens q)[ownIndex d x pos]?).map (·.toNat)

/-- The rows of the step's composition that a clause runs. -/
def stepRows (d : Device) (i : Nat) : List RowChunk := clauseRows d i d.role.col.placements

/-- Whether some positions are those of some chunks, each as often as every other: once, or once for each head of a group that is
stacked as rows (R139, R187). -/
def positionsAre (ps goal : List Nat) : Bool :=
  if goal.isEmpty then ps.isEmpty
  else
    let g := ps.length / goal.length
    0 < g && ps.length = g * goal.length && goal.all fun p => ps.count p = g * goal.count p

/-! ### The areas -/

/-- Every page-list set that a clause names is there, and its SEQTAB names requests of the table (R197, R364). -/
def setsOk (d : Device) : Bool :=
  (setAddrs (clausesOf d)).all fun a => match plannedSet d a with
    | none => false
    | some s => (List.range s.nseq).all fun i =>
        wordAt d (s.seqtab + 4 * i) = 0xFFFFFFFF || ((seqSlot d s i).bind (reqAt d)).isSome

/-- A row map names entries of its SEQTAB (R197). -/
def rowMapOk (d : Device) (o : OpDesc) (m : Modifier) : Bool :=
  match plannedRows d o, plannedSet d m.addr with
  | some n, some s => (List.range n).all fun rho =>
      let w := wordAt d (s.rowmap + 4 * rho)
      w = 0xFFFFFFFF || w < s.nseq
  | _, _ => true

/-- The lists and parts of placed requests that the sentence's page-scatter slots write (R203, R277). -/
def placedLists (d : Device) : List (ListKey × Nat) :=
  ((scatterSlots d).flatMap fun m => ((plannedSet d m.addr).toList).flatMap fun s =>
    d.role.col.placements.flatMap fun p => (List.range s.nheads).flatMap fun h => (partsWritten s).map fun pt =>
      (({ dir := s.dir, slot := placedSlot p, layer := s.layer, head := s.head0 + h } : ListKey), pt)).eraseDups

/-- Every part of a model that the sentence has clauses for. -/
def modelParts (d : Device) : List ModelPart := ((List.range (clausesOf d).length).map (partOf d)).eraseDups

/-- Page-scatter appends what the composition placed: to each list of a placed request, of the main model and of the draft
model, in the clauses of each part the positions that the part runs, each once, and to no other list (R139, R275, R276, R277).
Where a bound is not known, nothing is asked. -/
def appendsOk (d : Device) : Bool :=
  match allWrites d with
  | none => true
  | some ws =>
    let keys := (placedLists d ++ ws.map fun w => (w.2.key, w.2.part)).eraseDups
    (modelParts d).all fun t =>
      let mine := ws.filter fun w => partOf d w.1 = t
      let rows := partRows d t d.role.col.placements
      keys.all fun k =>
        let ps := (mine.filter fun w => w.2.key = k.1 && w.2.part = k.2).map (·.2.pos)
        let goal := if decide (k.1.dir = mainDir d) = decide (t = .main) then
            (rows.filter fun x => x.slot = k.1.slot).flatMap (·.positions) else []
        ps.length = goal.length && goal.all ps.contains

/-- The request slot that an outer number of a slot names (R200). -/
def outerSlot (d : Device) (s : PageSet) (x : Nat) : Option Nat := seqSlot d s (x / s.nheads)

/-- The row position words of outer number `x` of an operation with `m` rows (R139). -/
def positionWords (d : Device) (c : Clause) (x m : Nat) : List Nat :=
  (List.range m).map fun r => wordAt d (c.posA + 4 * (x * m + r))

/-- The positions of real rows among some position words (R167). -/
def realOf (ws : List Nat) : List Nat := ws.filter (· ≠ padPos)

/-- Row position words of a slot (R139, R184): the rows of an outer number are one chunk of the sequence that it names, and pad
rows; length-table composition has no pad row but where an entry names no sequence. -/
def slotWordsOk (d : Device) (i : Nat) (c : Clause) (s : PageSet) (oc m : Nat) : Bool :=
  (List.range oc).all fun x =>
    let ws := positionWords d c x m
    match outerSlot d s x with
    | none => (realOf ws).isEmpty
    | some slot =>
      let mine := (stepRows d i).filter (·.slot = slot)
      (!byTable d || !ws.contains padPos) &&
        (if mine.isEmpty then (realOf ws).isEmpty else mine.any fun y => positionsAre (realOf ws) y.positions)

/-- Row position words (R139): those of the rows that the clause runs, with PAD for a pad row, which length-table composition does
not have (R184). In a slot each outer number has the rows of its own sequence; the operations of another clause have all of them
together. -/
def rowWordsOk (d : Device) (i : Nat) (c : Clause) (o : OpDesc) : Bool :=
  match plannedOuter d o, plannedRole d o .m with
  | some oc, some m =>
    !readsRows o || !areaHolds d 0x03 i c.posA 4 || oc * m = 0 ||
      (areaHolds d 0x03 i c.posA (4 * (oc * m)) &&
        (if isSlot c then (slotSet d i c).all fun s => slotWordsOk d i c s oc m
         else
           let ws := positionWords d c 0 (oc * m)
           (!byTable d || !ws.contains padPos) && positionsAre (realOf ws) ((stepRows d i).flatMap (·.positions))))
  | _, _ => true

/-- Column position words (R139) of an operation that reads them: for key index n the word n, and PAD from the key count of a
page list on; where B is no page list the manual gives no key count, and PAD may stand for n. -/
def colWordsOk (d : Device) (i : Nat) (c : Clause) (o : OpDesc) : Bool :=
  if !readsCols o || !areaHolds d 0x04 i c.posB 4 then true
  else
    match plannedOuter d o, plannedRole d o .n with
    | some oc, some nb =>
      oc * nb = 0 || (areaHolds d 0x04 i c.posB (4 * (oc * nb)) && (List.range oc).all fun x =>
        let keys := if o.b.paged then (plannedSet d o.b.base).bind fun s => plannedKeys d i s x else none
        (List.range nb).all fun j =>
          let w := wordAt d (c.posB + 4 * (x * nb + j))
          match keys with
          | some k => w = if j < k then j else padPos
          | none => w = j || w = padPos)
    | _, _ => true

/-- An N bound word that firmware writes itself reaches every key of the operation that reads column positions (R139). -/
def boundWordOk (d : Device) (i : Nat) (o : OpDesc) : Bool :=
  match (loopOf o.loops .n).bound, plannedOuter d o with
  | .mem a, some oc =>
    !readsCols o || !o.b.paged || (plannedSet d o.b.base).all fun s =>
      (List.range oc).all fun x => (plannedKeys d i s x).all (· ≤ wordAt d a)
  | _, _ => true

/-- Key-count words (R179): for each outer number the count of R202 for the clause that reads the words, in the lists of the
product that writes the scores. -/
def keyWordsOk (d : Device) (i : Nat) (o : OpDesc) : Bool :=
  !isRowGroup o || !areaHolds d 0x07 i o.b.scaleBase 4 ||
    (match plannedOuter d o, scoreProduct d i o with
     | some oc, some p =>
       !p.b.paged || bitOf p.b.scaleBase 1 ||
         (areaHolds d 0x07 i o.b.scaleBase (4 * oc) &&
           (match plannedSet d p.b.base with
            | none => true
            | some s => (List.range oc).all fun x =>
                match plannedKeys d i s x with
                | none => true
                | some k => wordAt d (o.b.scaleBase + 4 * x) = k))
     | _, _ => true)

/-- A score pass fits its area: P is at least the N bound, and rows × B_row ≤ A_s (R182). Each is asked as far as its bounds are
known. -/
def passOk (d : Device) (i : Nat) (c : Clause) : Bool :=
  !isSlot c || (scoreOp c).all fun o =>
    o.noc || ((plannedRole d o .n).all (· ≤ scorePitch o) &&
      (!isRowGroup o || (plannedRows d o).all fun n => (areaSize d 0x09 i).all (n * rowBytesOf o ≤ ·)))

/-- Whether an area lies in the blocks of one pool (R236). -/
def areaInPool (d : Device) (decode : Bool) (p : PlanEntry) : Bool :=
  p.size = 0 || (blockOf p.addr / 16 = blockOf (p.addr + p.size - 1) / 16 &&
    (if decode then 16 - d.poolD ≤ blockOf p.addr % 16 else blockOf (p.addr + p.size - 1) % 16 < 16 - d.poolD))

/-- The rows that a slot holds: those of its clause whose requests its page-list set names. -/
def slotRows (d : Device) (i : Nat) (s : PageSet) : List RowChunk :=
  let slots := (List.range s.nseq).filterMap (seqSlot d s)
  (stepRows d i).filter fun x => slots.contains x.slot

/-- Pools (R238): with a decode pool, the score areas of a slot that holds rows lie in the blocks of the pool of those rows. Which
rows a clause of a class and form may hold is `classRuns`; a row that it may not hold is a pad row there, and where the clause has no
position words its set does not name the request. -/
def classOk (d : Device) (i : Nat) (c : Clause) : Bool :=
  !isSlot c || (slotSet d i c).all fun s =>
    (d.poolD = 0 || (slotRows d i s).isEmpty ||
      ((planOf d).filter fun p => p.kind = 0x09 && p.index = i).all (areaInPool d (c.cls = .decode || dotForm d i c))) &&
    (areaHolds d 0x03 i c.posA 4 ||
      (slotRows d i s).length = ((partRows d (partOf d i) d.role.col.placements).filter fun x =>
        ((List.range s.nseq).filterMap (seqSlot d s)).contains x.slot).length)

/-- The chunks of a slot that outer number `x` may run, as far as its position words tell (R139, R184). -/
def outerChunks (d : Device) (i : Nat) (c : Clause) (s : PageSet) (x m : Nat) : List RowChunk :=
  match outerSlot d s x with
  | none => []
  | some slot => (stepRows d i).filter fun y => y.slot = slot &&
      (!areaHolds d 0x03 i c.posA (4 * ((x + 1) * m)) || positionsAre (realOf (positionWords d c x m)) y.positions)

/-- Every chunk of the composition runs in a slot of each layer that serves its part (R184, R238, R275, R277): among the slots of
one kind of work on the same lists there is one whose bounds are not 0 and whose outer number has the chunk. -/
def slotsCover (d : Device) : Bool :=
  let cs := clausesOf d
  let slots := ((List.range cs.length).zip cs).filterMap fun c =>
    (slotSet d c.1 c.2).bind fun s => (slotProduct d c.1 c.2).map fun o => (c.1, c.2, s, o)
  slots.all fun y => (workUses y.2.1).all fun u =>
    let same := slots.filter fun z =>
      z.2.2.1.dir = y.2.2.1.dir && z.2.2.1.layer = y.2.2.1.layer && z.2.2.1.head0 = y.2.2.1.head0 &&
        (workUses z.2.1).contains u && partOf d z.1 = partOf d y.1
    (partRows d (partOf d y.1) d.role.col.placements).all fun x =>
      same.any fun z => match plannedOuter d z.2.2.2, plannedRole d z.2.2.2 .m with
        | some oc, some m => m ≠ 0 && (stepRows d z.1).contains x &&
            (List.range oc).any fun k => (outerChunks d z.1 z.2.1 z.2.2.1 k m).contains x
        | _, _ => true

/-- A clause of another kind, whose row count firmware writes, has rows for every verification row, or for every row of its draft
iteration (R275, R277). -/
def rowsRun (d : Device) (i : Nat) (c : Clause) (o : OpDesc) : Bool :=
  isSlot c ||
    (match (loopOf o.loops .m).bound with
     | .mem a => !areaHolds d 0x01 i a 4 ||
         (plannedRows d o).all fun n => (((stepRows d i).filter (·.decode)).map (·.count)).foldl (· + ·) 0 ≤ n
     | _ => true)

/-- Slot filling (R184): a pass holds sequences of one size, each padded to it with pad rows: of the M rows of an outer number the
part that its chunk is of the size is real. In length-table composition the length table has the exact length of every
sequence. -/
def lengthsOk (d : Device) (i : Nat) (c : Clause) : Bool :=
  !isSlot c || (slotSet d i c).all fun s =>
    ((slotProduct d i c).all fun o => match plannedOuter d o, plannedRole d o .m with
      | some oc, some m =>
        let rows := (List.range oc).map fun x => outerChunks d i c s x m
        let held := rows.flatMap id
        held.isEmpty || (passSizes d (dotForm d i c) held).any fun size =>
          ((List.range oc).zip rows).all fun y => y.2.isEmpty || y.2.any fun z =>
            !areaHolds d 0x03 i c.posA (4 * ((y.1 + 1) * m)) ||
              (realOf (positionWords d c y.1 m)).length * size = m * z.count
      | _, _ => true) &&
    (!byTable d || (planOf d).all fun p => p.kind ≠ 0x08 || p.index ≠ i ||
      (4 * s.nseq ≤ p.size && (List.range s.nseq).all fun k =>
        let counts := ((stepRows d i).filter fun x => some x.slot = seqSlot d s k).map (·.count)
        (if counts.isEmpty then [0] else counts).contains (wordAt d (p.addr + 4 * k))))

/-- The rows of a clause as page-scatter lays them out (R184, R204): for each row number the request slot and the position, none for
a pad row. DEDUCED (notes/assumptions 2): the clauses of a part that run the same rows, as many with their pad rows, have one
layout. -/
def layoutOf (d : Device) (i n : Nat) : Option (List (Option (Nat × Nat))) :=
  (numberedOps d).findSome? fun x =>
    if partOf d x.1 ≠ partOf d i || isSlot x.2.1 || plannedRows d x.2.2 ≠ some n || stepRows d x.1 ≠ stepRows d i then none
    else (x.2.2.epi.find? (·.kind = 0x18)).bind fun m => (plannedSet d m.addr).map fun s =>
      (List.range n).map fun rho =>
        let p := wordAt d (x.2.1.posA + 4 * rho)
        if p = padPos then none else (rowSlot d s rho).map (·, p)

/-- Whether some words are the token identifiers of some rows, in whatever order: one word for each row, and every token that
firmware knows among them. The word of a row whose token the step itself draws is left open (R364). -/
def tokensAre (ws : List Nat) (rows : List (Option Nat)) : Bool :=
  let known := rows.filterMap id
  ws.length = rows.length && known.all fun t => known.count t ≤ ws.count t

/-- Row token identifiers (R251, R276, R364): PAD's word for a pad row, for another row the token that its own request has there.
Rows are told by the layout of their part, or by the clause's position words, where each pair of a position and a token is one of
a row that the clause runs; where there is neither, the words are those of its rows in some order. -/
def tokensOk (d : Device) (i : Nat) (c : Clause) : Bool :=
  (planOf d).all fun p => p.kind ≠ 0x0C || p.index ≠ i || c.ops.all fun o => match plannedRows d o with
    | none => true
    | some n =>
      let rows := stepRows d i
      let words := (List.range n).map fun rho => wordAt d (p.addr + 4 * rho)
      4 * n ≤ p.size && (!byTable d || !words.contains 0xFFFFFFFF) &&
        (match layoutOf d i n with
         | some l => (l.zip words).all fun y => match y.1 with
             | none => y.2 = 0xFFFFFFFF
             | some r => rows.any fun x => x.slot = r.1 && x.positions.contains r.2 && (tokenAt d x r.2).all (· = y.2)
         | none =>
           if areaHolds d 0x03 i c.posA (4 * n) then
             let have' := (positionWords d c 0 n).zip words
             (have'.all fun y => decide (y.1 = padPos) = decide (y.2 = 0xFFFFFFFF)) &&
               (have'.map (·.1)).eraseDups.all fun pos => pos = padPos ||
                 tokensAre ((have'.filter (·.1 = pos)).map (·.2))
                   ((rows.filter (·.positions.contains pos)).map fun x => tokenAt d x pos)
           else
             tokensAre (words.filter (· ≠ 0xFFFFFFFF)) (rows.flatMap fun x => x.positions.map (tokenAt d x)))

/-! ### Sample lists (R265, R266) -/

/-- An entry of a sample list (R266). -/
structure DrawEntry where
  handle : Nat
  row : Nat
  role : Nat
  j : Nat
  deriving DecidableEq, Repr

/-- The entries of a sample point's list; none where the list breaks R265 or R266. -/
def listedDraws (d : Device) (p : SamplePoint) : Option (List DrawEntry) :=
  let n := wordAt d p.list
  let bs := pieces 16 n (peekBytes d.mem (p.list + 16) (16 * n))
  let es := bs.map fun b =>
    ({ handle := field b 0 4, row := field b 4 4, role := field b 8 1 % 16, j := field b 8 1 / 16 } : DrawEntry)
  whenOk (n ≤ 65536 && allZero (peekBytes d.mem (p.list + 4) 12) && bs.all (fun b => allZero (b.drop 9)) &&
    es.all fun e => 1 ≤ e.role && e.role ≤ 3) es

/-- The position of the row that an entry draws (R272, R275, R277): the last prompt row; row j of the verification; the last row
of iteration i. -/
def drawnPos (d : Device) (e : DrawEntry) : Option Nat :=
  let part := if e.role = 3 then ModelPart.iteration e.j else .main
  ((partRows d part d.role.col.placements).find? fun x => x.handle = e.handle && x.decode = decide (e.role ≠ 1)).map fun x =>
    if e.role = 2 then x.first + e.j else x.first + x.count - 1

/-- The rows that the entries of a list draw: each its own, a row of the point's clause, and the row of its request and position,
as the clause's own position words and the layout of its part tell (R266, R277). -/
def drawnRows (d : Device) (p : SamplePoint) (es : List DrawEntry) : Bool :=
  (es.map (·.row)).eraseDups.length = es.length &&
    ((clausesOf d)[p.clause]?).all fun c => (c.ops.getLast?).all fun o => match plannedRows d o with
      | none => true
      | some n => es.all fun e => e.row < n &&
          (!areaHolds d 0x03 p.clause c.posA (4 * n) || some (wordAt d (c.posA + 4 * e.row)) = drawnPos d e) &&
          (layoutOf d p.clause n).all fun l =>
            l[e.row]? = some ((drawnPos d e).map (e.handle % 2 ^ 14, ·))

/-- Whether a placement ends the prompt of a request with a first token to draw (R272). -/
def endsGenerate (d : Device) : Placement → Bool
  | .prefill h first c => match reqOf d h with
    | some q => !q.prefillOnly && q.tokensOut = 0 && first + c = ownLength q
    | none => false
  | _ => false

/-- The draws that a composition asks for (R272, R275, R277): FIRST where a GENERATE prompt ends, VERIFY for every row of a
decode, DRAFT for every iteration that its depth reaches. -/
def drawsAsked (d : Device) : List (Nat × Nat × Nat) :=
  d.role.col.placements.flatMap fun p =>
    (if endsGenerate d p then [(placedHandle p, 1, 0)] else []) ++
      match p with
      | .decode h _ depth =>
        ((List.range (depth + 1)).map fun j => (h, 2, j)) ++ (List.range depth).map fun k => (h, 3, k + 1)
      | _ => []

/-- The sample lists hold exactly the draws that the composition asks for: those of iteration i at the i-th draft point, the
others at points of the main model (R265, R266, R275). -/
def samplesOk (d : Device) : Bool :=
  let ps := pointsOf d
  match ps.mapM (listedDraws d) with
  | none => false
  | some lists =>
    let asked := drawsAsked d
    let drafts := pointsWith d true
    let all := (lists.flatMap id).map fun e => (e.handle, e.role, e.j)
    all.length = asked.length && asked.all all.contains && ((ps.zip lists).all fun x => drawnRows d x.1 x.2) &&
      ((List.range lists.length).zip lists).all fun x => x.2.all fun e =>
        if e.role = 3 then drafts[e.j - 1]? = some x.1 else !drafts.contains x.1

/-! ### A plan -/

/-- Whether a placement ends the prompt of a PREFILL_ONLY request (R367). -/
def endsPrompt (d : Device) : Placement → Option Nat
  | .prefill h first c => match reqOf d h with
    | some q => if q.prefillOnly && first + c = ownLength q then some h else none
    | none => none
  | _ => none

/-- Whether the words of the plan areas are those that firmware writes for the composition. A step without a placement has no
clause work (R29), and only its page-list sets are asked for. -/
def contentsOk (d : Device) : Bool :=
  setsKnown d &&
    (d.role.col.placements.isEmpty ||
      (setsOk d && appendsOk d && slotsCover d && samplesOk d &&
        (numberedOps d).all fun x =>
          rowWordsOk d x.1 x.2.1 x.2.2 && rowsRun d x.1 x.2.1 x.2.2 && colWordsOk d x.1 x.2.1 x.2.2 &&
            boundWordOk d x.1 x.2.2 && keyWordsOk d x.1 x.2.2 && passOk d x.1 x.2.1 &&
            (x.2.2.epi.filter (·.kind = 0x18)).all (rowMapOk d x.2.2) &&
            classOk d x.1 x.2.1 && lengthsOk d x.1 x.2.1 && tokensOk d x.1 x.2.1))

/-- The lists of the placed requests get new pages from the plan's sets as they got them at action 4 from the sets that stood in
the plan areas then: the same head dimension and format, and the pages that no position fills yet have that format (R203). -/
def formatsOk (before after : Device) : Bool :=
  let was := scatterSets before
  let now := scatterSets after
  after.role.col.placements.all fun p => (listsOfSlot after (placedSlot p)).all fun l =>
    newPages before was l.key = newPages after now l.key &&
      (l.entries.drop ((l.npos + 255) / 256)).all fun e => !now.any (fun s => covers s.2 l.key) || e.fp4 = (newPages after now l.key).2

/-- Whether firmware's plan can be: its writes lie in plan areas, their words are those of the composition, and it names the
output row of every PREFILL_ONLY request whose prompt ends (R364, R367). -/
def planOk (plan : List PlanWrite) (rows : List (Nat × Nat)) (d : Device) : Bool :=
  plan.all (inPlan d) && contentsOk (withPlan plan d) && formatsOk d (withPlan plan d) &&
    ((outputPlan d).isNone || (d.role.col.placements.filterMap (endsPrompt d)).all fun h => rows.any (·.1 = h))

end Sys2Proof.Machine
end

