-- ==== Sys2Proof/Machine/Steps.lean ====
section
/-!
DEFINITION. A step and its work: beginning it (R29, R34, R55, R364, R408, R421, R424), issuing clauses (R118 to R126, R139,
R143 to R149), claiming and stealing tiles (R127 to R131), running them (R140 to R189), sample points and draws (R265 to
R273), regions done (R29).
-/
namespace Sys2Proof.Machine

/-- Whether step work can run now: a step is in flight and nothing stops it. -/
def stepRuns (d : Device) : Bool :=
  serving d && d.job.inFlight && !d.job.localDone && !d.job.faulted && !d.job.halted && !inBoundary d

/-! ### Beginning a step (R29) -/

/-- The log entry that a replay follows in the next step (R55, R371). -/
def nextEntry (d : Device) : Option (List Byte) :=
  if d.hif.log.mode = 2 then entryOf d.job.number d.hif.log.bytes else none

/-- Whether a mirror has its primary's order for the next step and can run it (R421). -/
def ordered (d : Device) : Bool :=
  match d.twin.mirrorStart with
  | some m => m.1 = d.job.number && orderReady m.2 d
  | none => false

/-- Whether every device of the partition is here (R29). -/
def alone (d : Device) : Bool := memberCount d ≤ (servedRanks d).length

/-- Whether a step may begin (R29, R34, R408): a mirror waits for its primary's order, a replay for its entry, a member other
than 0 for STEP_START. -/
def mayBegin (d : Device) : Bool :=
  serving d && !d.job.inFlight && !d.job.halted && !d.job.awaitReady && !inBoundary d &&
    (d.hif.log.mode ≠ 2 || (nextEntry d).isSome) &&
    (if mirrors d then ordered d
     else if isLead d then d.job.startOrdered || workPending d
     else d.job.startOrdered)

/-- A descriptor of a halt boundary that a replay applies before its step is composed (R411). -/
def replayLeading (f : Fetched) (d : Device) : Device :=
  let d := { d with hif := { d.hif with fetched := d.hif.fetched.filter (· ≠ f) } }
  if opcodeOf f = 0x40 then
    let d := logDesc f d
    finishDesc f codeOk 0 (adoptGen (descField f.desc 24 0 32) d)
  else applyDescriptor f d

/-- The leading descriptors of the entry that have not been applied; none where one is not fetched. -/
def leadingWaiting (d : Device) : Option (List Fetched) :=
  match nextEntry d with
  | none => some []
  | some e =>
    let done := d.role.col.before.length + d.role.col.halts.length + d.role.col.items.length
    ((leadingItems (entryItems e)).drop done).mapM (namedDesc d)

/-- The composition of the step (R55, R232, R421), on the pages that the last action 4 gave. -/
def composition (d : Device) : Device :=
  match nextEntry d, d.twin.mirrorStart with
  | some e, _ => adoptDraft (replayDraft false (entryItems e) d)
  | none, some m =>
    if mirrors d && !d.onTaken then
      updateCol (fun c => { c with composed := m.2 }) (adoptDraft (replayDraft false m.2 d))
    else adoptDraft (composeNow false d)
  | none, none => adoptDraft (composeNow false d)

/-- The output rows that the plan names, for requests whose prompt ends. -/
def rowsNamed (d : Device) (rows : List (Nat × Nat)) : List (Nat × Nat) :=
  (d.role.col.placements.filterMap (endsPrompt d)).filterMap fun h => rows.find? (·.1 = h)

/-- The work of one run: tables loaded, counters 0 but counter 0 (R302), every clause passed over where the plan holds no
clause work (R29). -/
def loadTables (d : Device) : Device :=
  let idle := d.role.col.placements.isEmpty
  let w := { d.work.over with
    sentCrcs := d.work.sentCrcs, raced := d.work.raced, copied := d.work.copied, past := d.work.past, read := d.work.read }
  { d with
    fab := { d.fab with entries := [], counters := [(0, 1)] }
    work := if idle then
        { w with nextClause := (clausesOf d).length, sampled := List.range (pointsOf d).length }
      else w }

/-- Begin the run of the current role (R29 items 1 and 2): firmware's plan is written, then the tables are loaded. -/
def beginRun (plan : List PlanWrite) (rows : List (Nat × Nat)) (d : Device) : Device :=
  let d := loadTables (updateCol (fun c => { c with rowOf := rowsNamed d rows }) d)
  settle (plan.foldl (fun d w => workWrite w.addr w.bytes d) d)

/-- What a primary tells its mirror (R421). -/
def tellMirror (d : Device) : Device :=
  if sendsRecords d && d.twin.mode = 2 && d.twin.primary then
    sendTwin (.order d.job.number (d.role.col.before ++ d.role.col.composed))
      { d with twin := { d.twin with ownR := none, peerR := none } }
  else if mirrors d then { d with twin := { d.twin with ownR := none, peerR := none } }
  else d

/-- Member 0 of a larger partition orders a step that nothing has ordered yet (R34). -/
def orderStep (d : Device) : Device :=
  if isLead d && !alone d && !d.job.startOrdered then
    sendMembers { stepParticle d typeStart 0 d.job.number with sender := 0 } d
  else d

/-- A step composed, from the state before it; a plan that cannot be leaves everything as it was. -/
def beginStep (plan : List PlanWrite) (rows : List (Nat × Nat)) (d : Device) : Device :=
  match leadingWaiting d with
  | none => d
  | some fs =>
    let entry := (nextEntry d).getD []
    let x := composition (fs.foldl (fun d f => replayLeading f d) (toOwn d))
    if !planOk plan rows x then d
    else
      let x := { x with
        bnd := { x.bnd with entry := entry }
        work := { x.work with sentCrcs := [], raced := [], copied := [], past := [], read := [] }
        job := { x.job with
          inFlight := true, localDone := false, doneSent := false, doneFrom := [], faulted := false, aborted := false } }
      let x := tellMirror (orderStep x)
      let x := { x with job := { x.job with startOrdered := false } }
      if x.job.scrubFault then faultNow { x with job := { x.job with scrubFault := false } }
      else beginRun plan rows x

/-- Whether the run of the own role has ended and that of the taken one can begin (R424). -/
def secondRun (d : Device) : Bool := stepRuns d && d.twin.taken.isSome && !d.onTaken && workDone d

/-- The run of the taken role (R424). -/
def beginSecond (plan : List PlanWrite) (rows : List (Nat × Nat)) (d : Device) : Device :=
  let e := finishRun d
  if !stepRuns e then e
  else
    let x := composition (swapRoles e)
    if planOk plan rows x then beginRun plan rows x else d

/-- STEP_BEGIN. -/
def devStepBegin (plan : List PlanWrite) (rows : List (Nat × Nat)) (d : Device) : Device :=
  if secondRun d then beginSecond plan rows d
  else if mayBegin d then beginStep plan rows d
  else d

/-- STEP_BEGIN. -/
def execStepBegin (plan : List PlanWrite) (outRows : List (Nat × Nat)) (s : State) : Host.Outcome State Fault Refusal :=
  lift (devStepBegin plan outRows) s

/-! ### Tiles of a clause (R107, R123, R124, R139, R143, R146, R173) -/

/-- Columns of a tile of an operation (R107, R173); a row group has no columns of its own. -/
def tileColumns (o : OpDesc) : Nat := if o.kind = .dot then 256 else 64

/-- Tile counts of an operation along M and N (R123, R173); none along N at an N bound of 0 (R121). -/
def mTiles (o : OpDesc) (bs : Bounds) : Nat := (boundFor bs .m + o.tm - 1) / o.tm
def nTilesOf (o : OpDesc) (bs : Bounds) : Nat :=
  let nb := boundFor bs .n
  if nb = 0 then 0 else if isRowGroup o then o.tm / 16 else (nb + tileColumns o - 1) / tileColumns o

/-- Tile count of an operation (R121, R123). -/
def opTiles (o : OpDesc) (bs : Bounds) : Nat := mTiles o bs * nTilesOf o bs * outerCount bs

/-- An operation of an issued clause: its number, its descriptor, its loops with their bounds. -/
structure IssuedOp where
  index : Nat
  op : OpDesc
  bounds : Bounds
  deriving DecidableEq, Repr

/-- The operations of a clause at bounds. -/
def issuedOps (c : Clause) (bounds : List (List Nat)) : List IssuedOp :=
  ((List.range c.ops.length).zip (c.ops.zip bounds)).map fun x =>
    { index := x.1, op := x.2.1, bounds := x.2.1.loops.zip x.2.2 }

/-- The stages of a clause: consecutive operations that run together on a tile (R143). -/
def stageOps (ops : List IssuedOp) : List (List IssuedOp) :=
  ops.foldr (fun o acc =>
    match acc with
    | [] => [[o]]
    | s :: r => if (s.head?.map (·.op.link)) = some .tile then (o :: s) :: r else [o] :: s :: r) []

/-- A tile: stage, M tile, outer number, N tile. -/
structure TileAt where
  stage : Nat
  mt : Nat
  o : Nat
  nt : Nat
  deriving DecidableEq, Repr

/-- decompose (R123): M tile, outer number, N tile of tile i; `radix` is what one step of the next OUTER index adds to the
outer number (R139). -/
def splitIndex (o : OpDesc) (bs : Bounds) : List Nat → Nat → Nat → TileAt → TileAt
  | [], _, _, t => t
  | p :: ps, i, radix, t =>
    match bs.find? (fun l => l.1.role ≠ .k && l.1.pos = p) with
    | none => t
    | some (l, b) =>
      match l.role with
      | .m => let n := mTiles o bs; splitIndex o bs ps (i / n) radix { t with mt := i % n }
      | .n => let n := nTilesOf o bs; splitIndex o bs ps (i / n) radix { t with nt := i % n }
      | _ => splitIndex o bs ps (i / b) (radix * b) { t with o := t.o + radix * (i % b) }

/-- decompose_staged (R146), with the N tile counts of the stages that are left. -/
def splitStaged (mcount : Nat) (b : Nat) : List Nat → Nat → Nat → TileAt
  | [], s, r => { stage := s, mt := b % mcount, o := b / mcount, nt := r }
  | w :: ws, s, r =>
    if r < w then { stage := s, mt := b % mcount, o := b / mcount, nt := r } else splitStaged mcount b ws (s + 1) (r - w)

/-- The first operation of a stage. -/
def leadOp (s : List IssuedOp) : Option IssuedOp := s.head?

/-- N tile counts by stage. -/
def stageWidths (ss : List (List IssuedOp)) : List Nat := ss.map fun s => ((leadOp s).map fun x => nTilesOf x.op x.bounds).getD 0

/-- The tile count of a clause (R123, R146). -/
def clauseTiles (ss : List (List IssuedOp)) : Nat :=
  match ss with
  | [s] => ((leadOp s).map fun x => opTiles x.op x.bounds).getD 0
  | s :: _ => ((leadOp s).map fun x => mTiles x.op x.bounds * outerCount x.bounds).getD 0 * (stageWidths ss).foldl (· + ·) 0
  | [] => 0

/-- Where tile i of a clause lies. -/
def tileAt (ss : List (List IssuedOp)) (i : Nat) : TileAt :=
  match ss.head?.bind leadOp with
  | none => { stage := 0, mt := 0, o := 0, nt := 0 }
  | some x =>
    if ss.length = 1 then splitIndex x.op x.bounds (List.range 6) i 1 { stage := 0, mt := 0, o := 0, nt := 0 }
    else
      let w := (stageWidths ss).foldl (· + ·) 0
      splitStaged (mTiles x.op x.bounds) (i / w) (stageWidths ss) 0 (i % w)

/-- The place of a tile of an operation, clipped at its bounds (R123, R124). -/
def placeAt (x : IssuedOp) (t : TileAt) : TilePlace :=
  let mb := boundFor x.bounds .m
  let nb := boundFor x.bounds .n
  let c := tileColumns x.op
  { o := t.o, m0 := min (t.mt * x.op.tm) mb, m1 := min ((t.mt + 1) * x.op.tm) mb, n0 := min (t.nt * c) nb
    n1 := min ((t.nt + 1) * c) nb }

/-! ### Checks at the issue (R118, R121, R145, R149, R162, R199) -/

/-- A bound word that the host wrote while the step ran: unpredictable between the old and the new word (R120). -/
def racedBound (a : Nat) (bs : List Byte) (d : Device) : Nat × Device :=
  if d.work.raced.any fun r => a ≤ r.1 && r.1 < a + 4 then
    let old := (bs.zip (List.range 4)).map fun p => (Tab.find d.work.raced (a + p.2)).getD p.1
    let f := takeFree d
    (natOfBytes (if f.1 % 2 = 0 then old else bs), f.2)
  else (natOfBytes bs, d)

/-- A bound as the hub reads it (R118, R120, R122): the value, whether its address lies in the map, and what the read found. -/
def resolveBound (l : Loop) (d : Device) : (Nat × Bool) × List MemEvent × Device :=
  match l.bound with
  | .const v => ((v, true), [], d)
  | .reg n => ((regField d (.cfgLoopBound n) 0 32, true), [], d)
  | .mem a =>
    if !rangeInMap a 4 then ((0, false), [], d)
    else
      let r := unitRead a 4 d
      let b := racedBound a r.1 r.2.2
      ((b.1, true), r.2.1, b.2)

/-- Every bound of a clause, read once each (R118); a bad word that several of them meet is one word found (R450). -/
def resolveBounds (c : Clause) (d : Device) : List (List (Nat × Bool)) × Device :=
  let r := c.ops.foldl (fun acc o =>
    let r := o.loops.foldl (fun x l => let y := resolveBound l x.2.2; (x.1 ++ [y.1], x.2.1 ++ y.2.1, y.2.2)) ([], acc.2.1, acc.2.2)
    (acc.1 ++ [r.1], r.2.1, r.2.2)) (([] : List (List (Nat × Bool))), ([] : List MemEvent), d)
  (r.1, stepEvents r.2.1 r.2.2)

/-- The largest value of a bound and of a tile count (R121). -/
def boundMax : Nat := 2147483647

/-- The partial areas of an operation lie in block memory (R162). -/
def partialsOk (x : IssuedOp) : Bool :=
  x.op.epi.all fun m =>
    wordsInBlock m.addr2 (partialWords m.kind (outerCount x.bounds) (boundFor x.bounds .m) (boundFor x.bounds .n)) ||
      (m.kind ≠ 0x16 && m.kind ≠ 0x17)

/-- The band buffer of a producing operation lies in block memory (R145). -/
def bandBufferOk (x : IssuedOp) : Bool :=
  opTiles x.op x.bounds = 0 || bufferOk x.op x.bounds

/-- The band buffers that a clause has: what the last operation of a stage writes before a stage that starts with BAND. -/
def bandProducers : List (List IssuedOp) → List IssuedOp
  | s :: t :: r =>
    (if (t.head?.map (·.op.link)) = some .band then s.getLast?.toList else []) ++ bandProducers (t :: r)
  | _ => []

/-- Closing counters of a clause (R149). -/
def closingCount (ss : List (List IssuedOp)) : Nat :=
  let bands := fun (x : IssuedOp) => mTiles x.op x.bounds * outerCount x.bounds
  let stages := (ss.drop 1).map fun s => ((leadOp s).map bands).getD 0
  let slots := ss.flatten.flatMap fun x => x.op.epi.map fun m =>
    if m.kind = 0x16 then bands x else if m.kind = 0x17 then outerCount x.bounds * nTilesOf x.op x.bounds else 0
  (stages ++ slots).foldl (· + ·) 0

/-- The dimension loop of a paged operand has the bound DH (R199): the hub reads the set of each such operand, one that several
name once. A set outside the map has no bound to agree with (R113). -/
def pagedBoundsOk (xs : List IssuedOp) (d : Device) : Bool × Device :=
  let paged := xs.filter (·.op.b.paged)
  let sets := (paged.map (·.op.b.base)).eraseDups
  if !(sets.all fun a => rangeInMap a 64) then (false, d)
  else
    let r := readAll (sets.map fun a => (a, 64)) d
    (paged.all fun x => match ((sets.zip r.1).find? (·.1 = x.op.b.base)).bind fun s => setAt s.1 s.2 with
      | none => false
      | some s => s.dh = boundFor x.bounds (if bitOf x.op.b.scaleBase 1 then .n else .k), r.2)

/-- Whether a clause may issue at its bounds, but for what its page-list sets say. -/
def issueOk (ss : List (List IssuedOp)) : Bool :=
  let ops := ss.flatten
  clauseTiles ss ≤ boundMax && (ops.all fun x => opTiles x.op x.bounds ≤ boundMax) &&
    ops.all partialsOk && (bandProducers ss).all bandBufferOk && closingCount ss ≤ 65536

/-! ### The split (R126, R238) -/

/-- Cells of a block that the split counts (R238). -/
def splitCells (d : Device) (cls : PoolClass) (g : Nat) : Nat :=
  let n := d.poolD
  let whole := cls = .shared || n = 0 || 16 ≤ n
  let decode := 16 - n ≤ g % 16
  if whole || (cls = .decode && decode) || (cls = .prefill && !decode) then blockCells d g else 0

/-- The pool class in force: a pool without a cell gives nothing to split over (notes/assumptions 60). -/
def classInForce (d : Device) (cls : PoolClass) : PoolClass :=
  if (List.range 128).all (fun g => splitCells d cls g = 0) then .shared else cls

/-- The sum of a weight over numbers below n. -/
def sumBelow (w : Nat → Nat) (n : Nat) : Nat := ((List.range n).map w).foldl (· + ·) 0

/-- Part i of n of a range of `t` indices, split in proportion to weights (R126). -/
def shareOf (w : Nat → Nat) (n t i : Nat) : Nat × Nat :=
  (t * sumBelow w i / sumBelow w n, t * sumBelow w (i + 1) / sumBelow w n)

/-- The range of block g (R126). -/
def blockRange (d : Device) (cls : PoolClass) (t g : Nat) : Nat × Nat :=
  let cls := classInForce d cls
  let r := shareOf (fun r => sumBelow (fun b => splitCells d cls (16 * r + b)) 16) 8 t (g / 16)
  let b := shareOf (fun b => splitCells d cls (16 * (g / 16) + b)) 16 (r.2 - r.1) (g % 16)
  (r.1 + b.1, r.1 + b.2)

/-- The counters that an issue installs. -/
def installAll (d : Device) (cls : PoolClass) (t epoch : Nat) : Tab TileCounter :=
  (List.range 128).map fun g => let r := blockRange d cls t g; (g, { next := r.1, stop := r.2, epoch := epoch })

/-! ### CLAUSE_ISSUE (R118) -/

/-- Whether every draw of the sample points of clause c - 1 has been written (R265). -/
def pointsDrawn (d : Device) (c : Nat) : Bool :=
  d.work.jobs.isEmpty &&
    ((List.range (pointsOf d).length).zip (pointsOf d)).all fun p => p.2.clause + 1 ≠ c || d.work.sampled.contains p.1

/-- Whether the next clause can issue (R118, R265, R302). -/
def mayIssue (d : Device) : Bool :=
  stepRuns d && d.work.issue.isNone && d.work.nextClause < (clausesOf d).length && !gated d d.work.nextClause &&
    pointsDrawn d d.work.nextClause

/-- The clause issues: ranges go out, contexts are free; a clause without tiles is complete at once. EPOCH counts it here:
an issue that faults on its bounds does not count (notes/assumptions 95). -/
def installClause (c : Clause) (bounds : List (List Nat)) (d : Device) : Device :=
  let t := clauseTiles (stageOps (issuedOps c bounds))
  let e := (d.work.epoch + 1) % 2 ^ 32
  let i : Issue := {
    clause := d.work.nextClause, bounds := bounds, total := t, completed := [], written := d.work.written, wrote := [],
    encoded := [] }
  settle { d with work := { d.work with
    nextClause := d.work.nextClause + 1, epoch := e, issue := if t = 0 then none else some i
    counters := installAll d c.cls t e, contexts := [], claims := 0, blocks := [] } }

/-- CLAUSE_ISSUE. -/
def devClauseIssue (d : Device) : Device :=
  if !mayIssue d then d
  else
    match (clausesOf d)[d.work.nextClause]? with
    | none => d
    | some c =>
      let r := resolveBounds c d
      let e := r.2
      if !stepRuns e then e
      else
        let bounds := r.1.map fun bs => bs.map (·.1)
        let ss := stageOps (issuedOps c bounds)
        if (r.1.flatten.all fun b => b.2 && b.1 ≤ boundMax) && issueOk ss then
          let x := pagedBoundsOk ss.flatten e
          if !stepRuns x.2 then x.2 else if x.1 then installClause c bounds x.2 else stepFault 0 x.2
        else stepFault 0 e

/-- CLAUSE_ISSUE. -/
def execClauseIssue (s : State) (found : Found := []) : Host.Outcome State Fault Refusal :=
  lift (devClauseIssue ∘ noteFound found) s

/-! ### Claims and steals (R125 to R131) -/

/-- Contexts of a cell that the operations of a stage, which run together, may use (R108). -/
def contextsOf (c : Clause) (ops : List OpDesc) : Nat := ops.foldl (fun n o => min n (contextsFor o (fuseBytes c.ops))) 8

/-- The clause that is issued. -/
def issuedClause (d : Device) : Option Clause := d.work.issue.bind fun i => (clausesOf d)[i.clause]?

/-- A block's counter word; {0, 0, 0} before the first install (notes/assumptions 96). -/
def counterOf (d : Device) (g : Nat) : TileCounter := Tab.getD d.work.counters g { next := 0, stop := 0, epoch := 0 }

/-- A counter word written. -/
def setCounter (g : Nat) (c : TileCounter) (d : Device) : Device :=
  { d with work := { d.work with counters := Tab.put d.work.counters g c } }

/-- A block's part in stealing. -/
def blockOfWork (d : Device) (g : Nat) : BlockWork := Tab.getD d.work.blocks g { asked := false, done := false }

/-- A block's part in stealing, changed. -/
def setBlock (g : Nat) (b : BlockWork) (d : Device) : Device :=
  { d with work := { d.work with blocks := Tab.put d.work.blocks g b } }

/-- What a steal's reads return: the words given, the counters' own where none is given (R128). -/
def observed (d : Device) (seen : List SeenWord) (g : Nat) : TileCounter :=
  match seen.find? (·.block.val = g) with
  | some w => { next := w.next, stop := w.stop, epoch := w.epoch }
  | none => counterOf d g

/-- The remaining range of a counter word. -/
def remaining (c : TileCounter) : Nat := c.stop - c.next

/-- The victim among blocks (R128, R129): the largest remaining range, ties to the lower index, of at least `least`. -/
def victimOf (obs : Nat → TileCounter) (least : Nat) (gs : List Nat) : Option Nat :=
  let best := gs.foldl (fun (b : Option Nat) g =>
    match b with
    | none => some g
    | some x => if remaining (obs x) < remaining (obs g) then some g else some x) none
  best.filter fun g => least ≤ remaining (obs g)

/-- The number of a count that stops at 0xF_FFFF, raised by one (R136). -/
def bump20 (n : Nat) : Nat := min (n + 1) 0xFFFFF

/-- A region's stealing counts changed (R136). -/
def updateTileStat (r : Nat) (f : TileStat → TileStat) (d : Device) : Device :=
  let x := Tab.getD d.errs.tileStat r { stealsIn := 0, stealsX := 0, casFail := 0 }
  { d with errs := { d.errs with tileStat := Tab.put d.errs.tileStat r (f x) } }

/-- A successful compare-and-swap on block v, and the install of the stolen range into block g, whose contexts may claim
again (R128). -/
def takeHalf (v g : Nat) (d : Device) : Device :=
  let c := counterOf d v
  let e := c.stop - remaining c / 2
  let d := setCounter g { c with next := e, stop := c.stop } (setCounter v { c with stop := e } d)
  let d := setBlock g { blockOfWork d g with asked := false } d
  { d with work := { d.work with contexts := d.work.contexts.filter fun h => h.tile.isSome || h.ctx.block.val ≠ g } }

/-- One attempt (R128 steps 1 to 4): a compare-and-swap that fails returns the word as it is, on which the next one
succeeds while `again` (MIN_BLOCK, also for a region manager: R129 performs step 3 as it stands) is left; else the search
for `least` starts again over the counters themselves. Answers whether a range was taken; `r` is the region whose counts
rise. -/
def attempt (r g least again : Nat) (gs : List Nat) (seen : List SeenWord) (d : Device) : Bool × Device :=
  match victimOf (observed d seen) least gs with
  | none => (false, d)
  | some v =>
    if observed d seen v = counterOf d v then (true, takeHalf v g d)
    else
      let d := updateTileStat r (fun x => { x with casFail := bump20 x.casFail }) d
      if (counterOf d v).epoch ≠ (counterOf d g).epoch then (false, d)
      else if again ≤ remaining (counterOf d v) then (true, takeHalf v g d)
      else
        match victimOf (counterOf d) least gs with
        | none => (false, d)
        | some v => (true, takeHalf v g d)

/-- MIN_BLOCK of CFG_STEAL (R135). -/
def minBlock (d : Device) : Nat := regField d .cfgSteal 0 16

/-- A block whose range is exhausted steals in its region, else asks its region manager (R128); with BLOCK_EN = 0 it asks
at once (notes/assumptions 97). -/
def blockSteal (g : Nat) (seen : List SeenWord) (d : Device) : Device :=
  let b := blockOfWork d g
  if b.asked || b.done then d
  else
    let gs := ((List.range 16).map (16 * (g / 16) + ·)).filter (· ≠ g)
    let x := if regField d .cfgSteal 32 1 = 1 then attempt (g / 16) g (minBlock d) (minBlock d) gs seen d else (false, d)
    if x.1 then updateTileStat (g / 16) (fun s => { s with stealsIn := bump20 s.stealsIn }) x.2
    else setBlock g { asked := true, done := false } x.2

/-- The stages of the issued clause; none where no clause is issued. -/
def issuedStages (d : Device) : List (List IssuedOp) :=
  match d.work.issue, issuedClause d with
  | some i, some c => stageOps (issuedOps c i.bounds)
  | _, _ => []

/-- Bytes of the accumulator area that a context of a stage needs: P of R108, the largest of its operations; a memory-side stage
needs none. -/
def contextArea (ss : List (List IssuedOp)) (stage : Nat) : Nat :=
  let f := fuseBytes (ss.flatten.map (·.op))
  ((ss.getD stage []).map fun x =>
    if x.op.kind = .matmul || x.op.kind = .vector then x.op.tm * 64 * accBytes x.op + f else 0).foldl max 0

/-- Bytes of the accumulator area that the tiles held in a cell take. -/
def areaHeld (ss : List (List IssuedOp)) (x : CtxId) (d : Device) : Nat :=
  sumOf ((d.work.contexts.filter fun h => h.ctx.block = x.block && h.ctx.cell = x.cell).filterMap fun h =>
    h.tile.map fun k => contextArea ss (tileAt ss k).stage)

/-- The accumulator area of a cell (R108). -/
def accumulatorArea : Nat := 393216

/-- Contexts of a cell that hold tiles of a stage. -/
def stageHeld (ss : List (List IssuedOp)) (x : CtxId) (stage : Nat) (d : Device) : Nat :=
  (d.work.contexts.filter fun h => h.ctx.block = x.block && h.ctx.cell = x.cell &&
    h.tile.any fun k => decide ((tileAt ss k).stage = stage)).length

/-- Whether a context may claim now (R108, R109, R127): it is one of those that a cell uses for some stage of the clause. For an
offered tile, its cell holds fewer tiles of the tile's stage than the contexts that the operations of the stage use, whichever
these are, and leaves it an accumulator area; so a tile that others wait on finds a free context (R148). -/
def mayClaim (x : CtxId) (d : Device) : Bool :=
  let k := counterOf d x.block.val
  stepRuns d && cellActive d x.block.val x.cell.val && !(blockOfWork d x.block.val).done &&
    !(d.work.contexts.any (·.ctx = x)) &&
    (match issuedClause d with
     | some c =>
       let ss := issuedStages d
       (ss.any fun s => decide (x.ctx.val < contextsOf c (s.map (·.op)))) &&
         (if k.next < k.stop then
           let t := tileAt ss k.next
           decide (stageHeld ss x t.stage d < contextsOf c ((ss.getD t.stage []).map (·.op))) &&
             decide (areaHeld ss x d + contextArea ss t.stage ≤ accumulatorArea)
         else true)
     | none => false)

/-- The MSU group that runs a tile claimed in block g (R174): that of the block whose memory holds the first byte of its
output (DOT) or of its input scores, else the claiming block's; none for the other kinds. -/
def msuGroup (ss : List (List IssuedOp)) (g k : Nat) : Option Nat :=
  let t := tileAt ss k
  match (ss.getD t.stage []).head? with
  | none => none
  | some x =>
    let at' := fun (o : Operand) (w : Which) (m n : Nat) =>
      (o.base : Int) + byteOffset (codeWidth o.fmt.code) (elemOffset x.bounds w m n 0 t.o)
    let first :=
      if x.op.kind = .dot then some (at' x.op.c .c (t.mt * x.op.tm) (t.nt * 256))
      else if isRowGroup x.op then some (at' x.op.a .a (t.mt * x.op.tm + 16 * t.nt) 0)
      else none
    first.map fun a => if 0 ≤ a && inBlock a.toNat then blockOf a.toNat else g

/-- TILE_CLAIM (R127). -/
def devTileClaim (x : CtxId) (seen : List SeenWord) (d : Device) : Device :=
  if !mayClaim x d then d
  else
    let g := x.block.val
    let c := counterOf d g
    let d := setCounter g { c with next := c.next + 1 } d
    let hold := fun (t : Option Nat) (d : Device) =>
      { d with work := { d.work with
          contexts := d.work.contexts ++
            [{ ctx := x, tile := t, order := d.work.claims, msu := t.bind (msuGroup (issuedStages d) g) }]
          claims := d.work.claims + 1 } }
    if c.next < c.stop then hold (some c.next) d else blockSteal g seen (hold none d)

/-- TILE_CLAIM. -/
def execTileClaim (x : CtxId) (seen : List SeenWord) (s : State) : Host.Outcome State Fault Refusal :=
  lift (devTileClaim x seen) s

/-- REGION_STEAL (R129): for a block that has asked. -/
def devRegionSteal (r : Fin 8) (b : Fin 16) (seen : List SeenWord) (d : Device) : Device :=
  let g := 16 * r.val + b.val
  if !stepRuns d || d.work.issue.isNone || !(blockOfWork d g).asked then d
  else
    let gs := (List.range 128).filter fun x => x / 16 ≠ r.val
    let x := if regField d .cfgSteal 33 1 = 1 then attempt r.val g (regField d .cfgSteal 16 16) (minBlock d) gs seen d else (false, d)
    if x.1 then updateTileStat r.val (fun s => { s with stealsX := bump20 s.stealsX }) x.2
    else setBlock g { asked := false, done := true } x.2

/-- REGION_STEAL. -/
def execRegionSteal (r : Fin 8) (b : Fin 16) (seen : List SeenWord) (s : State) : Host.Outcome State Fault Refusal :=
  lift (devRegionSteal r b seen) s

/-! ### Running a tile (R109, R144, R147, R163) -/

/-- The tiles of a stage in a band, or in a column of N tiles, of the issued clause. -/
def tilesWhere (ss : List (List IssuedOp)) (total : Nat) (p : TileAt → Bool) : List Nat :=
  (List.range total).filter fun i => p (tileAt ss i)

/-- Whether a stage has closed a band (R147). DESIGN CHOICE (notes/assumptions 125): a stage without a tile in the band has closed it. -/
def bandClosed (ss : List (List IssuedOp)) (i : Issue) (stage mt o : Nat) : Bool :=
  (tilesWhere ss i.total fun t => t.stage = stage && t.mt = mt && t.o = o).all fun k => i.completed.contains k

/-- The number of the stage that an operation of a clause belongs to. -/
def stageOf (ss : List (List IssuedOp)) (op : Nat) : Nat := (ss.takeWhile fun s => !s.any (·.index = op)).length

/-- Whether a tile may load its A elements (R147). -/
def tileReady (ss : List (List IssuedOp)) (i : Issue) (t : TileAt) : Bool :=
  let ops := ss.getD t.stage []
  let band := (ops.head?.map (·.op.link)) ≠ some .band || bandClosed ss i (t.stage - 1) t.mt t.o
  band && ops.all fun x => (x.op.pro.filter (·.kind = 0x05)).all fun m =>
    m.param = 0xFF || bandClosed ss i (stageOf ss m.param) t.mt t.o

/-- What an operation's tile reads besides memory, but for what the other operations of the clause write. -/
def plainEnv (d : Device) (c : Clause) (i : Issue) (x : IssuedOp) : TileEnv :=
  { index := x.index, posA := c.posA, posB := c.posB, op := x.op, bounds := x.bounds
    walk := { lists := d.role.lists, written := i.written }, trig := trigTable d, srcEnds := []
    scattered := d.work.scattered, foreign := [], foreignA := [], foreignN := [], foreignS := [], foreignR := [], shared := [], scoreKeys := none }

/-- The exclusive end of an entry's source range where it is known before the entry fires (R303, R305): PUT_RECV has no source; the
range of a dispatch or RETURN is known, and what was handed to it checked, when it fires. -/
def sourceEnd (d : Device) (t : TrigEntry) : Option Nat :=
  let members := ((groupOf d t.group).map (·.members)).getD 1
  match t.op with
  | 1 | 2 | 3 | 4 | 9 => some (t.src + bytesFor t.type t.n)
  | 5 => some (t.src + members * bytesFor t.type t.n)
  | 10 => some t.src
  | _ => none

/-- Whether operation y is the memory-side function of the stage after operation x's, which may write over the scores that
x leaves in the band buffer (R145, R178). -/
def inPlaceAfter (ss : List (List IssuedOp)) (x y : IssuedOp) : Bool :=
  isRowGroup y.op && y.op.link = .band && stageOf ss y.index = stageOf ss x.index + 1

/-- The input bytes and output bytes of a row of a memory-side function (R178). -/
def rowInputs (e : TileEnv) (o m : Nat) : List Nat :=
  let cols := List.range (boundFor e.bounds .n)
  let words := fun (base : Nat) (w : Which) => cols.flatMap fun j =>
    (List.range 4).map fun b => ((base : Int) + 4 * elemOffset e.bounds w m j 0 o).toNat + b
  words e.op.a.base .a ++ (if e.op.kind = .softgrad then words e.op.c.base .c else [])

/-- Whether two lists of addresses can share one: their extents meet. -/
def extentsMeet (xs ys : List Nat) : Bool :=
  let lo := fun (l : List Nat) => l.foldl min (l.headD 0)
  let hi := fun (l : List Nat) => l.foldl max 0
  !xs.isEmpty && !ys.isEmpty && lo xs ≤ hi ys && lo ys ≤ hi xs

/-- What every row of a memory-side function may read beside its scores and its dP: the statistics and D of RECOMP and SOFTGRAD,
position words, key counts (R167, R176, R188, R189). -/
def sideInputs (e : TileEnv) : List (Nat × Nat) :=
  let rows := outerCount e.bounds * boundFor e.bounds .m
  (if e.op.kind = .softmax then [] else [(e.op.b.base, 8 * rows)]) ++
    (if e.op.kind = .softgrad then [(e.op.a.scaleBase, 4 * rows)] else []) ++
    (if e.posA = 0 then [] else [(e.posA, 4 * rows)]) ++
    (if e.op.b.scaleBase = 0 then [] else [(e.op.b.scaleBase, 4 * outerCount e.bounds)])

/-- Bytes of a memory-side function that are an output of one row and an input of another, or an output and a side input:
unpredictable (R178). A row's outputs may lie over its own scores and its own dP. -/
def crossRows (e : TileEnv) : List (Nat × Nat) :=
  if !isRowGroup e.op then []
  else
    let rows := rowsOf e
    let ins := rows.map fun r => rowInputs e r.1 r.2
    let outs := if e.op.noc then [] else rows.map fun r => rowAddrs e r.1 r.2
    let apart := (ins.zip (List.range ins.length)).flatMap fun x => (outs.zip (List.range outs.length)).flatMap fun y =>
      if x.2 ≠ y.2 && extentsMeet x.1 y.1 then spansOf (y.1.filter x.1.contains) else []
    let side := sideInputs e
    let stats := (statSpans e).flatMap fun s => rangeFrom s.1 (s.1 + s.2)
    apart ++ spansOf (outs.flatten.filter (inSpans side)) ++ spansOf (stats.filter (inSpans side)) ++
      spansOf (ins.flatten.filter (inSpans (statSpans e)))

/-- The bytes of a page that hold a position's part: its elements and its scales (R190). -/
def pageSpans (dh : Nat) (en : PageEntry) (q part : Nat) : List (Nat × Nat) :=
  if en.tier = 2 then []
  else
    let at' := placeOf dh en.fp4 q part 0
    [(en.slot + at'.1, partBytes dh en.fp4), (en.slot + at'.2, dh / 32)]

/-- The bytes of pages that a page-scatter slot of an operation writes at its bounds (R203, R204). -/
def scatterSpans (d : Device) (c : Clause) (y : IssuedOp) (m : Modifier) : List (Nat × Nat) :=
  match plannedSet d m.addr with
  | none => []
  | some s => (scatterWrites d c (outerCount y.bounds * boundFor y.bounds .m) s).flatMap fun w =>
      let l := listOf d.role.lists w.key
      if w.pos < l.npos then []
      else ((l.entries[w.pos / 256]?).map fun en => pageSpans s.dh en (w.pos % 256) w.part).getD []

/-- Ranges less the bytes of others. -/
def minusSpans (ss gone : List (Nat × Nat)) : List (Nat × Nat) :=
  if ss.all fun s => !meetsSpans gone s.1 s.2 then ss
  else spansOf ((ss.flatMap fun s => rangeFrom s.1 (s.1 + s.2)).filter fun a => !inSpans gone a)

/-- What an operation of an issued clause writes: C; the words of its ROWRED and COLRED slots, by slot; statistics of a memory-side
function; pages. -/
structure Writes where
  c : List (Nat × Nat)
  slots : List (Modifier × List (Nat × Nat))
  stats : List (Nat × Nat)
  pages : List (Nat × Nat)
  deriving DecidableEq, Repr

/-- The words of the slots of one kind, or of every kind. -/
def Writes.words (w : Writes) (p : Modifier → Bool) : List (Nat × Nat) := (w.slots.filter fun x => p x.1).flatMap (·.2)

/-- Everything. -/
def Writes.all (w : Writes) : List (Nat × Nat) := w.c ++ w.words (fun _ => true) ++ w.stats ++ w.pages

/-- Everything but C. -/
def Writes.notC (w : Writes) : List (Nat × Nat) := w.words (fun _ => true) ++ w.stats ++ w.pages

/-- The bytes that an operation writes (R112, R162, R171, R203), as ranges. -/
def opWrites (d : Device) (c : Clause) (i : Issue) (y : IssuedOp) : Writes :=
  let e := plainEnv d c i y
  { c := spansOf (cAddrs e), slots := y.op.epi.map fun m => (m, slotSpans e m), stats := statSpans e
    pages := (y.op.epi.filter (·.kind = 0x18)).flatMap (scatterSpans d c y) }

/-- What the operations of a clause write, by operation. -/
def clauseSpans (d : Device) (c : Clause) (ss : List (List IssuedOp)) (i : Issue) : List (IssuedOp × List (Nat × Nat)) :=
  ss.flatten.map fun y => (y, (opWrites d c i y).all)

/-- Bytes that the host wrote while the step ran (R347). -/
def racedSpans (d : Device) : List (Nat × Nat) := d.work.raced.map fun r => (r.1, 1)

/-- The operation that a stage writes C for: its last one. -/
def writerOf (ss : List (List IssuedOp)) (stage : Nat) : Nat :=
  (((ss.getD stage []).getLast?).map (·.index)).getD 0

/-- How an operation comes to bytes that another one of its clause writes. -/
inductive Access where
  | plain | throughA | norm | stats | resid | write
  deriving DecidableEq, Repr

/-- What another operation y of the clause makes unpredictable for an access of operation x (R150): everything it writes, less the
band buffer that x reads through A (R145), which a memory-side function may have written over the scores of the stage before it
(R178); less row statistics that a NORM slot of x reads from the producer it names (R163); less the statistics of an earlier stage
(R178); less what a memory-side function, in the stage after, writes over C once x has read and written it (R150, R178). DESIGN
CHOICE (notes/assumptions 126): in a stage that starts with LINK = BAND, only the operation with that link reads the band buffer. -/
def openFor (a : Access) (ss : List (List IssuedOp)) (x : IssuedOp) (others : List (IssuedOp × Writes)) (cx : List (Nat × Nat))
    (y : IssuedOp) (w : Writes) : List (Nat × Nat) :=
  let s := stageOf ss x.index
  let apartC := minusSpans w.c cx ++ w.notC
  match a with
  | .plain => w.all
  | .throughA =>
    if x.op.link ≠ .band then w.all
    else if y.index = writerOf ss (s - 1) then w.notC
    else
      match others.find? fun z => z.1.index = writerOf ss (s - 1) with
      | some z => if inPlaceAfter ss y z.1 then minusSpans w.c z.2.c ++ w.notC else w.all
      | none => w.all
  | .norm =>
    if x.op.pro.any fun m => m.kind = 0x05 && m.param = y.index then w.c ++ w.words (·.kind ≠ 0x16) ++ w.stats ++ w.pages
    else w.all
  | .stats => if isRowGroup y.op && stageOf ss y.index < s then w.c ++ w.words (fun _ => true) ++ w.pages else w.all
  | .resid => if inPlaceAfter ss x y then apartC else w.all
  | .write => if inPlaceAfter ss x y || inPlaceAfter ss y x then apartC else w.all

/-- The walker's key counts of the product that wrote an operation's scores, by outer number (R168, R179, R202). -/
def walkerCounts (d : Device) (i : Issue) (x : IssuedOp) : Option (List Nat) :=
  if !isRowGroup x.op then none
  else
    match scoreProduct d i.clause x.op with
    | none => none
    | some p =>
      if !p.b.paged || bitOf p.b.scaleBase 1 then none
      else
        (plannedSet d p.b.base).map fun s =>
          (List.range (outerCount x.bounds)).map fun o =>
            ((peekList d s o).map (keyCount { lists := d.role.lists, written := i.written })).getD 0

/-- What an operation's tile reads besides memory, with the addresses where the clause makes reads and writes
unpredictable (R114, R150, R178, R347). -/
def envOf (d : Device) (c : Clause) (i : Issue) (x : IssuedOp) : TileEnv :=
  let ss := stageOps (issuedOps c i.bounds)
  let e := plainEnv d c i x
  let cx := spansOf (cAddrs e)
  let others := (ss.flatten.filter (·.index ≠ x.index)).map fun y => (y, opWrites d c i y)
  let from' := fun (a : Access) => others.flatMap fun y => openFor a ss x others cx y.1 y.2
  let own := spansOf ((i.wrote.filter fun w => w.1 = writerOf ss (stageOf ss x.index)).map (·.2))
  let always := crossRows e ++ racedSpans d
  { e with
    srcEnds := (trigTable d).map (sourceEnd d)
    foreign := from' .plain ++ always
    foreignA := from' .throughA ++ always
    foreignN := from' .norm ++ always
    foreignS := from' .stats ++ always
    foreignR := from' .resid ++ always
    shared := from' .write ++ own ++ always
    scoreKeys := walkerCounts d i x }

/-- The rows of a band. -/
def bandRows (x : IssuedOp) (mt : Nat) : Nat × Nat :=
  let mb := boundFor x.bounds .m
  (min (mt * x.op.tm) mb, min ((mt + 1) * x.op.tm) mb)

/-- The combines of the counters that a tile closes (R163): `i` already counts the tile. -/
def evCloseOp (e : TileEnv) (x : IssuedOp) (ss : List (List IssuedOp)) (i : Issue) (t : TileAt) : Ev Unit :=
  x.op.epi.forM fun m =>
    if m.kind = 0x16 then
      (if bandClosed ss i t.stage t.mt t.o then evCloseRows e m t.o (bandRows x t.mt).1 (bandRows x t.mt).2 else pure ())
    else if m.kind = 0x17 then
      (if (tilesWhere ss i.total fun u => u.stage = t.stage && u.o = t.o && u.nt = t.nt).all fun k => i.completed.contains k
       then evCloseCols e m t.o (placeAt x t).n0 (placeAt x t).n1 else pure ())
    else pure ()

/-- One tile of a stage, and the combines that it closes. -/
def evTile (d : Device) (c : Clause) (ss : List (List IssuedOp)) (i : Issue) (k : Nat) : Ev Unit := do
  let t := tileAt ss k
  let ops := ss.getD t.stage []
  match ops.head? with
  | none => pure ()
  | some x =>
    let e := envOf d c i x
    match x.op.kind with
    | .softmax => evRowGroup evSoftmax e t.o t.mt t.nt
    | .recomp => evRowGroup evRecomp e t.o t.mt t.nt
    | .softgrad => evRowGroup evSoftgrad e t.o t.mt t.nt
    | _ => evStageTile (ops.map (envOf d c i)) (placeAt x t) []
    ops.forM fun y => do
      evEnter (envOf d c i y)
      evCloseOp (envOf d c i y) y ss { i with completed := k :: i.completed } t

/-- What a tile leaves in the collection of its step. -/
def tileCounts (clause : Nat) (r : Run) (s : StepCounts) : StepCounts :=
  let s := collect s clause r.raised
  { s with emptyRows := s.emptyRows + r.emptyRows, rewrites := s.rewrites + r.rewrites }

/-- What a tile leaves in its cell's storage: areas follow one another by context (R108; notes/assumptions 98). -/
def storeCell (x : CtxId) (area : Nat) (bs : List (Nat × List Byte)) (m : Memory) : Memory :=
  let base := (12 * x.block.val + x.cell.val) * 2 ^ 19 + x.ctx.val * area
  bs.foldl (fun m b => writeBytes m (base + b.1) b.2) m

/-- A tile's last element is written (R109): the context is free, the tile counts, and what it handed goes to its entries
(R302, R303). The clause completes with its last tile. -/
def finishTile (x : CtxId) (ss : List (List IssuedOp)) (i : Issue) (k : Nat) (r : Run) (d : Device) : Device :=
  let t := tileAt ss k
  let own := writerOf ss t.stage
  let done := k :: i.completed
  let i' := { i with completed := done, wrote := i.wrote ++ r.wrote.map fun a => (own, a), encoded := r.encoded }
  let w := d.work
  let d := { d with
    cellStore := storeCell x (contextArea ss t.stage) r.cellBytes d.cellStore
    work := { w with
    contexts := w.contexts.filter (·.ctx ≠ x)
    counts := tileCounts i.clause r w.counts
    written := w.written ++ r.written.filter fun p => !w.written.contains p
    outBytes := if r.outBytes.isEmpty then w.outBytes else w.outBytes ++ [(i.clause, own, r.outBytes)]
    scattered := r.scattered ++ w.scattered
    past := w.past ++ r.words ++ (if done.length = i.total then spansOf (i'.wrote.map (·.2)) else [])
    issue := if done.length = i.total then none else some i' } }
  let named := (ss.getD t.stage []).flatMap fun y => (y.op.epi.filter (·.kind = 0x19)).map fun m => m.imm0.toNat
  settle (handTile named r.handed d)

/-- The armed residue mismatch acts on the cell's product (R402, R500). -/
def injectedMismatch (x : CtxId) (d : Device) : Device :=
  stepError 0 x.block.val x.cell.val 0 [.cell x.block x.cell] { d with test := { d.test with residue := none } }

/-- Whether an MSU group has taken a context's tile up: 8 tiles are in flight in it, a further one waits (R175). A tile that waits
for its band is not in flight there, so a wait always ends (R148). -/
def msuTakes (ss : List (List IssuedOp)) (i : Issue) (x : CtxId) (d : Device) : Bool :=
  match d.work.contexts.find? (·.ctx = x) with
  | none => true
  | some h => h.msu.isNone || (d.work.contexts.filter fun y => y.msu = h.msu && y.order < h.order &&
      (y.tile.any fun k => tileReady ss i (tileAt ss k))).length < 8

/-- What a tile has read is noted, and bytes among it that the host wrote meanwhile become unpredictable (R347). -/
def tileReads (rs : List (Nat × Nat)) (d : Device) : Device :=
  rs.foldl (fun d r => freeRaced r.1 r.2 (noteRead r.1 r.2 d)) d

/-- Run the tile that a context holds, if it is one of a kind of operation and may go on (R147). A matrix product in the cell
of an armed residue mismatch meets it (R500). -/
def runTile (kind : OpKind) (x : CtxId) (d : Device) : Device :=
  match d.work.issue, issuedClause d, (d.work.contexts.find? (·.ctx = x)).bind (·.tile) with
  | some i, some c, some k =>
    let ss := stageOps (issuedOps c i.bounds)
    let t := tileAt ss k
    let right := ((ss.getD t.stage []).head?.map (·.op.kind)) = some kind
    if !stepRuns d || !right || !tileReady ss i t || !msuTakes ss i x d then d
    else if kind = .matmul && d.test.residue = some (16 * x.block.val + x.cell.val) then injectedMismatch x d
    else
      let r := ((evTile d c ss i k).run (startRun d.mem i.encoded d.freeCtr)).2
      let d := stepEvents r.events { d with mem := r.mem, freeCtr := r.free }
      let d := tileReads r.reads d
      if anyUncorrectable r.events then d
      else if r.fault then stepFault 0 d
      else finishTile x ss i k r d
  | _, _, _ => d

/-- MATMUL (R87 to R105, R140 to R166): one output tile of a stage of matrix products. -/
def execMatmul (x : CtxId) (s : State) (found : Found := []) : Host.Outcome State Fault Refusal :=
  lift (runTile .matmul x ∘ noteFound found) s

/-- DOT (R172, R173, R186): one tile of a product on a memory-side unit. -/
def execDot (x : CtxId) (s : State) (found : Found := []) : Host.Outcome State Fault Refusal :=
  lift (runTile .dot x ∘ noteFound found) s

/-- SOFTMAX (R176, R177): one row group. -/
def execSoftmax (x : CtxId) (s : State) (found : Found := []) : Host.Outcome State Fault Refusal :=
  lift (runTile .softmax x ∘ noteFound found) s

/-- RECOMP (R188): one row group. -/
def execRecomp (x : CtxId) (s : State) (found : Found := []) : Host.Outcome State Fault Refusal :=
  lift (runTile .recomp x ∘ noteFound found) s

/-- SOFTGRAD (R189): one row group. -/
def execSoftgrad (x : CtxId) (s : State) (found : Found := []) : Host.Outcome State Fault Refusal :=
  lift (runTile .softgrad x ∘ noteFound found) s

/-- VECTOR (R165): one tile of the separate form. -/
def execVector (x : CtxId) (s : State) (found : Found := []) : Host.Outcome State Fault Refusal :=
  lift (runTile .vector x ∘ noteFound found) s

/-! ### The tile watchdog (R402, R428, R435) -/

/-- Whether a context holds a tile that is not waiting for its band (R147, R435). -/
def tileRuns (x : CtxId) (d : Device) : Bool :=
  match d.work.issue, (d.work.contexts.find? (·.ctx = x)).bind (·.tile) with
  | some i, some k => let ss := issuedStages d; tileReady ss i (tileAt ss k)
  | _, _ => false

/-- TILE_WATCHDOG (R402, R435): a context that holds a tile made no progress, and its cell is fenced. Where an island has lowered
its clock, a lower budget may have passed this timeout, which then names no unit (R428): a free value. -/
def devTileWatchdog (x : CtxId) (d : Device) : Device :=
  if !fwRuns d || !tileRuns x d then d
  else
    let stretched := d.power.throttled.any fun i => match i with
      | .rm _ => true
      | .cell _ _ | .ve _ | .msu _ | .hub | .hbm _ | .fab _ | .pcie => false
    let t := if stretched then takeFree d else (0, d)
    stepError 0 x.block.val x.cell.val 0 (if t.1 % 2 = 0 then [.cell x.block x.cell] else []) t.2

/-- TILE_WATCHDOG. -/
def execTileWatchdog (x : CtxId) (s : State) : Host.Outcome State Fault Refusal := lift (devTileWatchdog x) s

/-! ### Sample points (R265, R266) -/

/-- Bytes of one logit. -/
def logitBytes (p : SamplePoint) : Nat := codeWidth p.fmt.code / 8

/-- The first byte of a logits row (R266). -/
def rowAddr (p : SamplePoint) (row : Nat) : Nat := p.logits + row * p.pitch * logitBytes p

/-- The region whose sampler draws a row (R266). -/
def samplerOf (p : SamplePoint) (row : Nat) : Nat :=
  let a := rowAddr p row
  if inBlock a then blockOf a / 16 else row % 8

/-- A sample-list entry (R266); one with a reserved ROLE is invalid and is never executed (R7; notes/assumptions 64). -/
def parseSampleEntry (i : Nat) (p : SamplePoint) (bs : List Byte) : Option SampleJob :=
  let row := field bs 4 4
  let role := field bs 8 1 % 16
  whenOk (1 ≤ role && role ≤ 3) {
    region := samplerOf p row, point := i, row := row, handle := field bs 0 4, role := role, j := field bs 8 1 / 16 }

/-- SAMPLE_POINT (R265): once its clause has completed, the hub hands the entries to the samplers. -/
def devSamplePoint (i : Fin 64) (d : Device) : Device :=
  match (pointsOf d)[i.val]? with
  | none => d
  | some p =>
    if !stepRuns d || !clauseDone d p.clause || d.work.sampled.contains i.val then d
    else
      let c := workRead p.list 4 d
      if !stepRuns c.2 then c.2
      else
        let n := natOfBytes c.1
        if 65536 < n then stepFault 0 c.2
        else
          let r := workRead (p.list + 16) (16 * n) c.2
          if !stepRuns r.2 then r.2
          else { r.2 with work := { r.2.work with
            sampled := r.2.work.sampled ++ [i.val]
            jobs := r.2.work.jobs ++ (pieces 16 n r.1).filterMap (parseSampleEntry i.val p) } }

/-- SAMPLE_POINT. -/
def execSamplePoint (i : Fin 64) (s : State) (found : Found := []) : Host.Outcome State Fault Refusal :=
  lift (devSamplePoint i ∘ noteFound found) s

/-! ### Draws (R270 to R273, R277) -/

/-- The own token index and the draw index of a draw (R272, R275, R277). -/
def drawIndices (q : Request) (x : SampleJob) : Nat × Nat :=
  if x.role = 1 then (q.promptLen, 0)
  else if x.role = 3 then (q.sampler.rngPos + x.j - 1, if q.sampler.coupled then 0 else 1)
  else (q.sampler.rngPos + x.j, 0)

/-- The draft tokens that a draw counts (R273): x1 to xj for row j, x1 to x(i-1) for iteration i. -/
def draftsBefore (drawn : List Drawn) (x : SampleJob) : List Nat :=
  let last := if x.role = 2 then x.j else if x.role = 3 then x.j - 1 else 0
  (drawn.filter fun y => y.handle = x.handle && y.role = 3 && 1 ≤ y.j && y.j ≤ last).map (·.token)

/-- Penalty counts of a draw (R273). -/
def drawCount (q : Request) (drafts : List Nat) (t : Nat) : Nat := Tab.getD q.sampler.counts t 0 + drafts.count t

/-- The logits of a row at their exact values (R266). -/
def logitsOf (p : SamplePoint) (bs : List Byte) : List Val :=
  (pieces (logitBytes p) p.v bs).map fun b => (readPart p.fmt drawArith (natOfBytes b)).1

/-- What a draw leaves: the draw, its count (R283), and the token where the next iteration reads it (R266). -/
def recordDraw (p : SamplePoint) (x : SampleJob) (index token : Nat) (nofinite : Bool) (d : Device) : Device :=
  let w := d.work
  let y : Drawn := { handle := x.handle, role := x.role, j := x.j, index := index, token := token, nofinite := nofinite }
  let d := { d with work := { w with
    jobs := w.jobs.erase x, drawn := w.drawn ++ [y]
    counts := { w.counts with nofinite := w.counts.nofinite + ofBit nofinite } } }
  if x.role = 3 then workWrite (p.logits + p.draftOut + 4 * x.row) (bytesOfNat 4 token) d else d

/-- DRAW: the sampler of a region draws its next row. -/
def devDraw (r : Fin 8) (d : Device) : Device :=
  match d.work.jobs.find? (·.region = r.val) with
  | none => d
  | some x =>
    if !stepRuns d then d
    else
      match (pointsOf d)[x.point]?, reqOf d x.handle with
      | some p, some q =>
        let l := workRead (rowAddr p x.row) (p.v * logitBytes p) d
        if !stepRuns l.2 then l.2
        else
          let k := drawIndices q x
          let y := drawToken q.sampler (drawCount q (draftsBefore d.work.drawn x)) q.seed k.1 k.2 (logitsOf p l.1)
          recordDraw p x k.1 y.1 y.2 l.2
      | _, _ => { d with work := { d.work with jobs := d.work.jobs.erase x } }

/-- DRAW. -/
def execDraw (r : Fin 8) (s : State) (found : Found := []) : Host.Outcome State Fault Refusal :=
  lift (devDraw r ∘ noteFound found) s

/-! ### Regions done (R29) -/

/-- Whether every clause has finished and every sample point has been handed out. -/
def clausesOver (d : Device) : Bool :=
  d.work.issue.isNone && (clausesOf d).length ≤ d.work.nextClause &&
    (List.range (pointsOf d).length).all fun i => d.work.sampled.contains i

/-- REGION_DONE (R29, R266). -/
def devRegionDone (r : Fin 8) (d : Device) : Device :=
  if !stepRuns d || !clausesOver d || d.work.jobs.any (·.region = r.val) || d.work.regionsDone.contains r.val then d
  else { d with work := { d.work with regionsDone := d.work.regionsDone ++ [r.val] } }

/-- REGION_DONE. -/
def execRegionDone (r : Fin 8) (s : State) : Host.Outcome State Fault Refusal := lift (devRegionDone r) s

end Sys2Proof.Machine
end

