-- ==== Sys2Proof/Machine/Bar2.lean ====
section
/-!
DEFINITION. Accesses through BAR2 (R347, R450, R455, R496, R534), also beside a step in flight.
-/
namespace Sys2Proof.Machine

/-- What the issued clause of the step in flight writes (R347). -/
def writingSpans (d : Device) : List (Nat × Nat) :=
  match d.work.issue, issuedClause d with
  | some i, some c =>
    (clauseSpans d c (stageOps (issuedOps c i.bounds)) i).flatMap (·.2) ++ spansOf (i.wrote.map (·.2))
  | _, _ => []

/-- What the step in flight writes or has written. -/
def stepWrites (d : Device) : List (Nat × Nat) := if d.job.inFlight then writingSpans d ++ d.work.past else []

/-- Consecutive bytes at addresses that may be reached, as runs; `run` holds those of the run that begins at `at'`. -/
def bar2Runs (p : Nat → Bool) : Nat → List Byte → Nat → List Byte → List (Nat × List Byte)
  | _, [], at', run => if run.isEmpty then [] else [(at', run)]
  | a, b :: t, at', run =>
    if p a then bar2Runs p (a + 1) t (if run.isEmpty then a else at') (run ++ [b])
    else (if run.isEmpty then [] else [(at', run)]) ++ bar2Runs p (a + 1) t 0 []

/-- One run of a BAR2 read: the bytes so far by address, whether a word was uncorrectable, and the device. -/
def bar2ReadRun (x : Tab Byte × Bool × Device) (r : Nat × List Byte) : Tab Byte × Bool × Device :=
  let t := touchRange x.2.2.mem r.1 r.2.length
  (x.1 ++ ((List.range r.2.length).map (r.1 + ·)).zip t.1, x.2.1 || anyUncorrectable t.2.2,
    bar2Events t.2.2 { x.2.2 with mem := t.2.1 })

/-- A BAR2 read: only words of memory that is there and wiped are read (R455, R496); bytes outside the map read 0xFF and set
BAR2_MISS; an uncorrectable word poisons the data, which AER logs (R450); bytes that the step in flight is writing are unpredictable
(R347). -/
def bar2Read (a n : Nat) (d : Device) : Device :=
  let runs := bar2Runs (fun x => bar2Reaches d x && memoryDone d x) a (List.replicate n 0#8) 0 []
  let r := runs.foldl bar2ReadRun ([], false, d)
  let e := r.2.2
  let busy := stepWrites e
  let bytes := (List.range n).map fun k => bar2Byte e (a + k) (Tab.getD r.1 (a + k) 0#8)
  let seen := openBytes busy e.freeCtr a bytes
  let e := { e with freeCtr := if meetsSpans busy a n then e.freeCtr + n else e.freeCtr }
  let e := if (List.range n).any fun k => !bar2Reaches e (a + k) then setHifErr 1 e else e
  emit (.readData seen r.2.1) { e with pcie := { e.pcie with aerPoisoned := e.pcie.aerPoisoned || r.2.1 } }

/-- One run of a BAR2 write. Beside a step in flight its bytes are noted as raced, and those that the step has read, has written or
is writing become unpredictable (R347). -/
def bar2Run (d : Device) (r : Nat × List Byte) : Device :=
  let busy := stepWrites d ++ d.work.read
  let bs := openBytes busy d.freeCtr r.1 r.2
  let d := noteRaced r.1 r.2.length
    { d with freeCtr := if meetsSpans busy r.1 r.2.length then d.freeCtr + r.2.length else d.freeCtr }
  let t := writeRange d.mem r.1 bs
  bar2Events t.2 { d with mem := t.1 }

/-- A BAR2 write: bytes outside the map or aimed at hub SRAM are discarded and set BAR2_MISS. -/
def bar2Write (a : Nat) (bs : List Byte) (d : Device) : Device :=
  let miss := (List.range bs.length).any fun k => !bar2Reaches d (a + k) || inHub (a + k)
  let d := (bar2Runs (bar2Writes d) a bs 0 []).foldl bar2Run d
  if miss then setHifErr 1 d else d

/-- An access of the host. -/
def bar2Do (op : Bar2Op) (d : Device) : Device :=
  match op with
  | .read off n => bar2Read (bar2Base d + off) n d
  | .write off bs => bar2Write (bar2Base d + off) bs d

/-- The bytes of an access: its first address and its length. -/
def bar2Span (op : Bar2Op) (d : Device) : Nat × Nat :=
  match op with
  | .read off n => (bar2Base d + off, n)
  | .write off bs => (bar2Base d + off, bs.length)

/-- Whether an access needs the die-to-die link that a loop-back has: that of the region whose block memory it reaches (R496). -/
def linkTaken (op : Bar2Op) (d : Device) : Bool :=
  let s := bar2Span op d
  d.test.busy && d.test.target = 4 && d.test.index < 8 &&
    rangesMeet s.1 s.2 (blockBase + d.test.index * 2 ^ 32) (2 ^ 32)

/-- BAR2_ACCESS on the device: an access that needs a link under test waits until the test ends, and later ones behind it. -/
def devBar2Access (op : Bar2Op) (found : Found) (d : Device) : Device :=
  if !linked d then d
  else if linkTaken op d || !d.test.waiting.isEmpty then
    { d with test := { d.test with waiting := d.test.waiting ++ [(op, found)] } }
  else bar2Do op (noteFound found d)

/-- BAR2_ACCESS (R347). A write into the firmware work area or a directory is undefined behaviour (R534, R3). -/
def execBar2Access (op : Bar2Op) (s : State) (found : Found := []) : Host.Outcome State Fault Refusal :=
  let d := s.dev
  match op with
  | .read _ _ => lift (devBar2Access op found) s
  | .write off bs =>
    if linked d && (List.range bs.length).any (fun k => firmwareOwned d (bar2Base d + off + k)) then .fault .undefinedHostWrite
    else lift (devBar2Access op found) s

end Sys2Proof.Machine
end

