-- ==== Sys2Proof/Machine/TestUnit.lean ====
section
/-!
DEFINITION. Loop-backs and error injection (R493 to R505).
-/
namespace Sys2Proof.Machine

/-- Whether target, index and depth name a loop-back (R494). -/
def loopbackExists (target index depth : Nat) : Bool :=
  match target with
  | 0 => index = 0 && depth < 3
  | 1 => index < 8
  | 2 => index = 0
  | 3 => index < 4 && depth < 2
  | 4 => depth = 0
  | _ => false

/-- What a loop-back takes from its interface while it runs (R496): the link, a port, the twin port. -/
def takeInterface (target index : Nat) (d : Device) : Device :=
  match target with
  | 0 => { d with power := { d.power with linkUp := false } }
  | 1 => { d with fab := { d.fab with up := d.fab.up &&& ~~~(1#8 <<< index) } }
  | 2 => { d with fab := { d.fab with twinUp := false } }
  | _ => d

/-- Start the loop-back that TST_LB_CTL selects, or set REFUSED (R493, R494, R501). -/
def startLoopback (d : Device) : Device :=
  let target := regField d .tstLbCtl 4 3
  let index := regField d .tstLbCtl 8 4
  let depth := regField d .tstLbCtl 12 2
  if wipeDone d && !lockWritten d && !d.test.busy && loopbackExists target index depth &&
      regField d .tstLbCtl 16 32 ≠ 0 then
    takeInterface target index
      { d with test := { Test.zero with
          busy := true, refused := d.test.refused, target := target, index := index, depth := depth,
          residue := d.test.residue } }
  else { d with test := { d.test with refused := true } }

/-- A loop-back ends: accesses that waited for its link are made (R496), and a CFG_LOCK that it held runs its checks (R493). -/
def endLoopback (f : Test → Test) (d : Device) : Device :=
  let t := f d.test
  let d := { d with test := { t with busy := false, done := true, waiting := [] } }
  tryLock (t.waiting.foldl (fun d w => bar2Do w.1 (noteFound w.2 d)) d)

/-- End the running loop-back at once with the counts reached (R497). -/
def abortLoopback (d : Device) : Device :=
  if !d.test.busy then d else endLoopback (fun t => { t with aborted := true, pass := false }) (advanceLoopback d)

/-- What the START and ABORT bits of a word written to TST_LB_CTL do (R497, R501): with both, the START meets the state before the
ABORT. DESIGN CHOICE (notes/assumptions 118). -/
def loopbackCommands (start abort : Bool) (d : Device) : Device :=
  let busy := d.test.busy
  whenD (abort && busy) abortLoopback (whenD start startLoopback d)

/-- START: TST_LB_CTL written with START = 1. -/
def devStart (v : W64) (d : Device) : Device :=
  if linked d then loopbackCommands true (v.getLsbD 1) (writeFields .tstLbCtl .whole v d) else d

/-- START. -/
def execStart (v : W64) (s : State) : Host.Outcome State Fault Refusal := lift (devStart v) s

/-- ABORT: TST_LB_CTL written with ABORT = 1. -/
def devAbort (d : Device) : Device := if linked d then abortLoopback d else d

/-- ABORT. -/
def execAbort (s : State) : Host.Outcome State Fault Refusal := lift devAbort s

/-- LOOPBACK_LOCK (R495): the run phase begins. -/
def devLoopbackLock (d : Device) : Device :=
  if d.test.busy && !d.test.lock then { d with test := { d.test with lock := true } } else d

/-- LOOPBACK_LOCK. -/
def execLoopbackLock (s : State) : Host.Outcome State Fault Refusal := lift devLoopbackLock s

/-- LOCK_LIMIT (R495): no lock in time. -/
def devLockLimit (d : Device) : Device :=
  if d.test.busy && !d.test.lock then endLoopback (fun t => { t with nolock := true, pass := false }) d else d

/-- LOCK_LIMIT. -/
def execLockLimit (s : State) : Host.Outcome State Fault Refusal := lift devLockLimit s

/-- A running loop-back's last counts: what an earlier read has shown stays counted. -/
def lastCounts (units errors corr : Nat) (t : Test) : Test :=
  { t with
    units := if countsUnits t then max t.units (count32 units) else 0
    errors := if countsUnits t then max t.errors (count32 errors) else 0
    corr := if countsFec t then max t.corr (count32 corr) else 0 }

/-- RUN_PHASE_END (R495, R502, R503): the counts and the verdict. -/
def devRunPhaseEnd (units errors corr : Nat) (d : Device) : Device :=
  if d.test.busy && d.test.lock then
    endLoopback (fun t => let t := lastCounts units errors corr t; { t with pass := t.errors = 0 }) d
  else d

/-- RUN_PHASE_END. -/
def execRunPhaseEnd (units errors corr : Nat) (s : State) : Host.Outcome State Fault Refusal :=
  lift (devRunPhaseEnd units errors corr) s

/-! ### Injection (R500, R505) -/

/-- Whether TST_INJECT may be written. -/
def injectOpen (d : Device) : Bool := d.fuses.lifecycle = .test || d.fuses.lifecycle = .returned

/-- The symbols that an injection of a kind flips, of the device's own choosing (free values from `n` on). -/
def injectedSymbols (kind n : Nat) : List (Nat × Byte) :=
  let p := Config.free n % 35
  let v := fun k => BitVec.ofNat 8 (1 + Config.free (n + k) % 255)
  if kind = 0 then [(p, v 1)] else [(p, v 1), ((p + 1 + Config.free (n + 2) % 34) % 35, v 3)]

/-- Arm the error that TST_INJECT names; an earlier one is dropped. -/
def armError (d : Device) : Device :=
  let addr := regField d .tstInject 0 48
  let kind := regField d .tstInject 48 3
  if kind < 2 then
    { d with
      freeCtr := d.freeCtr + 4
      mem := { d.mem with armed := some (wordAddr addr, injectedSymbols kind d.freeCtr) }
      test := { d.test with residue := none } }
  else if kind = 2 then
    { d with mem := { d.mem with armed := none }, test := { d.test with residue := some (addr % 2 ^ 12) } }
  else d

/-- ARM: TST_INJECT written with ARM = 1. -/
def devArm (v : W64) (d : Device) : Device :=
  if linked d && injectOpen d then armError (writeFields .tstInject .whole v d) else d

/-- ARM. -/
def execArm (v : W64) (s : State) : Host.Outcome State Fault Refusal := lift (devArm v) s

end Sys2Proof.Machine
end

