-- ==== Sys2Proof/Machine/BarWrite.lean ====
section
/-!
DEFINITION. A BAR0 write (R9, R346, R506, R509, R510): the fields it sets, the bits it clears, and the actions of WO fields.
-/
namespace Sys2Proof.Machine

/-! ### BAR0 writes (R9, R346) -/

/-- The registers with a CLEAR field in bit 63. -/
def hasClear : RegName → Bool
  | .errBlkUnderflowCnt | .errBlkNonfiniteCnt | .errAttnEmptyCnt | .errKvRewriteCnt | .errSampleNofiniteCnt
  | .errExpertDropCnt | .errStaleDiscard | .errCorrCnt | .errMemCe | .errMemUe | .errQueParity | .rgnTileStat _
  | .fabXferStat | .fabExportStat => true
  | _ => false

/-- LCS_BOOT_CTL (R9, R487): each bit performs its command; several commands at once are refused. -/
def bootCtlWrite (rom : RomInput) (w : W64) (d : Device) : Device :=
  let bits := (List.range 5).filter w.getLsbD
  if 1 < bits.length then bootError errBusy d
  else if w.getLsbD 0 then devLoad rom.load d
  else if w.getLsbD 2 then resetWith 4 rom.selfTest false false d
  else if w.getLsbD 1 then devSvnCommit d
  else if w.getLsbD 3 then devReport d
  else if w.getLsbD 4 then devLcReq ((w >>> 5).setWidth 3) d
  else d

/-- The actions that a written word asks for (R9). -/
def writeActions (r : RegName) (w : W64) (rom : RomInput) (d : Device) : Device :=
  match r with
  | .lcsBootCtl => bootCtlWrite rom w d
  | .cfgLock => whenD (w.getLsbD 0) devCfgLock d
  | .queEventCmd =>
    whenD (w.getLsbD 2) (flushQueue 128) (whenD (w.getLsbD 1) (dropRestQueue 128) (whenD (w.getLsbD 0) (devPop 128 rom.pool) d))
  | .tstLbCtl => loopbackCommands (w.getLsbD 0) (w.getLsbD 1) d
  | .tstInject => whenD (w.getLsbD 63) armError d
  | r => whenD (hasClear r && w.getLsbD 63) (devClear r) d

/-- A write to a register. -/
def writeRegister (r : RegName) (part : RegPart) (v : W64) (rom : RomInput) (d : Device) : Device :=
  let w := partWord part v
  if r = .tstInject && !injectOpen d then d
  else writeActions r w rom (writeOnes r w (writeFields r part v d))

/-- REGISTER_WRITE (R506): a write to an unassigned offset, or to LCS_CERT_WINDOW (R514), is ignored. -/
def devRegisterWrite (off : Nat) (part : RegPart) (v : W64) (rom : RomInput) (d : Device) : Device :=
  if !linked d then d
  else
    match regAt off with
    | none => d
    | some r => writeRegister r part v rom d

/-- REGISTER_WRITE. -/
def execRegisterWrite (off : Nat) (part : RegPart) (v : W64) (s : State) (rom : RomInput := RomInput.none) :
    Host.Outcome State Fault Refusal :=
  lift (devRegisterWrite off part v rom) s

end Sys2Proof.Machine
end

