-- ==== Sys2Proof/Machine/Power.lean ====
section
/-!
DEFINITION. Power, temperature and the link as the device and its carrier show them (R14, R510, R520 to R524).
-/
namespace Sys2Proof.Machine

/-- The pins of R520 that a command moves: PWR_GOOD and THERMTRIP#. -/
def pinPwrGood : Nat := 0
def pinThermtrip : Nat := 1

/-- The rails in the order of R521: SRAM stack; compute and hub core; HBM4E; interface I/O. -/
def railCount : Nat := 4

/-- PWR_EN (R521): PWR_EN is asserted, with P54V within its operating range or outside it. Within it the rails come up in order
and PWR_GOOD is released; the device stays in reset (R522). After a thermal trip PWR_EN must first be deasserted (R524). -/
def devPwrEn (p54v : Bool) (d : Device) : Device :=
  let d := { d with power := { d.power with pwrEn := true, p54v := d.power.pwrGood || p54v } }
  if d.power.pwrGood || d.power.thermtrip || !p54v then d
  else
    let d := emitAll ((List.range railCount).map fun r => .rail r true) d
    emit (.pin pinPwrGood true) { d with power := { d.power with rails := railCount, pwrGood := true, inReset := true } }

/-- PWR_EN. -/
def execPwrEn (s : State) (p54v : Bool := true) : Host.Outcome State Fault Refusal := lift (devPwrEn p54v) s

/-- The device without power: nothing but the fuses stays (R523), with the outcome of a burn that the loss interrupts. PWR_GOOD
goes low first, then the rails go in the reverse order (R521). -/
def losePower (d : Device) : Device :=
  if !d.power.pwrGood then d
  else
    let b := settleBurn d
    emitAll (.pin pinPwrGood false :: (List.range railCount).reverse.map fun r => .rail r false)
      { deviceAfter { b.power with pwrGood := false, rails := 0, inReset := false, linkUp := false, throttled := [] } Pcie.set
          b.fuses 0#7 { cells := [], units := [] } false b.freeCtr with out := d.out }

/-- POWER_DOWN (R521, R524): PWR_EN is deasserted, which also releases THERMTRIP#; or, with `p54v` false, P54V leaves its
operating range. -/
def devPowerDown (p54v : Bool) (d : Device) : Device :=
  let t := d.power.thermtrip
  let d := losePower d
  if !p54v then { d with power := { d.power with p54v := false } }
  else
    let d := { d with power := { d.power with pwrEn := false, thermtrip := false } }
    if t then emit (.pin pinThermtrip true) d else d

/-- POWER_DOWN. -/
def execPowerDown (s : State) (p54v : Bool := true) : Host.Outcome State Fault Refusal := lift (devPowerDown p54v) s

/-- PWR_GOOD_LOSS (R523). -/
def execPwrGoodLoss (s : State) : Host.Outcome State Fault Refusal := lift losePower s

/-- THERMTRIP (R524): package power goes and THERMTRIP# is low until PWR_EN is deasserted. -/
def devThermtrip (d : Device) : Device :=
  if !d.power.pwrGood then d
  else
    let d := losePower d
    emit (.pin pinThermtrip false) { d with power := { d.power with thermtrip := true } }

/-- THERMTRIP. -/
def execThermtrip (s : State) : Host.Outcome State Fault Refusal := lift devThermtrip s

/-- Whether an island lowers its own clock at its limit (R14). -/
def throttles : Island → Bool
  | .cell .. | .ve _ | .msu _ | .rm _ | .hub => true
  | .hbm _ | .fab _ | .pcie => false

/-- THERMAL_LIMIT (R14): the island lowers its clock. -/
def devThermalLimit (i : Island) (d : Device) : Device :=
  if !d.power.pwrGood || !throttles i || d.power.throttled.contains i then d
  else { d with power := { d.power with throttled := d.power.throttled ++ [i] } }

/-- THERMAL_LIMIT. -/
def execThermalLimit (i : Island) (s : State) : Host.Outcome State Fault Refusal := lift (devThermalLimit i) s

/-- THERMAL_LIMIT_CLEARED (R14): the island returns to its nominal clock. -/
def execThermalLimitCleared (i : Island) (s : State) : Host.Outcome State Fault Refusal :=
  lift (fun d => { d with power := { d.power with throttled := d.power.throttled.filter (· ≠ i) } }) s

/-- The widths and the rates in MT/s that the link trains to (R345), the payloads and the read requests that a host may set. -/
def linkWidths : List Nat := [16, 8, 4]
def linkRates : List Nat := [128000, 64000, 32000, 16000, 8000, 5000, 2500]
def payloadSizes : List Nat := [128, 256, 512]
def readSizes : List Nat := [128, 256, 512, 1024, 2048, 4096]

/-- Whether the link runs in FLIT mode at a rate (R345). -/
def flitMode (rate : Nat) : Bool := 64000 ≤ rate

/-- The settings that the function takes: a value that the device does not support leaves the field as it is. -/
def hostSettings (h old : HostPcie) : HostPcie :=
  { h with
    maxPayload := if payloadSizes.contains h.maxPayload then h.maxPayload else old.maxPayload
    maxRead := if readSizes.contains h.maxRead then h.maxRead else old.maxRead
    bar2Log := if 30 ≤ h.bar2Log && h.bar2Log ≤ 36 then h.bar2Log else old.bar2Log }

/-- What a link that has trained runs at, and what the host then sets (R2, R345). After a reset that leaves the link up the same
command carries the host's settings again (notes/assumptions 85). -/
def trained (s : LinkSetup) (p : Pcie) : Pcie :=
  { p with
    width := if linkWidths.contains s.width then s.width else p.width
    rate := if linkRates.contains s.rate then s.rate else p.rate
    host := (s.host.map fun h => hostSettings h p.host).getD p.host }

/-- LINK_TRAINING_END (R510): BAR0 is served from here on; a PCIe loop-back holds the link down (R496). -/
def devLinkTrainingEnd (setup : Option LinkSetup) (d : Device) : Device :=
  if !powered d || pcieTest d then d
  else
    sendPending { d with
      power := { d.power with linkUp := true }
      pcie := (setup.map fun s => trained s d.pcie).getD d.pcie }

/-- LINK_TRAINING_END. -/
def execLinkTrainingEnd (s : State) (setup : Option LinkSetup := none) : Host.Outcome State Fault Refusal :=
  lift (devLinkTrainingEnd setup) s

end Sys2Proof.Machine
end

