-- ==== Sys2Proof/Machine/Scrub.lean ====
section
/-!
DEFINITION. The scrubbers (R451, R452, R457): one read, what it counts at once, and what it leaves for the next action 4.
-/
namespace Sys2Proof.Machine

/-- A scrubber's number among the positions that the state holds. -/
def scrubIndex : ScrubSite → Nat
  | .block g => g.val
  | .hub => 128
  | .hbm s => 129 + s.val

/-- Words of a scrubber's memory (R441). -/
def scrubWords : ScrubSite → Nat
  | .block _ => blockSize / 32
  | .hub => (hubEnd - hubBase) / 32
  | .hbm _ => hbmEnd / 128

/-- The k-th word of a scrubber's memory in ascending address order (R441, R442). -/
def scrubWord (site : ScrubSite) (k : Nat) : Nat :=
  match site with
  | .block g => blockBase + g.val * blockSize + 32 * k
  | .hub => hubBase + 32 * k
  | .hbm s =>
    let q := k / 16
    2048 * q + 512 * Nat.xor s.val (q / 1024 % 4) + 32 * (k % 16)

/-- Whether a scrubber runs: its pace is not 0 (R457), and its memory is not being wiped (R451),
and no loop-back has its stack (R496). -/
def scrubRuns (d : Device) (site : ScrubSite) : Bool :=
  let w := d.boot.wipe
  powered d && !d.job.fatal &&
    (match site with
     | .block _ => regField d .cfgScrub 0 16 ≠ 0 && w.blockDone
     | .hub => regField d .cfgScrub 16 16 ≠ 0 && w.hubDone
     | .hbm s => regField d .cfgScrub 32 16 ≠ 0 && w.hbmDone && !(d.test.busy && d.test.target = 3 && d.test.index = s.val))

/-- An uncorrectable word that a scrubber finds (R450, R452): one that the step has reported, or that waits for its class
already, is not reported again. -/
def scrubBad (w : Nat) (stack : Bool) (d : Device) : Device :=
  if d.job.scrubbed.contains w || d.job.lost.contains w then d
  else
    let d := noteUncorrectable w 1 stack d
    { d with job := { d.job with scrubbed := d.job.scrubbed ++ [w] } }

/-- SCRUB_READ (R451): the next word of a scrubber's memory. -/
def devScrubRead (site : ScrubSite) (rd : WordRead) (d : Device) : Device :=
  if !scrubRuns d site then d
  else
    let k := Tab.getD d.scrub (scrubIndex site) 0
    let w := scrubWord site k
    let d := noteFound [(w, rd)] d
    let t := touchRange d.mem w 32
    eachEvent scrubBad t.2.2 { d with
      mem := t.2.1, scrub := Tab.put d.scrub (scrubIndex site) ((k + 1) % scrubWords site) }

/-- SCRUB_READ. -/
def execScrubRead (site : ScrubSite) (rd : WordRead) (s : State) : Host.Outcome State Fault Refusal :=
  lift (devScrubRead site rd) s

end Sys2Proof.Machine
end

