-- ==== Sys2Proof/Machine/Spdm.lean ====
section
/-!
DEFINITION. The SPDM responder on the DOE mailbox (R477, R480). The messages have the layouts of SPDM 1.3, which the manual
names and does not repeat (notes/assumptions 62).
-/
namespace Sys2Proof.Machine

/-- Whether the responder serves a request: the link is up, and hub SRAM has been wiped (R480). -/
def spdmServes (d : Device) : Bool := linked d && d.boot.wipe.hubDone

/-- The object in the DOE mailbox that carries a message (R2, R345): Vendor ID 0x0001, object type 0x01, the length in 4-byte
words. PRESUMED (notes/assumptions 85): PCI Express Base 7.0, which the manual names. -/
def doeObject (message : List Byte) : List Byte :=
  let n := (message.length + 3) / 4
  bytesOfNat 2 0x0001 ++ bytesOfNat 1 0x01 ++ bytesOfNat 1 0 ++ bytesOfNat 4 ((n + 2) % 2 ^ 18) ++ padTo (4 * n) message

/-- The bytes of a request: those that came, or, where only its parameters are given, the plain request with them. -/
def messageBytes (msg plain : List Byte) : List Byte := if msg.isEmpty then plain else msg

/-- A request that an exchange begins or continues with is answered, and both messages join the exchange. -/
def spdmExchange (stage : Spdm) (request response : List Byte) (d : Device) : Device :=
  emit (.doe response)
    { d with boot := { d.boot with
        spdm := stage
        transcript := (if stage = .version then [] else d.boot.transcript) ++ request ++ response
        measured := [] } }

/-- GET_VERSION: version 1.3 only; the exchange begins again. -/
def devGetVersion (d : Device) : Device :=
  if !spdmServes d then d
  else
    spdmExchange .version [0x10#8, 0x84#8, 0#8, 0#8] [0x10#8, 0x04#8, 0#8, 0#8, 0#8, 1#8, 0x00#8, 0x13#8] d

/-- GET_VERSION. -/
def execGetVersion (s : State) : Host.Outcome State Fault Refusal := lift devGetVersion s

/-- CERT_CAP, and MEAS_CAP with signature. -/
def spdmFlags : Nat := 0x12

/-- The largest message (R480). -/
def spdmMax : Nat := 4096

/-- GET_CAPABILITIES, after GET_VERSION. -/
def devGetCapabilities (msg : List Byte) (d : Device) : Device :=
  if !spdmServes d then d
  else if d.boot.spdm = .start then spdmError spdmUnexpected 0 d
  else
    let t := takeFree d
    let sizes := bytesOfNat 4 spdmMax ++ bytesOfNat 4 spdmMax
    spdmExchange .capabilities (messageBytes msg ([0x13#8, 0xE1#8, 0#8, 0#8] ++ List.replicate 8 0#8 ++ sizes))
      ([0x13#8, 0x61#8, 0#8, 0#8, 0#8, BitVec.ofNat 8 t.1, 0#8, 0#8] ++ bytesOfNat 4 spdmFlags ++ sizes) t.2

/-- GET_CAPABILITIES. -/
def execGetCapabilities (s : State) (msg : List Byte := []) : Host.Outcome State Fault Refusal := lift (devGetCapabilities msg) s

/-- The ALGORITHMS response: measurement specification DMTF, raw bit streams, Ed448, SHA3-512. -/
def algorithms (asym hash : Bool) : List Byte :=
  [0x13#8, 0x63#8, 0#8, 0#8] ++ bytesOfNat 2 36 ++ [1#8, 0#8] ++ bytesOfNat 4 1 ++
    bytesOfNat 4 (if asym then 0x800 else 0) ++ bytesOfNat 4 (if hash then 0x20 else 0) ++ List.replicate 16 0#8

/-- The plain NEGOTIATE_ALGORITHMS request that offers the device's algorithms, or not. -/
def negotiateRequest (asym hash : Bool) : List Byte :=
  [0x13#8, 0xE3#8, 0#8, 0#8] ++ bytesOfNat 2 32 ++ [1#8, 0#8] ++ bytesOfNat 4 (if asym then 0x800 else 0) ++
    bytesOfNat 4 (if hash then 0x20 else 0) ++ List.replicate 16 0#8

/-- A request that needs a state of the exchange and a life-cycle state other than SCRAP (R480, R481). -/
def spdmRequest (code : Nat) (ready : Bool) (f : Device → Device) (d : Device) : Device :=
  if !spdmServes d then d
  else if d.fuses.lifecycle = .scrap then spdmError spdmUnsupported code d
  else if !ready then spdmError spdmUnexpected 0 d
  else f d

/-- NEGOTIATE_ALGORITHMS: a request that offers neither selected algorithm receives ERROR. -/
def devNegotiateAlgorithms (offersAsym offersHash : Bool) (msg : List Byte) (d : Device) : Device :=
  spdmRequest 0xE3 (d.boot.spdm ≠ .start && d.boot.spdm ≠ .version) (fun d =>
    if !offersAsym && !offersHash then spdmError spdmInvalid 0 d
    else
      spdmExchange .negotiated (messageBytes msg (negotiateRequest offersAsym offersHash)) (algorithms offersAsym offersHash) d) d

/-- NEGOTIATE_ALGORITHMS. -/
def execNegotiateAlgorithms (offersAsym offersHash : Bool) (s : State) (msg : List Byte := []) :
    Host.Outcome State Fault Refusal :=
  lift (devNegotiateAlgorithms offersAsym offersHash msg) s

/-- A request after the negotiation that is no measurement: measurements asked before it join no signature. -/
def spdmAfter (code : Nat) (f : Device → Device) (d : Device) : Device :=
  spdmRequest code (d.boot.spdm = .negotiated) (fun d => f { d with boot := { d.boot with measured := [] } }) d

/-- GET_DIGESTS: slot 0, if it is populated. -/
def devGetDigests (d : Device) : Device :=
  spdmAfter 0x81 (fun d =>
    let c := d.boot.chain
    emit (.doe ([0x13#8, 0x01#8, 1#8, BitVec.ofNat 8 (ofBit (!c.isEmpty))] ++ (if c.isEmpty then [] else sha3_512 c))) d) d

/-- GET_DIGESTS. -/
def execGetDigests (s : State) : Host.Outcome State Fault Refusal := lift devGetDigests s

/-- GET_CERTIFICATE: a portion of the chain of slot 0. -/
def devGetCertificate (slot off len : Nat) (d : Device) : Device :=
  spdmAfter 0x82 (fun d =>
    let c := d.boot.chain
    if c.isEmpty then spdmError spdmUnexpected 0 d
    else if slot ≠ 0 || c.length ≤ off then spdmError spdmInvalid 0 d
    else
      let part := slice c off (min len (spdmMax - 8))
      emit (.doe ([0x13#8, 0x02#8, 0#8, 0#8] ++ bytesOfNat 2 part.length ++ bytesOfNat 2 (c.length - off - part.length) ++ part)) d)
    d

/-- GET_CERTIFICATE. -/
def execGetCertificate (slot : Nat) (off len : Nat) (s : State) : Host.Outcome State Fault Refusal :=
  lift (devGetCertificate slot off len) s

/-- The plain GET_MEASUREMENTS request: a signed one carries the nonce and the slot number 0; the RequesterContext is 0. -/
def measurementsRequest (index : Nat) (signed : Bool) (nonce : List Byte) : List Byte :=
  [0x13#8, 0xE0#8, BitVec.ofNat 8 (ofBit signed), BitVec.ofNat 8 index] ++ (if signed then padTo 32 nonce ++ [0#8] else []) ++
    List.replicate 8 0#8

/-- GET_MEASUREMENTS: a signature needs the alias key (R477, R480); a request that arrives during a boundary is answered
after it. -/
def devGetMeasurements (index : Nat) (signed : Bool) (nonce msg : List Byte) (d : Device) : Device :=
  spdmRequest 0xE0 (d.boot.spdm = .negotiated) (fun d =>
    if signed && d.boot.aliasSeed.isEmpty then spdmError spdmUnexpected 0 d
    else
      let req := messageBytes msg (measurementsRequest index signed nonce)
      if inBoundary d then { d with boot := { d.boot with measWaiting := some (index, signed, req) } }
      else answerMeasurements index signed req d) d

/-- GET_MEASUREMENTS. -/
def execGetMeasurements (index : Nat) (signed : Bool) (nonce : List Byte) (s : State) (msg : List Byte := []) :
    Host.Outcome State Fault Refusal :=
  lift (devGetMeasurements index signed nonce msg) s

/-- The request codes that the responder serves (R480). -/
def spdmCodes : List Nat := [0x81, 0x82, 0x84, 0xE0, 0xE1, 0xE3]

/-- UNSUPPORTED_REQUEST: any other request code. -/
def devUnsupportedRequest (code : Nat) (d : Device) : Device :=
  if !spdmServes d || spdmCodes.contains code then d else spdmError spdmUnsupported code d

/-- UNSUPPORTED_REQUEST. -/
def execUnsupportedRequest (code : Nat) (s : State) : Host.Outcome State Fault Refusal :=
  lift (devUnsupportedRequest code) s

end Sys2Proof.Machine
end

