-- ==== Sys2Proof/Machine/Dispatch.lean ====
section
/-!
DEFINITION. The effect of each command: one arm for each row of the table, each a call of the command's own meaning.
-/
namespace Sys2Proof.Machine

/-- The effect of a command on everything but the queue. -/
def exec (i : Instr) (s : State) : Host.Outcome State Fault Refusal :=
  match i with
  | .modelLoad f => Sys2Proof.Machine.execModelLoad f s
  | .sentenceLoad f => Sys2Proof.Machine.execSentenceLoad f s
  | .variantLoad f => Sys2Proof.Machine.execVariantLoad f s
  | .reqSubmit f => Sys2Proof.Machine.execReqSubmit f s
  | .reqCancel f => Sys2Proof.Machine.execReqCancel f s
  | .reqPause f => Sys2Proof.Machine.execReqPause f s
  | .reqResume f => Sys2Proof.Machine.execReqResume f s
  | .reqPriority f => Sys2Proof.Machine.execReqPriority f s
  | .exportSlots f => Sys2Proof.Machine.execExportSlots f s
  | .groupDefine f => Sys2Proof.Machine.execGroupDefine f s
  | .groupReform f => Sys2Proof.Machine.execGroupReform f s
  | .jobRestart f => Sys2Proof.Machine.execJobRestart f s
  | .twinAttach f => Sys2Proof.Machine.execTwinAttach f s
  | .twinDetach f => Sys2Proof.Machine.execTwinDetach f s
  | .stepLog f => Sys2Proof.Machine.execStepLog f s
  | .query f => Sys2Proof.Machine.execQuery f s
  | .doorbellPoll page => Sys2Proof.Machine.execDoorbellPoll page s
  | .descriptorFetch ring rd => Sys2Proof.Machine.execDescriptorFetch ring rd s
  | .stepBegin plan outRows => Sys2Proof.Machine.execStepBegin plan outRows s
  | .clauseIssue found => Sys2Proof.Machine.execClauseIssue s found
  | .tileClaim x seen => Sys2Proof.Machine.execTileClaim x seen s
  | .regionSteal r b seen => Sys2Proof.Machine.execRegionSteal r b seen s
  | .matmul x found => Sys2Proof.Machine.execMatmul x s found
  | .dot x found => Sys2Proof.Machine.execDot x s found
  | .softmax x found => Sys2Proof.Machine.execSoftmax x s found
  | .recomp x found => Sys2Proof.Machine.execRecomp x s found
  | .softgrad x found => Sys2Proof.Machine.execSoftgrad x s found
  | .vector x found => Sys2Proof.Machine.execVector x s found
  | .cvt g insn => Sys2Proof.Machine.execCvt g insn s
  | .cvtq g insn => Sys2Proof.Machine.execCvtq g insn s
  | .cvtd g insn => Sys2Proof.Machine.execCvtd g insn s
  | .samplePoint p found => Sys2Proof.Machine.execSamplePoint p s found
  | .draw r found => Sys2Proof.Machine.execDraw r s found
  | .regionDone r => Sys2Proof.Machine.execRegionDone r s
  | .localDone page => Sys2Proof.Machine.execLocalDone page s
  | .boundaryActionResume => Sys2Proof.Machine.execBoundaryActionResume s
  | .heldSubmitTimeout => Sys2Proof.Machine.execHeldSubmitTimeout s
  | .stepStart p page => Sys2Proof.Machine.execStepStart p page s
  | .stepDone p page => Sys2Proof.Machine.execStepDone p page s
  | .stepAbort p page => Sys2Proof.Machine.execStepAbort p page s
  | .stepWant p => Sys2Proof.Machine.execStepWant p s
  | .stepWantRepeat => Sys2Proof.Machine.execStepWantRepeat s
  | .stepDoneTimeout => Sys2Proof.Machine.execStepDoneTimeout s
  | .readyWaitTimeout => Sys2Proof.Machine.execReadyWaitTimeout s
  | .stepStartTimeout => Sys2Proof.Machine.execStepStartTimeout s
  | .tierCopyDone c found => Sys2Proof.Machine.execTierCopyDone c s found
  | .requantisationDone c found => Sys2Proof.Machine.execRequantisationDone c s found
  | .data port f => Sys2Proof.Machine.execData port f s
  | .ack port f page => Sys2Proof.Machine.execAck port f s page
  | .nak port f => Sys2Proof.Machine.execNak port f s
  | .transportRetryTimeout id => Sys2Proof.Machine.execTransportRetryTimeout id s
  | .particleRetryTimeout id => Sys2Proof.Machine.execParticleRetryTimeout id s
  | .portDown port => Sys2Proof.Machine.execPortDown port s
  | .portUp port => Sys2Proof.Machine.execPortUp port s
  | .contributionFold entry rank chunk => Sys2Proof.Machine.execContributionFold entry rank chunk s
  | .oredGrant port f => Sys2Proof.Machine.execOredGrant port f s
  | .oredRefuse port f => Sys2Proof.Machine.execOredRefuse port f s
  | .oredAnswerTimeout entry => Sys2Proof.Machine.execOredAnswerTimeout entry s
  | .oredResult port f => Sys2Proof.Machine.execOredResult port f s
  | .collectiveProgressTimeout entry => Sys2Proof.Machine.execCollectiveProgressTimeout entry s
  | .collFail p => Sys2Proof.Machine.execCollFail p s
  | .exportPageStart found => Sys2Proof.Machine.execExportPageStart s found
  | .exportCredit p => Sys2Proof.Machine.execExportCredit p s
  | .creditWaitTimeout handle => Sys2Proof.Machine.execCreditWaitTimeout handle s
  | .queuePacket q ws => Sys2Proof.Machine.execQueuePacket q ws s
  | .drain q rd => Sys2Proof.Machine.execDrain q rd s
  | .unreadTimeout q rd => Sys2Proof.Machine.execUnreadTimeout q s rd
  | .pop q rd => Sys2Proof.Machine.execPop q rd s
  | .dropRest q => Sys2Proof.Machine.execDropRest q s
  | .flush q => Sys2Proof.Machine.execFlush q s
  | .hello attachGen h => Sys2Proof.Machine.execHello attachGen h s
  | .sync attachGen r => Sys2Proof.Machine.execSync attachGen r s
  | .result attachGen r page => Sys2Proof.Machine.execResult attachGen r s page
  | .boundary attachGen r page => Sys2Proof.Machine.execBoundary attachGen r s page
  | .order attachGen step items => Sys2Proof.Machine.execOrder attachGen step items s
  | .forward attachGen result port f => Sys2Proof.Machine.execForward attachGen result port f s
  | .detach attachGen page => Sys2Proof.Machine.execDetach attachGen s page
  | .twinWaitTimeout page => Sys2Proof.Machine.execTwinWaitTimeout s page
  | .twinHelloTimeout => Sys2Proof.Machine.execTwinHelloTimeout s
  | .twinPortDown page => Sys2Proof.Machine.execTwinPortDown s page
  | .tileWatchdog x => Sys2Proof.Machine.execTileWatchdog x s
  | .linkRetryTimeout link exhausted => Sys2Proof.Machine.execLinkRetryTimeout link exhausted s
  | .residueMismatch site => Sys2Proof.Machine.execResidueMismatch site s
  | .hubCoreWatchdog => Sys2Proof.Machine.execHubCoreWatchdog s
  | .regionManagerWatchdog r => Sys2Proof.Machine.execRegionManagerWatchdog r s
  | .scrubRead site rd => Sys2Proof.Machine.execScrubRead site rd s
  | .completionTimeout rd after => Sys2Proof.Machine.execCompletionTimeout rd s after
  | .cfgLock => Sys2Proof.Machine.execCfgLock s
  | .load rd => Sys2Proof.Machine.execLoad rd s
  | .firmwareRunning => Sys2Proof.Machine.execFirmwareRunning s
  | .svnCommit => Sys2Proof.Machine.execSvnCommit s
  | .reset st => Sys2Proof.Machine.execReset st s
  | .report => Sys2Proof.Machine.execReport s
  | .lcReq target => Sys2Proof.Machine.execLcReq target s
  | .powerOnReset st => Sys2Proof.Machine.execPowerOnReset st s
  | .perstReset st => Sys2Proof.Machine.execPerstReset st s
  | .hotReset st => Sys2Proof.Machine.execHotReset st s
  | .functionLevelReset st => Sys2Proof.Machine.execFunctionLevelReset st s
  | .carrierControllerReset st => Sys2Proof.Machine.execCarrierControllerReset st s
  | .hubDone bad corrected => Sys2Proof.Machine.execHubDone bad corrected s
  | .wipeDone badBlock badHbm correctedBlock correctedHbm cycles part => Sys2Proof.Machine.execWipeDone badBlock badHbm correctedBlock correctedHbm cycles s part
  | .pwrEn p54v => Sys2Proof.Machine.execPwrEn s p54v
  | .powerDown p54v => Sys2Proof.Machine.execPowerDown s p54v
  | .pwrGoodLoss => Sys2Proof.Machine.execPwrGoodLoss s
  | .thermtrip => Sys2Proof.Machine.execThermtrip s
  | .thermalLimit island => Sys2Proof.Machine.execThermalLimit island s
  | .start v => Sys2Proof.Machine.execStart v s
  | .abort => Sys2Proof.Machine.execAbort s
  | .loopbackLock => Sys2Proof.Machine.execLoopbackLock s
  | .lockLimit => Sys2Proof.Machine.execLockLimit s
  | .runPhaseEnd units errors corr => Sys2Proof.Machine.execRunPhaseEnd units errors corr s
  | .arm v => Sys2Proof.Machine.execArm v s
  | .ringRestart v => Sys2Proof.Machine.execRingRestart v s
  | .digestLatch part => Sys2Proof.Machine.execDigestLatch part s
  | .errBlkUnderflowCntClear => Sys2Proof.Machine.execErrBlkUnderflowCntClear s
  | .errBlkNonfiniteCntClear => Sys2Proof.Machine.execErrBlkNonfiniteCntClear s
  | .errAttnEmptyCntClear => Sys2Proof.Machine.execErrAttnEmptyCntClear s
  | .errKvRewriteCntClear => Sys2Proof.Machine.execErrKvRewriteCntClear s
  | .errSampleNofiniteClear => Sys2Proof.Machine.execErrSampleNofiniteClear s
  | .errExpertDropCntClear => Sys2Proof.Machine.execErrExpertDropCntClear s
  | .errStaleDiscardClear => Sys2Proof.Machine.execErrStaleDiscardClear s
  | .errCorrCntClear => Sys2Proof.Machine.execErrCorrCntClear s
  | .errMemCeClear => Sys2Proof.Machine.execErrMemCeClear s
  | .errMemUeClear => Sys2Proof.Machine.execErrMemUeClear s
  | .errQueParityClear => Sys2Proof.Machine.execErrQueParityClear s
  | .tileStatClear r => Sys2Proof.Machine.execTileStatClear r s
  | .fabXferStatClear => Sys2Proof.Machine.execFabXferStatClear s
  | .fabExportStatClear => Sys2Proof.Machine.execFabExportStatClear s
  | .registerWrite off part v rom => Sys2Proof.Machine.execRegisterWrite off part v s rom
  | .bar2Access op found => Sys2Proof.Machine.execBar2Access op s found
  | .getVersion => Sys2Proof.Machine.execGetVersion s
  | .getCapabilities msg => Sys2Proof.Machine.execGetCapabilities s msg
  | .negotiateAlgorithms offersAsym offersHash msg => Sys2Proof.Machine.execNegotiateAlgorithms offersAsym offersHash s msg
  | .getDigests => Sys2Proof.Machine.execGetDigests s
  | .getCertificate slot off len => Sys2Proof.Machine.execGetCertificate slot off len s
  | .getMeasurements index signed nonce msg => Sys2Proof.Machine.execGetMeasurements index signed nonce s msg
  | .burnComplete st => Sys2Proof.Machine.execBurnComplete st s
  | .linkTrainingEnd setup => Sys2Proof.Machine.execLinkTrainingEnd s setup
  | .twinPortUp => Sys2Proof.Machine.execTwinPortUp s
  | .thermalLimitCleared island => Sys2Proof.Machine.execThermalLimitCleared island s
  | .unsupportedRequest code => Sys2Proof.Machine.execUnsupportedRequest code s
  | .bar0SizeAccess off size isWrite pool => Sys2Proof.Machine.execBar0SizeAccess off size isWrite s pool

end Sys2Proof.Machine
end

