-- ==== Sys2Proof/WellFormed.lean ====
section
/-!
DEFINITION. Well-formed commands: what the widths of registers, headers, descriptors and ranges of the manual allow an
operand to be. The meanings are total and do not rest on it.
-/
namespace Sys2Proof

/-- The free-running index of a ring has 32 bits (R350). -/
def Fetched.wf (f : Fetched) : Bool := f.index < 2 ^ 32

/-- Every header field fits its width, and the payload is as long as LEN says (R287). -/
def Frame.wf (f : Frame) : Bool :=
  f.version < 16 && f.vc < 4 && f.len < 2 ^ 16 && f.src < 2 ^ 32 && f.dst < 2 ^ 32 && f.gen < 2 ^ 32 && f.group < 64 &&
    f.frag < 8 && f.nfrag < 8 && f.rank < 2 ^ 16 && f.entry < 4096 && f.step < 2 ^ 48 && f.piece < 2 ^ 16 &&
    f.index < 2 ^ 15 && f.phase < 2 && f.crc < 2 ^ 32 && f.etype < 2 ^ 16 && f.payload.length = f.len

/-- A PARTICLE frame is a frame (R286). -/
def ParticleIn.wf (p : ParticleIn) : Bool := p.frame.wf

/-- How many places a kind of unit has (R504): a block for kinds 0 to 3, a region for kinds 4 and 5; the hash engine's place is
0xFF. -/
def unitPlaces (kind : Nat) : Nat := if kind < 4 then 128 else if kind < 6 then 8 else 0

/-- The self-tests name cells and units that exist (R489, R490). -/
def SelfTest.wf (t : SelfTest) : Bool :=
  t.cells.all (fun c => c.1 < 128 && c.2 < 12) && t.units.all fun u => u.2 < unitPlaces u.1 || (u.1 = 6 && u.2 = 0xFF)

/-- A seen counter word fits its fields (R125). -/
def SeenWord.wf (w : SeenWord) : Bool := w.next < 2 ^ 32 && w.stop < 2 ^ 32 && w.epoch < 2 ^ 32

/-- A copy's destination is a slot of a tier (R194, R214). -/
def TierCopy.wf (c : TierCopy) : Bool := c.dest.tier < 3 && c.key.slot < 16384

/-- A read of one memory word names symbols of the word (R444). -/
def WordRead.wf (r : WordRead) : Bool := r.symbols.all fun s => s.1 < 35 && s.2 ≠ 0#8

/-- Words that have taken errors: what a read of each may find (R444, R446). -/
def Found.wf (f : Found) : Bool := f.all fun e => WordRead.wf e.2

/-- What the host may set in the configuration space (R345, R372), and what a link trains to. -/
def LinkSetup.wf (s : LinkSetup) : Bool :=
  (s.width = 16 || s.width = 8 || s.width = 4) && [128000, 64000, 32000, 16000, 8000, 5000, 2500].contains s.rate &&
    s.host.all fun h => [128, 256, 512].contains h.maxPayload && [128, 256, 512, 1024, 2048, 4096].contains h.maxRead &&
      30 ≤ h.bar2Log && h.bar2Log ≤ 36

/-- A packet of the queues 0 to 128 comes whole, in PKTMAX words at most (R380, R381). -/
def packetWf (q : Nat) (ws : List QIn) : Bool :=
  !ws.isEmpty && (128 < q ||
    (ws.length ≤ (if q < 64 then 2 else if q < 128 then 4 else 8) && (ws.map (·.last)) = List.replicate (ws.length - 1) false ++ [true]))

/-- The bytes of an SPDM request agree with its parameters (SPDM 1.3). -/
def requestWf (code len : Nat) (msg : List Byte) (same : Bool) : Bool :=
  msg.isEmpty || (len ≤ msg.length && msg.getD 0 0#8 = 0x13#8 && (msg.getD 1 0#8).toNat = code && same)

/-- What is read of an image has the bounds of R467. -/
def LoadRead.wf (r : LoadRead) : Bool :=
  (r.manifest.all fun m => m.length ≤ 16 + 96 * 31 + 114) && (r.segments.all fun s => s.length ≤ 31)

/-- A host access through BAR2 covers some bytes (R347). -/
def Bar2Op.wf : Bar2Op → Bool
  | .read _ n => 0 < n
  | .write _ bs => !bs.isEmpty

/-- Whether an access is one that a register takes (R346). -/
def bar0Aligned (off size : Nat) : Bool := (size = 8 && off % 8 = 0) || (size = 4 && off % 4 = 0)

/-- A 4-byte access carries 4 bytes. -/
def partFits (part : RegPart) (v : W64) : Bool := part = .whole || v.toNat < 2 ^ 32

/-- Well-formed commands. -/
def Instr.wf : Instr → Bool
  | .modelLoad f | .sentenceLoad f | .variantLoad f | .reqSubmit f | .reqCancel f | .reqPause f | .reqResume f
  | .reqPriority f | .exportSlots f | .groupDefine f | .groupReform f | .jobRestart f | .twinAttach f | .twinDetach f
  | .stepLog f | .query f => f.wf
  | .doorbellPoll _ | .descriptorFetch _ _ => true
  | .stepBegin plan rows => plan.all (fun w => !w.bytes.isEmpty) && (rows.map (·.1)).Nodup
  | .clauseIssue found | .matmul _ found | .dot _ found | .softmax _ found | .recomp _ found | .softgrad _ found
  | .vector _ found | .samplePoint _ found | .draw _ found | .exportPageStart found => found.wf
  | .tileClaim _ seen | .regionSteal _ _ seen => seen.all SeenWord.wf
  | .cvt _ _ | .cvtq _ _ | .cvtd _ _ | .regionDone _ | .localDone _ | .boundaryActionResume | .heldSubmitTimeout => true
  | .stepStart p _ | .stepDone p _ | .stepAbort p _ => p.wf
  | .stepWant p | .collFail p | .exportCredit p => p.wf
  | .stepWantRepeat | .stepDoneTimeout | .readyWaitTimeout | .stepStartTimeout => true
  | .tierCopyDone c found | .requantisationDone c found => c.wf && found.wf
  | .data _ f | .ack _ f _ | .nak _ f | .oredGrant _ f | .oredRefuse _ f | .oredResult _ f | .forward _ _ _ f => f.wf
  | .transportRetryTimeout _ | .particleRetryTimeout _ | .portDown _ | .portUp _ => true
  | .contributionFold _ rank chunk => rank < 2 ^ 16 && chunk < 2 ^ 15
  | .oredAnswerTimeout _ | .collectiveProgressTimeout _ => true
  | .creditWaitTimeout handle => handle < 2 ^ 32
  | .queuePacket q ws => packetWf q.val ws
  | .drain _ _ | .unreadTimeout _ _ | .pop _ _ | .dropRest _ | .flush _ => true
  | .hello g _ | .detach g _ => g < 2 ^ 32
  | .sync g r => g < 2 ^ 32 && r.step < 2 ^ 48
  | .result g r _ => g < 2 ^ 32 && r.step < 2 ^ 48
  | .boundary g r _ => g < 2 ^ 32 && r.step < 2 ^ 48
  | .order g n _ => g < 2 ^ 32 && n < 2 ^ 48
  | .twinWaitTimeout _ | .twinHelloTimeout | .twinPortDown _ | .tileWatchdog _ | .linkRetryTimeout _ _ | .residueMismatch _
  | .hubCoreWatchdog | .regionManagerWatchdog _ => true
  | .scrubRead _ rd => rd.wf
  | .completionTimeout _ _ | .cfgLock => true
  | .load rd => rd.wf
  | .firmwareRunning | .svnCommit | .report | .lcReq _ => true
  | .reset st | .powerOnReset st | .perstReset st | .hotReset st | .functionLevelReset st | .carrierControllerReset st
  | .burnComplete st => st.wf
  | .hubDone bad _ => bad.wf
  | .wipeDone badBlock badHbm _ _ cycles _ => badBlock.wf && badHbm.wf && cycles < 2 ^ 32
  | .pwrEn _ | .powerDown _ | .pwrGoodLoss | .thermtrip | .thermalLimit _ | .start _ | .abort | .loopbackLock | .lockLimit
  | .runPhaseEnd _ _ _ | .arm _ | .ringRestart _ | .digestLatch _ | .errBlkUnderflowCntClear | .errBlkNonfiniteCntClear
  | .errAttnEmptyCntClear | .errKvRewriteCntClear | .errSampleNofiniteClear | .errExpertDropCntClear
  | .errStaleDiscardClear | .errCorrCntClear | .errMemCeClear | .errMemUeClear | .errQueParityClear | .tileStatClear _
  | .fabXferStatClear | .fabExportStatClear => true
  | .registerWrite off part v rom =>
    off < 0x2000000 && off % 8 = 0 && partFits part v && rom.load.wf && rom.selfTest.wf
  | .bar2Access op found => op.wf && found.wf
  | .getVersion | .getDigests => true
  | .getCapabilities msg => requestWf 0xE1 20 msg true
  | .negotiateAlgorithms asym hash msg =>
    requestWf 0xE3 32 msg (((msg.getD 9 0#8).getLsbD 3) = asym && ((msg.getD 12 0#8).getLsbD 5) = hash)
  | .getCertificate slot off len => slot < 8 && off < 2 ^ 16 && len < 2 ^ 16
  | .getMeasurements index signed nonce msg => index < 256 && (!signed || nonce.length = 32) &&
      requestWf 0xE0 (if signed then 45 else 12) msg ((msg.getD 2 0#8).getLsbD 0 = signed && (msg.getD 3 0#8).toNat = index &&
        (!signed || (msg.drop 4).take 32 = nonce))
  | .linkTrainingEnd setup => setup.all LinkSetup.wf
  | .twinPortUp | .thermalLimitCleared _ => true
  | .unsupportedRequest code => code < 256
  | .bar0SizeAccess off size isWrite _ => !bar0Aligned off size || !isWrite

end Sys2Proof
end

