-- ==== Sys2Proof/Safety.lean ====
section
/-!
DEFINITION. What statements about runs are made of: the states in which a descriptor takes effect, the state that a reset
leaves, the invariants of the state, and what a step may never do.
-/
namespace Sys2Proof

/-- The device as a command finds it: nothing emitted yet. -/
def entry (s : Machine.State) : Machine.Device := { s.dev with out := [] }

/-- The answer is a next state. -/
def Completes (o : Host.Outcome Machine.State Machine.Fault Machine.Refusal) : Prop :=
  ∃ t, o = .next t

/-- Device memory, the spill area and the cells' own storage are in canonical form. -/
def MemoryCanonical (s : Machine.State) : Prop :=
  Machine.memWf s.dev.mem.bytes = true ∧ Machine.memWf s.dev.mem.spill = true ∧ Machine.memWf s.dev.cellStore = true

/-- Device memory holds no error, stored or armed. -/
def ErrorFree (d : Machine.Device) : Prop := d.mem.upsets = [] ∧ d.mem.armed = none

/-- A descriptor is the next one of its ring, and can be fetched (R353, R355). -/
def Comes (d : Machine.Device) (f : Fetched) : Prop := Machine.fetches d f.ring = true ∧ f.index = Machine.nextIndex d f.ring

/-- What a fetch writes to the status page: the ring's consumer count and the step word (R351, R353). -/
def fetchStatus (d : Machine.Device) (f : Fetched) : List Machine.Emission :=
  [.hostWrite (Machine.statusBase d + 8 * f.ring.val) (Machine.bytesOfNat 8 ((f.index + 1) % 2 ^ 32)),
   .hostWrite (Machine.statusBase d + 1544) (Machine.bytesOfNat 8 (d.job.number + 2 ^ 63 * Machine.ofBit d.job.inFlight))]

/-- The host interface after a fetch: the ring's consumer count has advanced. -/
def fetchedHif (d : Machine.Device) (f : Fetched) : Machine.HostIf :=
  { d.hif with sqCons := Tab.put d.hif.sqCons f.ring.val ((f.index + 1) % 2 ^ 32) }

/-- A fetched descriptor joins those that wait for their boundary (R353); nothing else changes. -/
def joins (s : Machine.State) (f : Fetched) : Machine.State :=
  { s with dev := { s.dev with
      out := fetchStatus s.dev f
      hif := { fetchedHif s.dev f with fetched := s.dev.hif.fetched ++ [f] } } }

/-- A descriptor that this device takes in tells no other member: it is member 0, runs a step, is halted, or has told
member 0 already (R35). -/
def tellsNone (d : Machine.Device) : Bool := Machine.isLead d || d.job.inFlight || d.job.halted || d.job.wantSent

/-- A boundary stands at action 4, a descriptor is the next one to be applied, and nothing of the boundary is left but this.
The device serves its own role alone and replays no log. -/
def AtActionFour (d : Machine.Device) (f : Fetched) : Bool :=
  Machine.powered d && d.cfgLocked && !d.job.fatal && d.bnd.ops = [.apply f] && d.bnd.posting.isEmpty &&
    (d.twin.state = .unpaired || d.twin.state = .paired) && d.twin.taken.isNone && !d.onTaken && d.hif.log.mode ≠ 2

/-- Nothing that a reset discards is left (R463): only fuses, pins, the link and the outcome of the self-tests say where the
device has been. -/
def AfterReset (d : Machine.Device) : Prop :=
  d.boot.phase = .wipe ∧ Machine.wipeDone d = false ∧ d.boot.loading = none ∧ d.boot.runSvn = 0 ∧ d.boot.burn = none ∧
    d.boot.chain = [] ∧ d.regs = [] ∧ d.cfgLocked = false ∧ d.cfgHeld = false ∧ d.errs = Machine.Errs.zero ∧
    d.stats = Machine.Stats.zero ∧ d.hif = Machine.HostIf.zero ∧ d.queues = [] ∧ d.job = Machine.Job.zero ∧
    d.work = Machine.Work.idle ∧ d.bnd = Machine.Boundary.none ∧ d.role = Machine.emptyRole ∧ d.tree = [] ∧
    d.mem = Machine.Mem.zero ∧ d.cellStore = [] ∧ d.veRegs = [] ∧ d.veScales = [] ∧
    d.slabs = [] ∧ d.pcie.pending = 0#64 ∧ d.loaded = Machine.Loaded.none ∧ d.fab = Machine.Fabric.zero ∧
    d.twin = Machine.Twin.zero ∧ d.test = Machine.Test.zero ∧
    d.active = Machine.activeAfter d.fuses.present d.boot.selfTest

/-- The fuses are the old ones, or those that a running burn makes (R474, R484). -/
def FusesSettled (before after : Machine.Device) : Prop :=
  after.fuses = before.fuses ∨ ∃ b ctr, before.boot.burn = some b ∧ after.fuses = Machine.burnt before.fuses b ctr

/-- A burn in progress only ever goes forward: a higher security version, or a transition of R483. -/
def BurnForward (s : Machine.State) : Prop :=
  match s.dev.boot.burn with
  | none => True
  | some (.svn n) => s.dev.fuses.svn ≤ n
  | some (.lifecycle t) => (Machine.transition s.dev.fuses.lifecycle t).isSome = true

/-- The fuses have stayed, or have moved along a transition of R483; the security version has not fallen. -/
def FusesAdvance (s t : Machine.State) : Prop :=
  (t.dev.fuses.lifecycle = s.dev.fuses.lifecycle ∨
      (Machine.transition s.dev.fuses.lifecycle t.dev.fuses.lifecycle).isSome = true) ∧
    s.dev.fuses.svn ≤ t.dev.fuses.svn

/-- The commands that reset the device, take its power, or end a burn. -/
def resetsOrBurns : Instr → Bool
  | .perstReset _ | .hotReset _ | .functionLevelReset _ | .reset _ | .carrierControllerReset _ | .powerOnReset _
  | .pwrGoodLoss | .thermtrip | .powerDown _ | .burnComplete _ => true
  | _ => false

/-- The commands that write setup words: a write of BAR0, and the two rows that write a whole register of the test unit. -/
def writesSetup : Instr → Bool
  | .registerWrite .. | .start _ | .arm _ => true
  | _ => false

/-- No chunk of any port is ready: each has left and waits for its acknowledgement (R292, R295). -/
def NoneReady (d : Machine.Device) : Prop := ∀ e ∈ d.fab.chunks, e.2.waiting = false ∧ e.2.again = false

/-- Whether an answer is to a chunk of the step in flight, or to an export page under way (R31, R338). -/
def answersOwn (d : Machine.Device) (f : Frame) : Bool := if f.vc = 2 then Machine.ownAnswer d f else !Machine.staleFrame d f

/-- Everything of a device but its queues and their slabs. -/
def SameButQueues (a b : Machine.Device) : Prop := b = { a with queues := b.queues, slabs := b.slabs }

/-- In how many places a tile index lies: ranges of blocks, contexts that hold it, completed tiles (R131). -/
def tilePlaces (d : Machine.Device) (i : Nat) : Nat :=
  ((List.range 128).filter fun g => (Machine.counterOf d g).next ≤ i && i < (Machine.counterOf d g).stop).length +
    (d.work.contexts.filter fun h => h.tile = some i).length +
    ((d.work.issue.map (·.completed)).getD []).count i

/-- The sentence has one triggered entry, which has fired and has neither failed nor completed. -/
def OneEntryRuns (d : Machine.Device) (t : TrigEntry) : Prop :=
  Machine.trigTable d = [t] ∧ (Machine.runOf d 0).fired = true ∧ (Machine.runOf d 0).failed = false ∧
    (Machine.runOf d 0).complete = false

/-- A step is in flight at a member other than member 0, before its STEP_DONE, with no boundary in progress. -/
def StepAtMember (d : Machine.Device) : Bool :=
  Machine.serving d && d.job.inFlight && !d.job.halted && !d.job.aborted && !d.job.doneSent && !Machine.inBoundary d &&
    !Machine.isLead d && d.twin.state = .unpaired && d.twin.taken.isNone && !d.onTaken

/-- A particle of a type comes in with a good CRC, and no copy of it has acted before. -/
def Fresh (d : Machine.Device) (pin : ParticleIn) (p : Machine.Particle) (type : Nat) : Prop :=
  Machine.frameOk d [0] pin.frame = true ∧ Machine.parseParticle pin.frame.payload = some p ∧ p.type = type ∧
    (pin.frame.src, p) ∉ d.fab.seen

/-- The acknowledgement of a particle. -/
def ackOf (d : Machine.Device) (pin : ParticleIn) : Machine.Emission :=
  .frame pin.port.val 0x02 (Machine.answerFrame d pin.frame)

end Sys2Proof
end

