-- ==== Sys2Proof/Certificates/Slice0/Obligations.lean ====
section
/-!
DEFINITION. What is to be proved of the model: the rules of the manual, the invariants of the state, and for every command
where it completes and with which effect. `entry s` is the device of `s` with nothing emitted yet; `out` of the next
state holds what the command emits. A conclusion `exec c s = .next t` says that the command c completes.
-/
set_option Elab.async false
open Sys2Proof Sys2Proof.Machine

/-! ### Steps, queue, reset -/

/-- A step takes the command at the front of the queue and runs it with the queue's rest; an empty queue idles (the model's
choice, notes/assumptions 10). -/
def Obligations.StepTakesFront : Prop :=
  (∀ (c : Instr) (rest : List Instr) (s : State), s.pending = c :: rest → step s = exec c { s with pending := rest }) ∧
    ∀ s : State, s.pending = [] → step s = .next s

/-- No command touches the queue of commands. -/
def Obligations.CommandsKeepQueue : Prop :=
  ∀ (c : Instr) (s t : State), exec c s = .next t → t.pending = s.pending

/-- The state after reset: what R463 discards is gone, only bit 0 of the reset causes is set, and no command waits.
Setup registers with a reset word of their own read it after reset (R507). -/
def Obligations.ResetStateAndWords : Prop :=
  (State.reset.pending = [] ∧ AfterReset State.reset.dev ∧ State.reset.dev.boot.resetCause = 1#7 ∧
     State.reset.dev.job.number = 0 ∧ State.reset.dev.fab.up = 0#8 ∧ State.reset.dev.fab.twinUp = false ∧
     State.reset.dev.cfgLocked = false) ∧
  (let d := State.reset.dev
   regRead d .idDevice = 0x0044190800014810#64 ∧ regRead d .hifPollCycles = 0x4000#64 ∧
     regRead d .cfgStepDoneTimeout = 0x10000000#64 ∧ regRead d .cfgStepStartTimeout = 0x10000000#64 ∧
     regRead d .cfgSteal = 0x300100002#64 ∧ regRead d .cfgSched = 0x0002401000010000#64 ∧
     regRead d .cfgKvWater = 0x0420102010#64 ∧ regRead d .cfgWatchdog = 0x100000#64 ∧
     regRead d .cfgRestart = 0x40003#64 ∧ regRead d .fabRetry = 0x07010000#64 ∧ regRead d .fabVcWeight = 0x136#64 ∧
     regRead d .fabExportCtl = 0x10000000#64 ∧ regRead d .queEventCfg = 0x4000100000#64 ∧
     regRead d .cfgScrub = 0x1001000040#64 ∧ regRead d .fabFrame = 0x02EF000088B5#64 ∧
     regRead d .twnCfg = 0x400001000000#64 ∧ regRead d .tstLbCtl = 0x010000000000#64 ∧
     (∀ n, regRead d (.queTqCfg n) = 0x0000400001000009#64) ∧ regRead d .errCfgLocked = 0#64 ∧
     regRead d .lcsResetCause = 1#64 ∧ regRead d .cfgStepNumber = 0#64 ∧ regRead d .twnStatus = 0#64)

/-! ### Memory and its code -/

/-- The two invariants hold after reset: memory has its canonical form, and no burn runs. -/
def Obligations.InvariantsAtReset : Prop :=
  (MemoryCanonical State.reset) ∧
  (BurnForward State.reset)

/-- Every step of every command keeps the canonical form of device memory and of the spill area. -/
def Obligations.MemoryCanonicalKept : Prop :=
  ∀ s t : State, MemoryCanonical s → step s = .next t → MemoryCanonical t

/-- Bytes written are the bytes read, and every other byte stays. -/
def Obligations.WriteThenRead : Prop :=
  ∀ (m : Memory) (a : Nat) (bs : List Byte) (b : Nat), memWf m = true →
    readByte (writeBytes m a bs) b = if a ≤ b ∧ b < a + bs.length then bs.getD (b - a) 0#8 else readByte m b

/-- What a read finds in a word by its three syndromes (R445): clean, one located symbol, or uncorrectable. One wrong symbol
among the 35 is corrected: the read delivers the bytes as written and the word is written back (R448). Two are always
detected, and an uncorrectable word stays as it is. -/
def Obligations.ReadOutcomes : Prop :=
  (∀ e : List (Nat × Byte), findWord e = .clean ↔ ∀ j, j < 3 → syndrome j e = 0#8) ∧
  (∀ (e : List (Nat × Byte)) (p : Nat) (v : Byte),
    findWord e = .corrected p v ↔ p < 35 ∧ v ≠ 0#8 ∧ ∀ j, j < 3 → syndrome j e = syndrome j [(p, v)]) ∧
  (∀ (p q : Nat) (v w : Byte), p < 35 → q < 35 → p ≠ q → v ≠ 0#8 → w ≠ 0#8 → findWord [(p, v), (q, w)] = .uncorrectable) ∧
  ∀ (m : Mem) (w a n : Nat) (e : List (Nat × Byte)),
    memWf m.bytes = true → w % 32 = 0 → m.armed = none → m.upsets = [(w, e)] → (∀ x ∈ e, x.1 < 35) →
    overlapsWord w a n = true →
    (∀ (p : Nat) (v : Byte), v ≠ 0#8 → e = [(p, v)] →
      touchRange m a n = (readBytes m.bytes a n, { m with upsets := [] }, [.corrected w])) ∧
    (findWord e = .uncorrectable → (touchRange m a n).2 = (m, [.uncorrectable w false]))

/-- A write that meets one word with an error (R447): one that covers the word leaves no error; a narrower one corrects the
word before it merges its bytes; where the read finds the word uncorrectable, the word stays as it is, with its error, and
the other bytes are written. -/
def Obligations.WritesMerge : Prop :=
  ∀ (m : Mem) (w a : Nat) (e : List (Nat × Byte)) (bs : List Byte),
    memWf m.bytes = true → w % 32 = 0 → m.armed = none → m.upsets = [(w, e)] → (∀ x ∈ e, x.1 < 35) →
    overlapsWord w a bs.length = true →
    let r := writeRange m a bs
    let written := writeBytes m.bytes a bs
    (a ≤ w → w + 32 ≤ a + bs.length → r = ({ m with bytes := written, upsets := [] }, [])) ∧
    (¬ (a ≤ w ∧ w + 32 ≤ a + bs.length) →
      (∀ (p : Nat) (v : Byte), v ≠ 0#8 → e = [(p, v)] → r = ({ m with bytes := written, upsets := [] }, [.corrected w])) ∧
      (findWord e = .uncorrectable → r.2 = [.uncorrectable w false] ∧ r.1.upsets = m.upsets ∧
        ∀ b, readByte r.1.bytes b =
          if w ≤ b ∧ b < w + 32 then readByte m.bytes b
          else if a ≤ b ∧ b < a + bs.length then bs.getD (b - a) 0#8 else readByte m.bytes b))

/-! ### Fuses -/

/-- The life-cycle state only ever advances, along the transitions of R483, and the security version never falls (R474,
R481), at every step of every command. -/
def Obligations.FusesOnlyAdvance : Prop :=
  ∀ s t : State, BurnForward s → step s = .next t → BurnForward t ∧ FusesAdvance s t

/-- Apart from resets, power and burns, setup words change by register writes alone (R9, R507), the fuses stay (R474, R481),
CFG_LOCK stays locked (R430, R463), and no cell becomes active again (R24, R413): at every command. A write of LCS_BOOT_CTL with
RESET = 1 is a reset (R462). -/
def Obligations.SetupChangesOnlyByWrites : Prop :=
  ∀ (c : Instr) (s t : State), exec c s = .next t → resetsOrBurns c = false →
    (∀ off part v rom, c = .registerWrite off part v rom → regAt off = some .lcsBootCtl →
      (partWord part v).getLsbD 2 = false) →
    (writesSetup c = false → t.dev.regs = s.dev.regs) ∧ t.dev.fuses = s.dev.fuses ∧
      (s.dev.cfgLocked = true → t.dev.cfgLocked = true) ∧
      ∀ k, t.dev.active.getLsbD k = true → s.dev.active.getLsbD k = true

/-! ### Resets and power -/

/-- Each reset source discards everything that is not fused (R463), records its cause with those that it interrupts (R464), and
keeps or retrains the link as R462 says. The power-on reset and the reset of a life-cycle change do the same. That the causes of
earlier resets go unless the reset interrupts something, and that a burn which the reset interrupts settles as a free value with a
wipe of CAUSE 0, is the model's choice (notes/assumptions 71). -/
def Obligations.ResetsDiscard : Prop :=
  (∀ (s : State) (st : SelfTest) (c : Instr) (bit : Nat) (train : Bool),
    (c = .perstReset st ∧ bit = 1 ∧ train = true ∧ powered s.dev = true) ∨
      (c = .hotReset st ∧ bit = 2 ∧ train = true ∧ powered s.dev = true ∧ pcieTest s.dev = false) ∨
      (c = .functionLevelReset st ∧ bit = 3 ∧ train = false ∧ linked s.dev = true) ∨
      (c = .reset st ∧ bit = 4 ∧ train = false ∧ linked s.dev = true) ∨
      (c = .carrierControllerReset st ∧ bit = 5 ∧ train = true ∧ powered s.dev = true) →
    ∃ t, exec c s = .next t ∧ t.pending = s.pending ∧ AfterReset t.dev ∧ t.dev.out = [] ∧
      t.dev.boot.resetCause = (1#7 <<< bit) ||| (if resetBusy s.dev then s.dev.boot.resetCause else 0#7) ∧
      t.dev.boot.selfTest = st ∧ t.dev.boot.wipe.lifecycle = false ∧
      t.dev.power = { s.dev.power with linkUp := !train && s.dev.power.linkUp, inReset := false } ∧
      FusesSettled s.dev t.dev) ∧
  ∀ (s : State) (st : SelfTest),
    (s.dev.power.pwrGood = true → s.dev.power.inReset = true →
      ∃ t, exec (.powerOnReset st) s = .next t ∧ AfterReset t.dev ∧ t.dev.boot.resetCause = 1#7) ∧
    ∀ l : Lifecycle, powered s.dev = true → s.dev.boot.burn = some (.lifecycle l) →
      ∃ t, exec (.burnComplete st) s = .next t ∧ AfterReset t.dev ∧
        t.dev.boot.resetCause = 0x40#7 |||
          (if resetBusy { s.dev with boot := { s.dev.boot with burn := none } } then s.dev.boot.resetCause else 0#7)

/-- Power-up (R521, R524): PWR_EN with P54V within its range brings the four rails up in order and then PWR_GOOD, with the device
held in reset, unless a thermal trip stands; P54V outside its range leaves it off. The power-on reset then ends with bit 0
alone as its cause (R522).
Loss of power leaves nothing but the fuses (R523), and takes PWR_GOOD and then the rails down in the reverse order (R521); a
thermal trip also pulls THERMTRIP# low, until PWR_EN is deasserted (R524): P54V that leaves its range does not release it.
An island at its limit lowers its clock (R14) and returns to it, but one of PCIE, HBM or FAB never does (R13); nothing else changes.
HUB throttles as the other islands do (R14, R44).
The end of link training serves BAR0 (R510) at the width, the rate and the settings that the device supports (R345), but not
while a PCIe loop-back holds the link (R496). That a value which the device does not support leaves the field as it is, and that the
command carries the host's settings, is the model's choice (notes/assumptions 85). -/
def Obligations.PowerAndIslandsChange : Prop :=
  ((∀ (s : State) (p54v : Bool),
     (s.dev.power.pwrGood = false → s.dev.power.thermtrip = false → p54v = true →
       exec (.pwrEn p54v) s = .next { s with dev := { s.dev with
         out := [.rail 0 true, .rail 1 true, .rail 2 true, .rail 3 true, .pin pinPwrGood true]
         power := { s.dev.power with pwrEn := true, p54v := true, rails := 4, pwrGood := true, inReset := true } } }) ∧
     (s.dev.power.pwrGood = false → s.dev.power.thermtrip = true ∨ p54v = false →
       exec (.pwrEn p54v) s = .next { s with dev := { entry s with
         power := { s.dev.power with pwrEn := true, p54v := p54v } } }) ∧
     (s.dev.power.pwrGood = true →
       exec (.pwrEn p54v) s = .next { s with dev := { entry s with
         power := { s.dev.power with pwrEn := true, p54v := true } } })) ∧
   ∀ (s : State) (st : SelfTest), s.dev.power.pwrGood = true → s.dev.power.inReset = true →
     ∃ t, exec (.powerOnReset st) s = .next t ∧ t.pending = s.pending ∧ AfterReset t.dev ∧ t.dev.boot.resetCause = 1#7 ∧
       t.dev.boot.selfTest = st ∧ t.dev.power = { s.dev.power with linkUp := false, inReset := false } ∧
       t.dev.fuses = s.dev.fuses) ∧
  (∀ s : State,
     let down : List Emission := [.pin pinPwrGood false, .rail 3 false, .rail 2 false, .rail 1 false, .rail 0 false]
     let off : Power :=
       { s.dev.power with pwrGood := false, rails := 0, inReset := false, linkUp := false, throttled := [] }
     let released : List Emission := if s.dev.power.thermtrip then [.pin pinThermtrip true] else []
     let lost := fun (c : Instr) (out : List Emission) (power : Power) =>
       ∃ t, exec c s = .next t ∧ t.pending = s.pending ∧ AfterReset t.dev ∧ FusesSettled s.dev t.dev ∧ t.dev.out = out ∧
         t.dev.power = power
     (s.dev.power.pwrGood = true →
       lost .pwrGoodLoss down off ∧
       lost .thermtrip (down ++ [.pin pinThermtrip false]) { off with thermtrip := true } ∧
       lost (.powerDown true) (down ++ released) { off with pwrEn := false, thermtrip := false } ∧
       lost (.powerDown false) down { off with p54v := false }) ∧
     (s.dev.power.pwrGood = false →
       exec .pwrGoodLoss s = .next { s with dev := entry s } ∧ exec .thermtrip s = .next { s with dev := entry s } ∧
       exec (.powerDown true) s = .next { s with dev := { s.dev with
         out := released, power := { s.dev.power with pwrEn := false, thermtrip := false } } } ∧
       exec (.powerDown false) s = .next { s with dev := { entry s with power := { s.dev.power with p54v := false } } })) ∧
  (∀ (s : State) (i : Island),
     (s.dev.power.pwrGood = true → throttles i = true → i ∉ s.dev.power.throttled →
       exec (.thermalLimit i) s = .next { s with dev := { entry s with
         power := { s.dev.power with throttled := s.dev.power.throttled ++ [i] } } }) ∧
     (throttles i = false → exec (.thermalLimit i) s = .next { s with dev := entry s }) ∧
     exec (.thermalLimitCleared i) s = .next { s with dev := { entry s with
       power := { s.dev.power with throttled := s.dev.power.throttled.filter (· ≠ i) } } }) ∧
  (∀ (s : State) (setup : Option LinkSetup), powered s.dev = true →
     (pcieTest s.dev = true → exec (.linkTrainingEnd setup) s = .next { s with dev := entry s }) ∧
     (pcieTest s.dev = false → s.dev.pcie.pending = 0#64 → ∃ p : Pcie,
       exec (.linkTrainingEnd setup) s = .next { s with dev := { entry s with
         power := { s.dev.power with linkUp := true }, pcie := p } } ∧
       (setup = none → p = s.dev.pcie) ∧
       ∀ x, setup = some x →
         p.width = (if x.width ∈ [16, 8, 4] then x.width else s.dev.pcie.width) ∧
         p.rate = (if x.rate ∈ linkRates then x.rate else s.dev.pcie.rate) ∧
         (x.host = none → p.host = s.dev.pcie.host) ∧
         ∀ h, x.host = some h → p.host = { h with
           maxPayload := if h.maxPayload ∈ payloadSizes then h.maxPayload else s.dev.pcie.host.maxPayload
           maxRead := if h.maxRead ∈ readSizes then h.maxRead else s.dev.pcie.host.maxRead
           bar2Log := if 30 ≤ h.bar2Log ∧ h.bar2Log ≤ 36 then h.bar2Log else s.dev.pcie.host.bar2Log }))

/-! ### Boot -/

/-- The end of the hub wipe lets firmware load (R454, R465). A part of the rest of the wipe ends, or all that are left; with the
last of them the self-tests show (R454, R456, R504). FAIL bits stand for words that read back uncorrectable, and corrected
words count (R449, R453, R491), each with its event record. A held CFG_LOCK is another case (R455). That one WIPE_DONE ends the
parts that it names, and that the self-tests show only with the last part, is the model's choice (notes/assumptions 72). -/
def Obligations.WipeEnds : Prop :=
  let counted := fun (k old : Nat) => if k = 0 then old else satAdd 16 old k
  let total := fun (k old : Nat) => if k = 0 then old else satAdd48 old k
  (∀ (s : State) (bad : Found) (corrected : List Nat), powered s.dev = true → s.dev.boot.wipe.hubDone = false →
    let k := (corrected.filter inHub).length
    ∃ t, exec (.hubDone bad corrected) s = .next t ∧ t.pending = s.pending ∧ t.dev.mem.bytes = s.dev.mem.bytes ∧
      t.dev.boot = { s.dev.boot with
        phase := if s.dev.boot.phase = .wipe then .waitFw else s.dev.boot.phase
        wipe := { s.dev.boot.wipe with hubDone := true, hubFail := bad.any fun e => inHub e.1 } } ∧
      t.dev.errs = { s.dev.errs with
        ceHub := counted k s.dev.errs.ceHub, corr := total k s.dev.errs.corr } ∧
      (bad = [] → t.dev.mem = s.dev.mem) ∧
      (bad = [] → corrected = [] → t.dev.queues = s.dev.queues ∧ t.dev.out = []) ∧
      ∀ a, corrected = [a] → inHub a = true → (queueOf s.dev 128).gap = 0 → queueFull s.dev 128 = false →
        (queueOf s.dev 128).cut = false →
        (queueOf t.dev 128).words.map (·.data) = (queueOf s.dev 128).words.map (·.data) ++
          eventWords s.dev .corrected 3 0xFF 0xF s.dev.job.number (wordAddr a)) ∧
  ∀ (s : State) (bb bh : Found) (cb ch : List Nat) (n : Nat) (part : Option WipePart), powered s.dev = true →
    s.dev.boot.wipe.hubDone = true ∨ part = some .block ∨ part = some .cellLocal →
    wipeDone s.dev = false → s.dev.cfgHeld = false →
    let w := s.dev.boot.wipe
    let ends := fun (p : WipePart) => part = none ∨ part = some p
    let blocks := ends .block ∧ w.blockDone = false
    let hbm := ends .hbm ∧ w.hbmDone = false
    let kb := if blocks then (cb.filter inBlock).length else 0
    let kh := if hbm then (ch.filter inHbm).length else 0
    ∃ t, exec (.wipeDone bb bh cb ch n part) s = .next t ∧ t.pending = s.pending ∧ t.dev.mem.bytes = s.dev.mem.bytes ∧
      t.dev.boot = { s.dev.boot with
        selfDone := s.dev.boot.selfDone || wipeDone t.dev
        wipe := { w with
          blockDone := w.blockDone || decide (ends .block), hbmDone := w.hbmDone || decide (ends .hbm)
          localDone := w.localDone || decide (ends .cellLocal)
          blockFail := if blocks then bb.any (fun e => inBlock e.1) else w.blockFail
          hbmFail := if hbm then bh.any (fun e => inHbm e.1) else w.hbmFail
          cycles := if wipeDone t.dev then n % 2 ^ 32 else w.cycles } } ∧
      t.dev.errs = { s.dev.errs with
        ceBlock := counted kb s.dev.errs.ceBlock, ceHbm := counted kh s.dev.errs.ceHbm
        corr := total (kb + kh) s.dev.errs.corr } ∧
      (part = none → wipeDone t.dev = true) ∧ (bb = [] → bh = [] → t.dev.mem = s.dev.mem)

/-- LOAD in WAIT_FW of an image whose manifest is right, whose key the life-cycle state accepts and whose SVN is not rolled
back (R471): with a good signature and good segment digests it goes on to VERIFYING with the image's measurement; with a bad
signature, or a bad digest, it ends with its ERROR, and the firmware area is zero. That the count of loads stops at 0xFFFFFFFF, and
that an uncorrectable word met at the digest check counts as a bad digest, is the model's choice (notes/assumptions 70). -/
def Obligations.LoadVerifies : Prop :=
  ∀ (s : State) (rd : LoadRead) (m : List Byte) (bs : List (List Byte)), linked s.dev = true →
    s.dev.boot.phase = .waitFw → s.dev.fuses.lifecycle ≠ .scrap → rd.manifest = some m → rd.segments = some bs →
    manifestOk m (regField s.dev .lcsFwLen 0 26) = true → keyAccepted s.dev.fuses.lifecycle (manifestKey m) = true →
    s.dev.fuses.svn ≤ manifestSvn m →
    let segs := manifestSegments m
    let good := (checkSegments segs (copySegments (segs.zip (bs ++ List.replicate segs.length [])) (entry s))).1
    ∃ t, exec (.load rd) s = .next t ∧ t.dev.regs = s.dev.regs ∧ t.dev.fuses = s.dev.fuses ∧
      (if signatureOk m && good then
        t.dev.boot.phase = .verifying ∧ t.dev.boot.loads = s.dev.boot.loads ∧
          t.dev.boot.loading = some { measurement := shake256_512 (m.take (manifestLen m)), svn := manifestSvn m }
      else
        t.dev.boot.phase = .waitFw ∧ t.dev.boot.loading = none ∧
          t.dev.boot.error = (if signatureOk m then 0x8 else 0x6) ∧
          t.dev.boot.loads = min (s.dev.boot.loads + 1) 0xFFFFFFFF ∧
          ∀ a, hubBase ≤ a → a < hubBase + fwAreaSize → readByte t.dev.mem.bytes a = 0#8)

/-- Firmware that runs is measured: its measurement, its SVN, and the keys (R475) and chain (R476) become current. -/
def Obligations.FirmwareRuns : Prop :=
  ∀ (s : State) (l : Loading), s.dev.boot.loading = some l → powered s.dev = true → s.dev.boot.phase = .verifying →
    s.dev.cfgHeld = false →
    ∃ b : Boot, exec .firmwareRunning s = .next { s with dev := { entry s with boot := b } } ∧ b.phase = .running ∧
      b.loading = none ∧ b.measurement = l.measurement ∧ b.runSvn = l.svn ∧
      (∀ c, classByte s.dev.fuses.lifecycle = some c →
        b.aliasSeed = aliasSeedOf s.dev.fuses.secret c l.measurement ∧
          b.chain = chainOf s.dev.fuses c l.measurement l.svn) ∧
      (classByte s.dev.fuses.lifecycle = none → b.aliasSeed = s.dev.boot.aliasSeed ∧ b.chain = s.dev.boot.chain)

/-- SVN_COMMIT in RUNNING burns the running SVN where it is above the fused one, and is refused in other phases with ERROR
PHASE; the new value appears when the burn completes (R474).
A life-cycle request in WAIT_FW: a transition of R483 that needs no token, or whose token holds, burns; one whose token
does not hold sets ERROR TOKEN, and any other request ERROR LC_STATE. The burn ends in a full reset with cause bit 6 whose
wipe has CAUSE = 1 (R484). -/
def Obligations.FusesBurn : Prop :=
  ((∀ s : State, linked s.dev = true → s.dev.boot.phase = .running → s.dev.fuses.svn < s.dev.boot.runSvn →
     s.dev.boot.burn = none →
     exec .svnCommit s = .next { s with dev := { entry s with
       boot := { s.dev.boot with burn := some (.svn s.dev.boot.runSvn) } } }) ∧
   (∀ s : State, linked s.dev = true → s.dev.boot.phase = .running → s.dev.boot.runSvn ≤ s.dev.fuses.svn →
     exec .svnCommit s = .next { s with dev := entry s }) ∧
   (∀ s : State, linked s.dev = true → s.dev.boot.phase ≠ .running →
     exec .svnCommit s = .next { s with dev := { entry s with boot := { s.dev.boot with error := 0x9 } } }) ∧
   ∀ (s : State) (st : SelfTest) (n : Nat), powered s.dev = true → s.dev.boot.burn = some (.svn n) →
     ∃ k, exec (.burnComplete st) s = .next { s with dev := { entry s with
       fuses := { s.dev.fuses with svn := n }, boot := { s.dev.boot with burn := none }, freeCtr := k } }) ∧
  ((∀ (s : State) (code : BitVec 3), linked s.dev = true → s.dev.boot.phase = .waitFw → s.dev.boot.burn = none →
     exec (.lcReq code) s = .next { s with dev := { entry s with boot :=
       (match (lifecycleOf code.toNat).bind (fun t => (transition s.dev.fuses.lifecycle t).map (fun k => (t, k))) with
        | none => { s.dev.boot with error := 0xB }
        | some (t, none) => { s.dev.boot with burn := some (.lifecycle t) }
        | some (t, some key) =>
          if tokenOk (entry s) t key then { s.dev.boot with burn := some (.lifecycle t) }
          else { s.dev.boot with error := 0xC }) } }) ∧
   ∀ (s : State) (st : SelfTest) (l : Lifecycle), powered s.dev = true → s.dev.boot.burn = some (.lifecycle l) →
     ∃ t, exec (.burnComplete st) s = .next t ∧ t.pending = s.pending ∧ AfterReset t.dev ∧
       t.dev.fuses.lifecycle = l ∧ t.dev.fuses.svn = s.dev.fuses.svn ∧ t.dev.boot.resetCause.getLsbD 6 = true ∧
       t.dev.boot.wipe.lifecycle = true)

/-- REPORT in RUNNING writes the signed report of 512 bytes to LCS_REPORT_DST, or waits for the end of a boundary (R479); in a
life-cycle state without an alias key it writes nothing and sets ERROR STATE (R477). In other phases it sets ERROR PHASE (R479). That
PHASE comes before STATE where both apply, and that SCRAP acts as BLANK, is the model's choice (notes/assumptions 70). -/
def Obligations.ReportWritten : Prop :=
  ∀ s : State, linked s.dev = true →
    (s.dev.boot.phase = .running → (classByte s.dev.fuses.lifecycle).isSome = true → inBoundary s.dev = false →
      exec .report s = .next { s with dev := { s.dev with
        out := [.hostWrite (regField s.dev .lcsReportDst 9 55 * 512) (reportBytes (entry s))] } } ∧
        (reportBytes (entry s)).length = 512) ∧
    (s.dev.boot.phase = .running → (classByte s.dev.fuses.lifecycle).isSome = true → inBoundary s.dev = true →
      exec .report s = .next { s with dev := { entry s with boot := { s.dev.boot with reportPending := true } } }) ∧
    (s.dev.boot.phase = .running → classByte s.dev.fuses.lifecycle = none →
      exec .report s = .next { s with dev := { entry s with boot := { s.dev.boot with error := 0xA } } }) ∧
    (s.dev.boot.phase ≠ .running →
      exec .report s = .next { s with dev := { entry s with boot := { s.dev.boot with error := 0x9 } } })

/-! ### Test -/

/-- A loop-back starts only when the wipe is done, CFG_LOCK has not been written and none runs (R493); START then clears the
counts (R503). Any other START sets REFUSED; one written with ABORT while a loop-back runs also ends that one (that the START
meets the state before the ABORT is the model's choice, notes/assumptions 118).
A loop-back's phases (R495, R497, R502): lock, no lock in time, the end of the run phase with its verdict and counts, and
an abort. Accesses that waited for its link are made at its end (R496). A CFG_LOCK that waits is another case (R493). -/
def Obligations.LoopbackRuns : Prop :=
  (∀ (s : State) (v : W64), linked s.dev = true →
     let target := bitsOf v.toNat 4 3
     let index := bitsOf v.toNat 8 4
     let depth := bitsOf v.toNat 12 2
     let starts := wipeDone s.dev && !lockWritten s.dev && !s.dev.test.busy && loopbackExists target index depth &&
       decide (bitsOf v.toNat 16 32 ≠ 0)
     (starts = true →
       ∃ t, exec (.start v) s = .next t ∧ t.dev.test.busy = true ∧ t.dev.test.done = false ∧ t.dev.test.lock = false ∧
         t.dev.test.units = 0 ∧ t.dev.test.errors = 0 ∧ t.dev.test.corr = 0 ∧ t.dev.test.refused = s.dev.test.refused ∧
         t.dev.test.target = target ∧ t.dev.test.index = index ∧ t.dev.test.depth = depth ∧
         t.dev.power.linkUp = (s.dev.power.linkUp && target != 0) ∧ t.dev.mem = s.dev.mem ∧ t.dev.errs = s.dev.errs ∧
         t.dev.boot = s.dev.boot ∧ t.dev.queues = s.dev.queues ∧
         (∀ r, r ≠ .tstLbCtl → regGet t.dev r = regGet s.dev r)) ∧
     (starts = false → s.dev.test.busy = false ∨ v.getLsbD 1 = false →
       ∃ t, exec (.start v) s = .next t ∧ t.dev.test = { s.dev.test with refused := true } ∧
         t.dev.power = s.dev.power ∧ t.dev.fab = s.dev.fab ∧ (∀ r, r ≠ .tstLbCtl → regGet t.dev r = regGet s.dev r)) ∧
     (s.dev.test.busy = true → v.getLsbD 1 = true → s.dev.test.waiting = [] → s.dev.cfgHeld = false →
       ∃ t, exec (.start v) s = .next t ∧ t.dev.test.refused = true ∧ t.dev.test.aborted = true ∧
         t.dev.test.busy = false ∧ t.dev.test.done = true ∧ t.dev.test.pass = false ∧ t.dev.power = s.dev.power)) ∧
  (∀ s : State, s.dev.test.busy = true → s.dev.cfgHeld = false →
     let served := fun (d : Device) => s.dev.test.waiting.foldl (fun d w => bar2Do w.1 (noteFound w.2 d)) d
     (s.dev.test.lock = false →
       exec .loopbackLock s = .next { s with dev := { entry s with test := { s.dev.test with lock := true } } } ∧
       exec .lockLimit s = .next { s with dev := (served { entry s with test := { s.dev.test with
         nolock := true, pass := false, busy := false, done := true, waiting := [] } }) }) ∧
     (s.dev.test.lock = true → s.dev.test.waiting = [] → ∀ u e k : Nat, ∃ t, exec (.runPhaseEnd u e k) s = .next t ∧
       t = { s with dev := { entry s with test := t.dev.test } } ∧ t.dev.test.busy = false ∧ t.dev.test.done = true ∧
       (t.dev.test.pass = true ↔ t.dev.test.errors = 0) ∧
       (¬ (s.dev.test.target = 0 ∧ s.dev.test.depth = 2) →
         t.dev.test.units = max s.dev.test.units (min u 0xFFFFFFFF) ∧
         t.dev.test.errors = max s.dev.test.errors (min e 0xFFFFFFFF)) ∧
       (s.dev.test.target = 0 → s.dev.test.depth = 2 → t.dev.test.units = 0 ∧ t.dev.test.errors = 0)) ∧
     (linked s.dev = true → s.dev.test.waiting = [] → ∃ t, exec .abort s = .next t ∧
       t = { s with dev := { entry s with test := t.dev.test, freeCtr := t.dev.freeCtr } } ∧
       t.dev.test.busy = false ∧ t.dev.test.done = true ∧ t.dev.test.aborted = true ∧ t.dev.test.pass = false ∧
       (s.dev.test.lock = false → t.dev.test.units = s.dev.test.units ∧ t.dev.test.errors = s.dev.test.errors)))

/-- TST_INJECT arms one error in TEST and RETURN (R500): one symbol of a word, two symbols, or a residue mismatch; the earlier
one is dropped. In every other state the write is ignored. -/
def Obligations.InjectionArms : Prop :=
  ∀ (s : State) (v : W64), linked s.dev = true →
    (injectOpen s.dev = true → bitsOf v.toNat 48 3 < 2 →
      ∃ t e, exec (.arm v) s = .next t ∧
        t.dev.mem = { s.dev.mem with armed := some (wordAddr (bitsOf v.toNat 0 48), e) } ∧
        e.length = bitsOf v.toNat 48 3 + 1 ∧ (∀ x ∈ e, x.1 < 35 ∧ x.2 ≠ 0#8) ∧ (e.map (·.1)).Nodup ∧
        t.dev.test = { s.dev.test with residue := none } ∧ t.dev.power = s.dev.power ∧ t.dev.errs = s.dev.errs) ∧
    (injectOpen s.dev = true → bitsOf v.toNat 48 3 = 2 →
      ∃ t, exec (.arm v) s = .next t ∧ t.dev.mem = { s.dev.mem with armed := none } ∧
        t.dev.test = { s.dev.test with residue := some (bitsOf v.toNat 0 12) }) ∧
    (injectOpen s.dev = false → exec (.arm v) s = .next { s with dev := entry s })

/-! ### Registers -/

/-- CLEAR returns a count to 0, with what belongs to it, and changes nothing else (R85, R136, R181, R218, R283, R318, R328, R344,
R399, R432, R433, R458). -/
def Obligations.CountsClear : Prop :=
  ∀ s : State, linked s.dev = true →
    let e := s.dev.errs
    let becomes := fun (x : Errs) => (Host.Outcome.next { s with dev := { entry s with errs := x } } :
      Host.Outcome State Fault Refusal)
    exec .errBlkUnderflowCntClear s = becomes { e with underflow := 0 } ∧
    exec .errBlkNonfiniteCntClear s = becomes { e with nonfinite := 0, nonfiniteLoc := none } ∧
    exec .errAttnEmptyCntClear s = becomes { e with emptyRows := 0 } ∧
    exec .errKvRewriteCntClear s = becomes { e with rewrites := 0 } ∧
    exec .errSampleNofiniteClear s = becomes { e with nofinite := 0 } ∧
    exec .errExpertDropCntClear s = becomes { e with drops := 0 } ∧
    exec .errStaleDiscardClear s = becomes { e with stale := 0 } ∧
    exec .errCorrCntClear s = becomes { e with corr := 0 } ∧
    exec .errMemCeClear s = becomes { e with ceBlock := 0, ceHub := 0, ceHbm := 0 } ∧
    exec .errMemUeClear s = becomes { e with ue := 0, ueAddr := none } ∧
    exec .errQueParityClear s = becomes { e with parityWords := 0, parityPointer := 0 } ∧
    exec .fabXferStatClear s = becomes { e with resends := 0, discards := 0, refusals := 0 } ∧
    exec .fabExportStatClear s = becomes { e with delivered := 0, exportFailed := 0 } ∧
    ∀ r : Fin 8, ∃ t, exec (.tileStatClear r) s = .next t ∧ t = { s with dev := { entry s with errs := t.dev.errs } } ∧
      t.dev.errs = { e with tileStat := t.dev.errs.tileStat } ∧ regRead t.dev (.rgnTileStat r) = 0#64 ∧
      ∀ q : Fin 8, q ≠ r → regRead t.dev (.rgnTileStat q) = regRead s.dev (.rgnTileStat q)

/-- A write to a register with RWL fields (R9, R510): until CFG_LOCK its RWL and RW fields take the bits that the access covers;
after it the RWL fields keep, ERR_CFG_LOCKED says so, and RW fields still take the write. A register that has RW fields and no
RWL field takes the write at any time; the test registers, whose writes are commands too, are other cases. No other register
changes. -/
def Obligations.LockedFieldsKeep : Prop :=
  ∀ (s : State) (off : Nat) (r : RegName) (part : RegPart) (v : W64) (rom : RomInput), linked s.dev = true →
    regAt off = some r →
    let m := BitVec.ofNat 64 (rwlMask r &&& partMask part)
    let k := BitVec.ofNat 64 (rwMask r &&& partMask part)
    let takes := fun (x : W64) => (regGet s.dev r &&& ~~~x) ||| (partWord part v &&& x)
    (rwlMask r &&& partMask part ≠ 0 →
      ∃ t, exec (.registerWrite off part v rom) s = .next t ∧ t.pending = s.pending ∧
        t = { s with dev := { entry s with regs := t.dev.regs, errs := t.dev.errs } } ∧
        (∀ q, q ≠ r → regGet t.dev q = regGet s.dev q) ∧
        (s.dev.cfgLocked = false → t.dev.errs = s.dev.errs ∧ regGet t.dev r = takes (m ||| k)) ∧
        (s.dev.cfgLocked = true → regGet t.dev r = takes k ∧ t.dev.errs = { s.dev.errs with writeIgnored := true })) ∧
    (rwMask r ≠ 0 → rwlMask r = 0 → r ≠ .tstLbCtl → r ≠ .tstInject →
      ∃ t, exec (.registerWrite off part v rom) s = .next t ∧
        t = { s with dev := { entry s with regs := t.dev.regs } } ∧
        (∀ q, q ≠ r → regGet t.dev q = regGet s.dev q) ∧ regGet t.dev r = takes k)

/-- CFG_LOCK with LOCK = 1, once firmware runs, the wipe is done and no loop-back runs: it locks where every check passes, and
the status page's unused bytes are written as zero (R350); else it records a refusal with the lowest offset among the registers of
the failing checks (R430, R511). That those bytes are written once, at the lock, is the model's choice (notes/assumptions 105).
A CFG_LOCK written before firmware runs or before the wipe is done is held (R466, R455); its checks run when both hold, or
still later, at the end of a loop-back (R493). -/
def Obligations.LockChecks : Prop :=
  (∀ s : State, linked s.dev = true → lockWritten s.dev = false → s.dev.boot.phase = .running → wipeDone s.dev = true →
    s.dev.test.busy = false →
    (lockFailures s.dev = [] → exec .cfgLock s = .next { s with dev := { s.dev with
      out := [.hostWrite (statusBase s.dev + 1552) (List.replicate 2544 0#8)], cfgLocked := true, cfgHeld := false } }) ∧
    ∀ off, (lockFailures s.dev).min? = some off →
      exec .cfgLock s = .next { s with dev := { entry s with
        cfgHeld := false, errs := { s.dev.errs with refused := true, offset := off } } }) ∧
  (∀ s : State, linked s.dev = true → lockWritten s.dev = false → s.dev.boot.phase ≠ .running ∨ wipeDone s.dev = false →
    exec .cfgLock s = .next { s with dev := { entry s with cfgHeld := true } }) ∧
  ∀ (s : State) (c : Instr), s.dev.cfgHeld = true → s.dev.cfgLocked = false → powered s.dev = true →
    (c = .firmwareRunning ∧ s.dev.boot.loading.isSome = true ∧ s.dev.boot.phase = .verifying ∧ wipeDone s.dev = true) ∨
      (∃ bf hf kb kh n, c = .wipeDone bf hf kb kh n ∧ s.dev.boot.wipe.hubDone = true ∧ wipeDone s.dev = false ∧
        s.dev.boot.phase = .running) →
    ∃ t, exec c s = .next t ∧ t.dev.boot.phase = .running ∧ wipeDone t.dev = true ∧
      (s.dev.test.busy = true → t.dev.cfgHeld = true ∧ t.dev.cfgLocked = false) ∧
      (s.dev.test.busy = false → t.dev.cfgHeld = false ∧ (t.dev.cfgLocked = true ↔ lockFailures t.dev = []) ∧
        (lockFailures t.dev ≠ [] → t.dev.errs.refused = true))

/-- A read of CFG_STEP_DIGEST0 takes the own role's digest and its step into the latch and returns the latch's first word
(R515).
Bits written as 1 to HIF_SQ_ERR restart their rings (R355); an access to BAR0 of another size or alignment is ignored,
sets HIF_ERR.BAR0_SIZE and its message, and reads 0 in every byte (R346). An aligned read of 8 or 4 bytes returns a register's
bytes, those of the chain where it reads LCS_CERT_WINDOW (R514), and 0 at an unassigned offset, and changes nothing; the
registers whose read has an effect of its own are other cases. An aligned write is REGISTER_WRITE's matter. -/
def Obligations.HostAccessEvents : Prop :=
  (∀ (s : State) (part : RegPart), linked s.dev = true → s.dev.onTaken = false →
     exec (.digestLatch part) s = .next { s with dev := { s.dev with
       out := [.readData (accessBytes part (wordOf (slice s.dev.role.digest 0 8))) false]
       job := { s.dev.job with latch := s.dev.role.digest, latchStep := s.dev.role.digestStep } } }) ∧
  (∀ s : State, linked s.dev = true →
     (∀ v : W64, exec (.ringRestart v) s = .next { s with dev := { entry s with
       hif := { s.dev.hif with sqErr := s.dev.hif.sqErr &&& ~~~v } } }) ∧
     (∀ (off size : Nat) (isWrite : Bool) (pool : PoolRead), ¬ (size = 8 ∧ off % 8 = 0) → ¬ (size = 4 ∧ off % 4 = 0) →
       exec (.bar0SizeAccess off size isWrite pool) s = .next { s with dev :=
         (emitAll (if isWrite then [] else [.readData (List.replicate size 0#8) false])
           (msix 0 { entry s with hif := { s.dev.hif with err := s.dev.hif.err ||| 1#3 } })) }) ∧
     ∀ (off size : Nat) (pool : PoolRead), (size = 8 ∧ off % 8 = 0) ∨ (size = 4 ∧ off % 4 = 0) →
       exec (.bar0SizeAccess off size true pool) s = .next { s with dev := entry s } ∧
       let answers := fun (bs : List Byte) =>
         exec (.bar0SizeAccess off size false pool) s = .next { s with dev := { s.dev with out := [.readData bs false] } }
       (∀ r, regAt (off / 8 * 8) = some r →
         r ∉ [.cfgStepDigest 0, .queEventWord, .queEventInfo, .tstLbStatus, .tstLbResult] →
         off < certWindow ∨ certWindow + 0x4000 ≤ off →
         answers (slice (bytesOfNat 8 (regRead s.dev r).toNat) (off % 8) size)) ∧
       (certWindow ≤ off → off < certWindow + 0x4000 → regAt (off / 8 * 8) = none →
         answers ((List.range size).map fun k => certByte s.dev (off - certWindow + k))) ∧
       (regAt (off / 8 * 8) = none → off < certWindow ∨ certWindow + 0x4000 ≤ off → answers (List.replicate size 0#8)))

/-- A BAR2 access inside wiped memory without errors (R347): a read delivers what the memory holds where firmware keeps
nothing and the step in flight writes nothing; a write of HBM or block memory changes exactly its bytes, and beside a step
in flight they are noted as raced; a write into the firmware work area or a directory is undefined behaviour, on which the
model stops (R534, R3). An access that needs a die-to-die link under test waits until the test ends (R496). -/
def Obligations.Bar2Reaches : Prop :=
  ∀ (s : State) (off : Nat), linked s.dev = true → ErrorFree s.dev → memWf s.dev.mem.bytes = true →
    let a := bar2Base s.dev + off
    let open' := fun (op : Bar2Op) => s.dev.test.waiting = [] ∧ linkTaken op s.dev = false
    (∀ n : Nat, (∀ k, k < n → bar2Reaches s.dev (a + k) = true ∧ memoryDone s.dev (a + k) = true ∧
        firmwareByte s.dev (a + k) = none) → meetsSpans (stepWrites s.dev) a n = false → open' (.read off n) →
      exec (.bar2Access (.read off n)) s = .next { s with dev := { s.dev with
        out := [.readData (readBytes s.dev.mem.bytes a n) false] } }) ∧
    (∀ bs : List Byte, bs ≠ [] → (∀ k, k < bs.length → bar2Writes s.dev (a + k) = true ∧
        firmwareOwned s.dev (a + k) = false) → open' (.write off bs) →
      meetsSpans (stepWrites s.dev ++ s.dev.work.read) a bs.length = false →
      exec (.bar2Access (.write off bs)) s = .next { s with dev := { noteRaced a bs.length (entry s) with
        mem := { s.dev.mem with bytes := writeBytes s.dev.mem.bytes a bs } } }) ∧
    (∀ (bs : List Byte) (k : Nat), k < bs.length → firmwareOwned s.dev (a + k) = true →
      exec (.bar2Access (.write off bs)) s = .fault .undefinedHostWrite) ∧
    ∀ found : Found,
      let waits := fun (op : Bar2Op) => exec (.bar2Access op found) s = .next { s with dev := { entry s with
        test := { s.dev.test with waiting := s.dev.test.waiting ++ [(op, found)] } } }
      (∀ n, linkTaken (.read off n) s.dev = true → waits (.read off n)) ∧
      ∀ bs, linkTaken (.write off bs) s.dev = true → (∀ k, k < bs.length → firmwareOwned s.dev (a + k) = false) →
        waits (.write off bs)

/-! ### SPDM -/

/-- The exchange of version, capabilities and algorithms (R480): each request in its order is answered and joins the
transcript, as it came where its bytes came; GET_VERSION begins it again.
After the negotiation slot 0 is served (R480): its digest, portions of its chain, and measurement blocks, which wait
while a boundary is in progress; a signed request for another slot has no key to sign with. -/
def Obligations.SpdmAnswers : Prop :=
  (∀ s : State, spdmServes s.dev = true →
     (∃ q r, exec .getVersion s = .next { s with dev := { s.dev with
         out := [.doe r], boot := { s.dev.boot with spdm := .version, transcript := q ++ r, measured := [] } } }) ∧
     (∀ msg : List Byte, s.dev.boot.spdm ≠ .start →
       ∃ q r, exec (.getCapabilities msg) s = .next { s with dev := { s.dev with
         out := [.doe r], freeCtr := s.dev.freeCtr + 1
         boot := { s.dev.boot with
           spdm := .capabilities, transcript := s.dev.boot.transcript ++ q ++ r, measured := [] } } } ∧
       (msg ≠ [] → q = msg) ∧ r.take 2 = [0x13#8, 0x61#8] ∧ slice r 8 4 = bytesOfNat 4 spdmFlags) ∧
     (s.dev.fuses.lifecycle ≠ .scrap → s.dev.boot.spdm ≠ .start → s.dev.boot.spdm ≠ .version → ∀ msg : List Byte,
       (∀ a h : Bool, (a || h) = true →
         ∃ q, exec (.negotiateAlgorithms a h msg) s = .next { s with dev := { s.dev with
           out := [.doe (algorithms a h)]
           boot := { s.dev.boot with
             spdm := .negotiated, transcript := s.dev.boot.transcript ++ q ++ algorithms a h, measured := [] } } } ∧
           (msg ≠ [] → q = msg)) ∧
       exec (.negotiateAlgorithms false false msg) s = .next { s with dev := { s.dev with
         out := [.doe [0x13#8, 0x7F#8, 0x01#8, 0#8]] } }) ∧
     ∀ code : Nat, code ∉ spdmCodes → exec (.unsupportedRequest code) s = .next { s with dev := { s.dev with
       out := [.doe [0x13#8, 0x7F#8, 0x07#8, BitVec.ofNat 8 code]] } }) ∧
  (∀ s : State, spdmServes s.dev = true → s.dev.fuses.lifecycle ≠ .scrap → s.dev.boot.spdm = .negotiated →
     let c := s.dev.boot.chain
     (exec .getDigests s = .next { s with dev := { s.dev with
       out := [.doe ([0x13#8, 0x01#8, 1#8, BitVec.ofNat 8 (ofBit (!c.isEmpty))] ++ (if c.isEmpty then [] else sha3_512 c))]
       boot := { s.dev.boot with measured := [] } } }) ∧
     (∀ off len : Nat, off < c.length →
       let part := slice c off (min len (spdmMax - 8))
       exec (.getCertificate 0 off len) s = .next { s with dev := { s.dev with
         out := [.doe ([0x13#8, 0x02#8, 0#8, 0#8] ++ bytesOfNat 2 part.length ++
           bytesOfNat 2 (c.length - off - part.length) ++ part)]
         boot := { s.dev.boot with measured := [] } } }) ∧
     ∀ (i : Nat) (signed : Bool) (nonce msg : List Byte), (signed = true → s.dev.boot.aliasSeed ≠ []) →
       let m := messageBytes msg (measurementsRequest i signed nonce)
       let c := Instr.getMeasurements i signed nonce msg
       (inBoundary s.dev = false → 1 ≤ i → i ≤ 5 → (signed = true → field m 36 1 % 16 = 0) →
         ∃ t r, exec c s = .next t ∧ t.dev.out = [.doe r] ∧
           r.take 8 = [0x13#8, 0x60#8, 0#8, 0#8, 1#8] ++ bytesOfNat 3 71 ∧
           slice r 8 71 = measurementBlock (entry s) i ∧ slice r 113 8 = requesterContext signed m ∧
           t.dev.boot.transcript = s.dev.boot.transcript ∧
           t = { s with dev := { s.dev with out := t.dev.out, freeCtr := t.dev.freeCtr, boot := t.dev.boot } }) ∧
       (inBoundary s.dev = false → signed = true → field m 36 1 % 16 ≠ 0 →
         exec c s = .next { s with dev := { s.dev with out := [.doe [0x13#8, 0x7F#8, 0x01#8, 0#8]] } }) ∧
       (inBoundary s.dev = true → exec c s = .next { s with dev := { entry s with
         boot := { s.dev.boot with measWaiting := some (i, signed, m) } } }))

/-! ### Queues -/

/-- A whole packet of at most PKTMAX words arrives at a queue (R380, R384, R385): one that is not full stores it whole, after the
marker of a pending gap; a full one holds its producer back, sets OVERRUN, or counts a gap, as its kind says; behind words
that its producer holds back, the packet waits too. Other queues stay. A queue is full when its room, 8 × LIMIT minus the words it
holds, is below PKTMAX, or below PKTMAX + 1 while a gap is pending (R383). -/
def Obligations.QueueAccepts : Prop :=
  ∀ (s : State) (q : Fin 1024) (ws : List W64), powered s.dev = true → ws ≠ [] → ws.length ≤ queuePktMax q.val →
    (queueOf s.dev q.val).swallow = false → (queueOf s.dev q.val).refusing = false →
    (queueOf s.dev q.val).begun = 0 →
    let n := ws.length
    let packet := (ws.zip (List.range n)).map fun p => ({ data := p.1, last := p.2 + 1 == n, bad := false } : QIn)
    let stored := (ws.zip (List.range n)).map fun p => queueWord p.1 (p.2 + 1 == n) 0
    let x := queueOf s.dev q.val
    let room := 8 * queueLimit s.dev q.val - heldWords x
    (queueFull s.dev q.val = true ↔ room < queuePktMax q.val ∨ (x.gap ≠ 0 ∧ room < queuePktMax q.val + 1)) ∧
    ∃ t, exec (.queuePacket q packet) s = .next t ∧ (q.val ≠ 128 → SameButQueues (entry s) t.dev) ∧ t.pending = s.pending ∧
      (∀ k, k ≠ q.val → queueOf t.dev k = queueOf s.dev k) ∧
      (x.port ≠ [] → queueOf t.dev q.val = { x with port := x.port ++ packet }) ∧
      (x.port = [] → x.cut = false → queueFull s.dev q.val = false → queueOf t.dev q.val =
        { x with
          words := x.words ++ (if x.gap = 0 then [] else [gapMarker x.gap]) ++ stored, gap := 0
          markers := if x.gap = 0 then x.markers else x.markers ++ [s.dev.job.number] }) ∧
      (x.port = [] → queueFull s.dev q.val = true → queueOf t.dev q.val =
        match fullKind s.dev q.val with
        | .stall => { x with port := packet }
        | .flag => { x with overrun := true }
        | .gap => { x with gap := min (x.gap + 1) 0xFFFFFFFF })

/-- The consumer commands (R389): POP takes the head word, DROP_REST takes the words up to the first END word or, where none is
held of a packet that has begun, all of them and the rest of that packet as it arrives, FLUSH takes all and clears the gap.
A queue whose producer holds words back is another case: they follow as room comes (R384). -/
def Obligations.ConsumerCommands : Prop :=
  ∀ (s : State) (q : Fin 1024), powered s.dev = true → (queueOf s.dev q.val).port = [] →
    let x := queueOf s.dev q.val
    (∃ t, exec (.pop q PoolRead.clean) s = .next t ∧
      (queueOf t.dev q.val).words = x.words.drop 1 ∧ (queueOf t.dev q.val).gap = x.gap ∧ t.dev.mem = s.dev.mem ∧
      t.dev.out = [] ∧ ∀ k, k ≠ q.val → queueOf t.dev k = queueOf s.dev k) ∧
    (∃ t, exec (.dropRest q) s = .next t ∧ SameButQueues (entry s) t.dev ∧
      (∀ ws, afterEnd x.words = some ws →
        (queueOf t.dev q.val).words = ws ∧ (queueOf t.dev q.val).swallow = x.swallow) ∧
      (afterEnd x.words = none → x.begun ≠ 0 →
        (queueOf t.dev q.val).words = [] ∧ (queueOf t.dev q.val).swallow = true) ∧
      (afterEnd x.words = none → x.begun = 0 → queueOf t.dev q.val = x) ∧
      ∀ k, k ≠ q.val → queueOf t.dev k = queueOf s.dev k) ∧
    ∃ t, exec (.flush q) s = .next t ∧ SameButQueues (entry s) t.dev ∧ (queueOf t.dev q.val).words = [] ∧
      (queueOf t.dev q.val).gap = 0 ∧ (queueOf t.dev q.val).swallow = (x.swallow || decide (x.begun ≠ 0)) ∧
      ∀ k, k ≠ q.val → queueOf t.dev k = queueOf s.dev k

/-- The drain engine moves whole packets of a token queue to its ring while it has room (R386), when the batch is complete or
the unread timeout expires (R388): each takes one ring entry, and the words taken leave the queue. A queue whose producer
holds words back is another case (R384). -/
def Obligations.TokensDrain : Prop :=
  ∀ (s : State) (n : Nat) (h : n < 64), powered s.dev = true → s.dev.cfgLocked = true → (queueOf s.dev n).port = [] →
    let q : Fin 128 := ⟨n, by omega⟩
    let u : Fin 129 := ⟨n, by omega⟩
    let ps := packetsOf (queueOf s.dev n)
    let k := min ps.length (tqRoom s.dev n)
    let drained := fun (t : State) =>
      (queueOf t.dev n).words = (queueOf s.dev n).words.drop ((ps.take k).flatten.length) ∧
        Tab.getD t.dev.hif.tqProd n 0 = (Tab.getD s.dev.hif.tqProd n 0 + k) % 2 ^ 32 ∧ t.dev.mem = s.dev.mem ∧
        t.dev.job = s.dev.job ∧ t.dev.role = s.dev.role ∧ ∀ j, j ≠ n → queueOf t.dev j = queueOf s.dev j
    0 < k →
    (batchReady s.dev n = true → ∃ t, exec (.drain q PoolRead.clean) s = .next t ∧ drained t) ∧
    ∃ t, exec (.unreadTimeout u) s = .next t ∧ drained t

/-! ### The host interface -/

/-- DOORBELL_POLL of a device that is not halted (R352, R353): the page's counts are taken, and a ring whose counts lie more
than a ring apart is stopped; a failed read sets HIF_ERR.DOORBELL with its message (R355). COMPLETION_TIMEOUT of a read of the
page does the same, and AER logs it (R530); one of a descriptor stops its ring where one can be outstanding, and one that
nothing waits for is only logged; none expires before the least time of its range (R530). With the link down the device
stops (R402). -/
def Obligations.DoorbellPagesRead : Prop :=
  (∀ s : State, powered s.dev = true → s.dev.cfgLocked = true → s.dev.twin.retired = false → s.dev.job.halted = false →
     s.dev.bnd.ops.head? ≠ some .doorbell →
     exec (.doorbellPoll none) s = .next { s with dev :=
       (msix 0 { entry s with hif := { s.dev.hif with err := s.dev.hif.err ||| 4#3 } }) } ∧
     ∀ p : Doorbell, ∃ t, exec (.doorbellPoll (some p)) s = .next t ∧ t.pending = s.pending ∧
       t.dev = { entry s with hif := t.dev.hif, out := t.dev.out, pcie := t.dev.pcie } ∧
       t.dev.hif.sqProd = pageCounts p.sqProd ∧ t.dev.hif.cqCons = pageCounts p.cqCons ∧
       t.dev.hif.tqCons = pageCounts p.tqCons ∧ t.dev.hif.log.host = p.logHost.toNat ∧
       t.dev.hif.sqCons = s.dev.hif.sqCons ∧ t.dev.hif.fetched = s.dev.hif.fetched ∧
       ∀ n : Fin 64, t.dev.hif.sqErr.getLsbD n.val = (s.dev.hif.sqErr.getLsbD n.val ||
         ((ringCfg s.dev (.hifSq n)).en && decide (ringSize (ringCfg s.dev (.hifSq n)) < sqWaiting t.dev n.val)))) ∧
  (∀ (s : State) (after : Option Nat), serving s.dev = true →
     let d := { entry s with pcie := { s.dev.pcie with aerTimeout := true } }
     let least := if s.dev.pcie.host.cplTimeout = 1#4 then 90
       else if s.dev.pcie.host.cplTimeout = 0#4 ∨ s.dev.pcie.host.cplTimeout = 2#4 then 9000 else 16000
     ((∀ t, after = some t → least ≤ t) →
       exec (.completionTimeout .doorbell after) s = .next { s with dev :=
         (msix 0 { d with hif := { s.dev.hif with err := s.dev.hif.err ||| 4#3 } }) } ∧
       exec (.completionTimeout .other after) s = .next { s with dev := d } ∧
       ∀ r : Fin 64, (fetches s.dev r = true →
           exec (.completionTimeout (.descriptor r) after) s = .next { s with dev :=
             (msix 0 { d with hif := { s.dev.hif with sqErr := s.dev.hif.sqErr ||| (1#64 <<< r.val) } }) }) ∧
         (fetches s.dev r = false → exec (.completionTimeout (.descriptor r) after) s = .next { s with dev := entry s })) ∧
     (∀ (t : Nat) (rd : HostRead), after = some t → t < least → rd ≠ .linkDown →
       exec (.completionTimeout rd after) s = .next { s with dev := entry s }) ∧
     ∃ t, exec (.completionTimeout .linkDown after) s = .next t ∧ t.dev.power.linkUp = false ∧ t.dev.job.fatal = true ∧
       t.dev.job.halted = true ∧ t.dev.boot.phase = .halted ∧ t.dev.mem = s.dev.mem)

/-- DESCRIPTOR_FETCH of the next descriptor of an enabled ring (R353): SQ_CONS advances, its status word and the step word are
written, and the descriptor waits for its boundary, a load with the copy made (R361, R362); a member that is to ask for a
step does so at once (R35). A fetch that fails stops the ring (R355). QUERY: the next statement. -/
def Obligations.DescriptorsFetched : Prop :=
  ∀ (s : State) (r : Fin 64), fetches s.dev r = true →
    exec (.descriptorFetch r .failed) s = .next { s with dev :=
      (msix 0 { entry s with hif := { s.dev.hif with sqErr := s.dev.hif.sqErr ||| (1#64 <<< r.val) } }) } ∧
    ∀ (x : BitVec 512) (a b : Option (List Byte)),
      let f : Fetched := { ring := r, index := Tab.getD s.dev.hif.sqCons r.val 0, desc := x, blockA := a, blockB := b }
      opcodeOf f ≠ 0x60 →
      ∃ t, exec (.descriptorFetch r (.got x a b)) s = .next t ∧ t.pending = s.pending ∧
        t.dev.hif = { fetchedHif s.dev f with fetched := s.dev.hif.fetched ++ [f] } ∧
        t.dev.role = s.dev.role ∧ t.dev.loaded = s.dev.loaded ∧ (ErrorFree s.dev → t.dev.queues = s.dev.queues) ∧
        (¬ ((opcodeOf f = 0x01 ∨ opcodeOf f = 0x02) ∧ descOk s.dev f = true) → t.dev.mem = s.dev.mem) ∧
        (∀ bs, opcodeOf f = 0x01 ∨ opcodeOf f = 0x02 → descOk s.dev f = true → f.blockA = some bs → ErrorFree s.dev →
          s.dev.job.inFlight = false ∨ meetsSpans s.dev.work.read (descField x 24 0 48) bs.length = false →
          t.dev.mem = { s.dev.mem with bytes := writeBytes s.dev.mem.bytes (descField x 24 0 48) bs }) ∧
        (ErrorFree s.dev → (tellsNone s.dev = true → t.dev.job = s.dev.job ∧ t.dev.out = fetchStatus s.dev f) ∧
          (tellsNone s.dev = false → inBoundary s.dev = false → s.dev.job.startOrdered = false → mirrors s.dev = false →
            t.dev.job = { s.dev.job with wantSent := true } ∧
            t.dev.out = fetchStatus s.dev f ++ [.particle s.dev.fab.up (partitionNode s.dev 0)
              { type := 0x04, status := 0, group := 0, gen := s.dev.job.gen, step := s.dev.job.number
                sender := myRank s.dev, entry := 0 }]))

/-- QUERY is answered when no boundary is in progress (R369): the bytes go to DST and a completion with their number enters
its ring's queue; an answer that does not exist completes with BAD_DESCRIPTOR. While a boundary is in progress it waits for
the boundary's end. The fetch shows in the status page (R353). -/
def Obligations.QueryAnswered : Prop :=
  (∀ (s : State) (f : Fetched), Comes s.dev f → opcodeOf f = 0x60 → inBoundary s.dev = true →
    exec (.query f) s = .next { s with dev := { s.dev with
      out := fetchStatus s.dev f, hif := { fetchedHif s.dev f with queries := s.dev.hif.queries ++ [f] } } }) ∧
  ∀ (s : State) (f : Fetched), Comes s.dev f → opcodeOf f = 0x60 → s.dev.twin.state = .unpaired → s.dev.onTaken = false →
    inBoundary s.dev = false → s.dev.bnd.posting = [] → ErrorFree s.dev → cqEnabled s.dev (cqOf f) = true →
    queueFull s.dev (64 + cqOf f) = false →
    let record := fun (code result : Nat) =>
      completionWords code 0x60 0 0 (handleOf f) (tagOf f) s.dev.job.number result
    (∀ bs, descOk s.dev f = true → queryAnswer s.dev f = some bs → ∃ t, exec (.query f) s = .next t ∧
      t.dev.out = fetchStatus s.dev f ++ [.hostWrite (descField f.desc 24 0 64) bs] ∧ t.dev.hif = fetchedHif s.dev f ∧
      t.dev.queues = (pushPacket (64 + cqOf f) (record 0x00 bs.length) s.dev).queues ∧ t.dev.role = s.dev.role ∧
      t.dev.mem = s.dev.mem ∧ t.dev.job = s.dev.job) ∧
    (descOk s.dev f = false ∨ queryAnswer s.dev f = none → ∃ t, exec (.query f) s = .next t ∧
      t.dev.out = fetchStatus s.dev f ∧ t.dev.hif = fetchedHif s.dev f ∧
      t.dev.queues = (pushPacket (64 + cqOf f) (record 0x10 0) s.dev).queues ∧ t.dev.role = s.dev.role ∧
      t.dev.mem = s.dev.mem)

/-! ### Descriptors (R357): each waits for its boundary, and has its effect at action 4 of it -/

/-- The request descriptors wait for their boundary. At its action 4, REQ_PRIORITY without edits sets priority and deadline
(R235); REQ_PAUSE, REQ_RESUME and REQ_CANCEL change the request's state (R227, R240, R242, R243): queued work pauses at
once, placed work is being paused, a paused request goes on, and the slot of a cancelled one is free under its next
generation (R223). REQ_SUBMIT, with a free slot, room in the work area and no submit held before it (R229), fills the
lowest free slot with the request, queued, with its prompt, seed and tag. -/
def Obligations.RequestDescriptors : Prop :=
  (∀ (s : State) (f : Fetched) (c : Instr) (op : Nat),
    (c, op) ∈ [(.reqSubmit f, 0x10), (.reqCancel f, 0x11), (.reqPause f, 0x12), (.reqResume f, 0x13), (.reqPriority f, 0x14)] →
    Comes s.dev f → opcodeOf f = op → tellsNone s.dev = true → exec c s = .next (joins s f)) ∧
  (∀ (s : State) (f : Fetched) (q : Request), AtActionFour s.dev f = true → descOk s.dev f = true →
    reqOf s.dev (handleOf f) = some q → q.slot < 16384 →
    (opcodeOf f = 0x14 → priorityEdits f = some [] → ∃ t, exec .boundaryActionResume s = .next t ∧
      reqOf t.dev (handleOf f) = some (withPriority f.desc s.dev.job.number q) ∧ t.dev.mem = s.dev.mem ∧
      t.dev.job.number = s.dev.job.number) ∧
    (opcodeOf f = 0x12 → q.state = .queued ∨ q.state = .prefill ∨ q.state = .decode →
      ∃ t, exec .boundaryActionResume s = .next t ∧ t.dev.mem = s.dev.mem ∧
        reqOf t.dev (handleOf f) =
          some { q with state := if q.state = .queued then .paused else .pausing, fwPause := false }) ∧
    (opcodeOf f = 0x13 → q.state = .paused → ∃ t, exec .boundaryActionResume s = .next t ∧ t.dev.mem = s.dev.mem ∧
      reqOf t.dev (handleOf f) =
        some { q with state := resumedState q, fwPause := false, resumePend := false, heldResumes := [] }) ∧
    (opcodeOf f = 0x11 → ∃ t, exec .boundaryActionResume s = .next t ∧
      reqOf t.dev (handleOf f) = none ∧ reqAt t.dev q.slot = none ∧
      slotGen t.dev q.slot = (if q.gen = 0x3FFFF then 1 else q.gen + 1))) ∧
  ∀ (s : State) (f : Fetched) (slot : Nat) (q : Request), AtActionFour s.dev f = true → descOk s.dev f = true →
    opcodeOf f = 0x10 → s.dev.role.held = [] → freeReqSlot s.dev = some slot → parseSubmit f slot s.dev = some q →
    workHolds s.dev q = true →
    ∃ t, exec .boundaryActionResume s = .next t ∧
      ∃ p, reqAt t.dev slot = some p ∧ p.state = .queued ∧ p.prompt = q.prompt ∧ p.promptLen = q.promptLen ∧
        p.seed = q.seed ∧ p.tag = q.tag ∧ p.gen = q.gen ∧ p.slot = slot ∧ p.sampler = q.sampler

/-- GROUP_DEFINE and GROUP_REFORM wait for their boundary. At its action 4, GROUP_DEFINE writes a group record that keeps R300;
GROUP_REFORM gives it a higher generation and other nodes (R321). Group 0 carries the partition generation (R299). -/
def Obligations.GroupsDefined : Prop :=
  (∀ (s : State) (f : Fetched) (c : Instr) (op : Nat), (c, op) ∈ [(.groupDefine f, 0x30), (.groupReform f, 0x31)] →
    Comes s.dev f → opcodeOf f = op → tellsNone s.dev = true → exec c s = .next (joins s f)) ∧
  ∀ (s : State) (f : Fetched), AtActionFour s.dev f = true → s.dev.twin.state = .unpaired → descOk s.dev f = true →
    ErrorFree s.dev →
    let n := descField f.desc 16 0 6
    let gen := descField f.desc 20 0 32
    let count := descField f.desc 24 0 32
    let at' := descField f.desc 32 0 48
    (opcodeOf f = 0x30 → 1 ≤ count → count ≤ 65536 → rangeInMap at' (4 * count) = true →
      let g : Group := {
        gen := gen, members := count, myRank := descField f.desc 28 0 16, nodesAt := at'
        nodes := (pieces 4 count (readBytes s.dev.mem.bytes at' (4 * count))).map natOfBytes
        ctimeout := descField f.desc 40 0 40 }
      groupOk s.dev n g = true →
      ∃ t, exec .boundaryActionResume s = .next t ∧ groupOf t.dev n = some g ∧ (n = 0 → t.dev.job.gen = gen) ∧
        (∀ k, k ≠ n → groupOf t.dev k = groupOf s.dev k) ∧ t.dev.mem = s.dev.mem ∧
        t.dev.job.number = s.dev.job.number) ∧
    ∀ g : Group, opcodeOf f = 0x31 → groupOf s.dev n = some g → g.gen < gen → 1 ≤ descField f.desc 24 0 17 →
      descField f.desc 24 0 17 ≤ 65536 → rangeInMap at' (8 * descField f.desc 24 0 17) = true →
      let words := (pieces 8 (descField f.desc 24 0 17) (readBytes s.dev.mem.bytes at' (8 * descField f.desc 24 0 17))).map
        natOfBytes
      let pairs := words.map fun w => (bitsOf w 0 16, bitsOf w 32 32)
      (∀ w ∈ words, bitsOf w 16 16 = 0) → (∀ p ∈ pairs, p.1 < g.members ∧ p.2 < nodeCount s.dev) →
      ∃ t, exec .boundaryActionResume s = .next t ∧
        groupOf t.dev n = some { g with gen := gen, nodes := replaceNodes g.nodes pairs } ∧
        (n = 0 → t.dev.job.gen = gen) ∧ (∀ k, k ≠ n → groupOf t.dev k = groupOf s.dev k) ∧ t.dev.mem = s.dev.mem

/-- EXPORT_SLOTS and STEP_LOG wait for their boundary. At its action 4, EXPORT_SLOTS installs a slot list with sequence number 0
and its initial credit (R332, R333); STEP_LOG starts a log while none runs, with its count in the status page (R371). -/
def Obligations.ListsAndLogsInstall : Prop :=
  (∀ (s : State) (f : Fetched) (c : Instr) (op : Nat), (c, op) ∈ [(.exportSlots f, 0x20), (.stepLog f, 0x50)] →
    Comes s.dev f → opcodeOf f = op → tellsNone s.dev = true → exec c s = .next (joins s f)) ∧
  ∀ (s : State) (f : Fetched), AtActionFour s.dev f = true → descOk s.dev f = true →
    let n := descField f.desc 16 0 8
    let l : SlotList := {
      gen := descField f.desc 20 0 32, node := descField f.desc 24 0 32, slots := descField f.desc 28 0 17
      slotBytes := descField f.desc 32 0 32, addrs := descField f.desc 40 0 48, credit := descField f.desc 36 0 17, seq := 0 }
    (opcodeOf f = 0x20 → (Tab.find s.dev.fab.slotLists n).map (·.gen) ≠ some l.gen → l.node < nodeCount s.dev → 1 ≤ l.slots →
      l.slots ≤ 65536 → l.credit ≤ l.slots → 64 + slotBytes (sentenceDh s.dev) false ≤ l.slotBytes →
      ∃ t, exec .boundaryActionResume s = .next t ∧ Tab.find t.dev.fab.slotLists n = some l ∧
        (∀ k, k ≠ n → Tab.find t.dev.fab.slotLists k = Tab.find s.dev.fab.slotLists k) ∧ t.dev.mem = s.dev.mem) ∧
    (opcodeOf f = 0x50 → s.dev.hif.log.mode = 0 → descField f.desc 16 0 2 ≠ 0 →
      ∃ t, exec .boundaryActionResume s = .next t ∧ t.dev.mem = s.dev.mem ∧ t.dev.role.reqs = s.dev.role.reqs ∧
        .hostWrite (statusBase s.dev + 1536) (bytesOfNat 8 0) ∈ t.dev.out ∧
        t.dev.hif.log = {
          mode := descField f.desc 16 0 2, base := descField f.desc 24 0 64, log2 := descField f.desc 32 0 6
          endStep := descField f.desc 40 0 48, cq := cqOf f, tag := tagOf f, dev := 0, host := 0, bytes := [], last := 0 })

/-- MODEL_LOAD and SENTENCE_LOAD copy their bytes at once and wait for their boundary, as VARIANT_LOAD does (R361, R362). At its
action 4, a MODEL_LOAD of one segment whose digest is right loads the model with variant 0 (R361, R248); a SENTENCE_LOAD of
an image that fits replaces the sentence and starts the digest chain again (R362, R48); VARIANT_LOAD takes the pages that
its entries name as the variant's shared pages, in directory order (R248, R249). That SENTENCE_LOAD keeps the variant table, and that
the initial digest is formed then, is the model's choice (notes/assumptions 115 and 45). -/
def Obligations.ImagesAndVariantsLoad : Prop :=
  (∀ (s : State) (f : Fetched), Comes s.dev f → tellsNone s.dev = true →
     (opcodeOf f = 0x03 → exec (.variantLoad f) s = .next (joins s f)) ∧
     ∀ (c : Instr) (op : Nat) (bs : List Byte), (c, op) ∈ [(.modelLoad f, 0x01), (.sentenceLoad f, 0x02)] →
       opcodeOf f = op → descOk s.dev f = true → f.blockA = some bs → ErrorFree s.dev →
       let dst := descField f.desc 24 0 48
       let e := noteRaced dst bs.length (entry s)
       exec c s = .next { s with dev := { e with
         out := fetchStatus s.dev f, hif := { fetchedHif s.dev f with fetched := s.dev.hif.fetched ++ [f] }
         mem := { e.mem with bytes := writeBytes e.mem.bytes dst bs }
         work := if s.dev.job.inFlight then { e.work with copied := (dst, bs.length) :: e.work.copied } else e.work } }) ∧
  (∀ (s : State) (f : Fetched) (bs : List Byte), AtActionFour s.dev f = true → descOk s.dev f = true → f.blockA = some bs →
     tableEmpty s.dev = true → bs.length = descField f.desc 32 0 48 →
     let dst := descField f.desc 24 0 48
     (opcodeOf f = 0x01 → descField f.desc 40 0 2 = 3 → f.blockB = some (shake256_512 bs) →
       ∃ t, exec .boundaryActionResume s = .next t ∧ t.dev.loaded.modelDigest = some (shake256_512 bs) ∧
         t.dev.loaded.modelRanges = [(dst, bs.length)] ∧ t.dev.loaded.sentence = none ∧
         t.dev.role.variants = [(0, variantZero)] ∧ t.dev.tree = [] ∧ t.dev.mem = s.dev.mem) ∧
     ∀ (model : List Byte) (x : Sentence), opcodeOf f = 0x02 → s.dev.loaded.modelDigest = some model →
       parseSentence dst bs = some x → sentenceFits s.dev x bs = true →
       ∃ t, exec .boundaryActionResume s = .next t ∧
         t.dev.loaded.sentence = some { x with digest := shake256_512 bs } ∧ t.dev.loaded.modelDigest = some model ∧
         t.dev.loaded.initial = initialDigest s.dev (myRank s.dev) model (shake256_512 bs) ∧
         t.dev.role.initial = some (initialDigest s.dev (myRank s.dev) model (shake256_512 bs)) ∧
         t.dev.role.lists = [] ∧ t.dev.role.variants = s.dev.role.variants ∧ t.dev.mem = s.dev.mem) ∧
  (∀ (s : State) (f : Fetched) (model : List Byte) (es : List PageEntry), AtActionFour s.dev f = true →
     descOk s.dev f = true → opcodeOf f = 0x03 → s.dev.loaded.modelDigest = some model → ErrorFree s.dev →
     let v := descField f.desc 16 0 12
     let lv := descField f.desc 18 0 13
     let at' := descField f.desc 24 0 48
     let n := lv / 256 * (dirPlaces s.dev).length
     rangeInMap at' (8 * n) = true →
     ((pieces 8 n (readBytes s.dev.mem.bytes at' (8 * n))).map natOfBytes).mapM parseEntry = some es →
     (∀ e ∈ es, e.tier ≤ 1 ∧ e.fp4 = false) → shadowTakes s.dev (dirUses s.dev (variantPages s.dev (lv / 256) es)) 0 = true →
     ∃ t, exec .boundaryActionResume s = .next t ∧
       (Tab.find t.dev.role.variants v).map (fun x => (x.lv, x.pages)) =
         some (lv, variantPages s.dev (lv / 256) (es.map fun e => { e with shared := true })) ∧
       (∀ k, k ≠ v → Tab.find t.dev.role.variants k = Tab.find s.dev.role.variants k) ∧ t.dev.mem = s.dev.mem)

/-- TWIN_ATTACH and TWIN_DETACH wait for their boundary. At its action 4, TWIN_ATTACH begins an attach with the named node under
the next attach generation and sends HELLO (R418); TWIN_DETACH ends a pair and tells the twin (R422). -/
def Obligations.TwinDescriptors : Prop :=
  (∀ (s : State) (f : Fetched) (c : Instr) (op : Nat), (c, op) ∈ [(.twinAttach f, 0x41), (.twinDetach f, 0x42)] →
    Comes s.dev f → opcodeOf f = op → tellsNone s.dev = true → exec c s = .next (joins s f)) ∧
  ∀ (s : State) (f : Fetched), AtActionFour s.dev f = true → descOk s.dev f = true →
    let mode := descField f.desc 16 0 2
    let node := descField f.desc 20 0 32
    (opcodeOf f = 0x41 → s.dev.twin.state = .unpaired → mode = 1 ∨ mode = 2 →
      ¬ (mode = 1 ∧ descField f.desc 16 2 1 = 1) → node < nodeCount s.dev → node ≠ nodeId s.dev →
      ∃ t, exec .boundaryActionResume s = .next t ∧ t.dev.twin.state = .attaching ∧ t.dev.twin.mode = mode ∧
        t.dev.twin.node = node ∧ t.dev.twin.attachGen = (s.dev.twin.attachGen + 1) % 2 ^ 32 ∧
        t.dev.twin.left = regField s.dev .twnCfg 40 8 ∧ t.dev.twin.peerHello = none ∧ t.dev.mem = s.dev.mem ∧
        (∃ h, t.dev.out = [.twin ((s.dev.twin.attachGen + 1) % 2 ^ 32) 0 (.hello h)]) ∧ t.dev.queues = s.dev.queues) ∧
    (opcodeOf f = 0x42 → s.dev.twin.state = .paired → ∃ t, exec .boundaryActionResume s = .next t ∧
      t.dev.twin.state = .unpaired ∧ t.dev.twin.shadow = none ∧
      .twin s.dev.twin.attachGen s.dev.twin.nextRecord .detach ∈ t.dev.out ∧ t.dev.mem = s.dev.mem)

/-- JOB_RESTART waits for the halt boundary, which the next read of the doorbell page begins (R411, R412). There, for the step
whose boundary the member performed last and a generation that R412 accepts, the member leaves the halt with that
generation, before the step after it. -/
def Obligations.JobRestarts : Prop :=
  (∀ (s : State) (f : Fetched), Comes s.dev f → opcodeOf f = 0x40 → tellsNone s.dev = true →
    exec (.jobRestart f) s = .next (joins s f)) ∧
  ∀ (s : State) (f : Fetched) (page : Option Doorbell), serving s.dev = true → s.dev.job.halted = true →
    s.dev.job.inFlight = false → inBoundary s.dev = false → s.dev.bnd.posting = [] → s.dev.twin.state = .unpaired →
    s.dev.twin.taken = none → s.dev.onTaken = false → s.dev.job.named = [] → s.dev.job.agreement = false →
    s.dev.job.scrubFault = false → s.dev.job.scrubbed = [] → s.dev.job.lost = [] →
    s.dev.hif.queries = [] → s.dev.boot.reportPending = false → s.dev.boot.measWaiting = none →
    s.dev.hif.fetched = [f] → f.ring.val = 0 → opcodeOf f = 0x40 → descOk s.dev f = true →
    descField f.desc 16 0 48 = haltInfo s.dev → restartOk s.dev f = true →
    ∃ t, exec (.doorbellPoll page) s = .next t ∧ t.dev.job.halted = false ∧ t.dev.job.gen = descField f.desc 24 0 32 ∧
      t.dev.job.number = (haltInfo s.dev + 1) % 2 ^ 48 ∧ t.dev.job.restarts = 0 ∧ t.dev.hif.fetched = [] ∧
      t.dev.mem = s.dev.mem ∧ t.dev.role.reqs = s.dev.role.reqs

/-! ### A step and its work -/

/-- STEP_BEGIN (R29): the composed step is in flight, its number stays, the tables are loaded, and no clause has issued; a step
without placements passes over every clause. -/
def Obligations.StepBegins : Prop :=
  ∀ (s : State) (plan : List PlanWrite) (rows : List (Nat × Nat)), mayBegin s.dev = true → s.dev.twin.state = .unpaired →
    s.dev.twin.taken = none → s.dev.onTaken = false → s.dev.hif.log.mode ≠ 2 → s.dev.job.scrubFault = false →
    let x := composition (entry s)
    planOk plan rows x = true → ErrorFree x → trigTable x = [] →
    (∀ w ∈ plan, rangeInMap w.addr w.bytes.length = true) →
    ∃ t, exec (.stepBegin plan rows) s = .next t ∧ t.dev.job.inFlight = true ∧ t.dev.job.number = s.dev.job.number ∧
      t.dev.job.localDone = false ∧ t.dev.job.startOrdered = false ∧
      t.dev.role.col.placements = x.role.col.placements ∧ t.dev.work.issue = none ∧ t.dev.work.contexts = [] ∧
      t.dev.work.nextClause = (if x.role.col.placements.isEmpty then (clausesOf x).length else 0) ∧
      t.dev.fab.counters = [(0, 1)] ∧
      t.dev.mem.bytes = plan.foldl (fun m w => writeBytes m w.addr w.bytes) x.mem.bytes

/-- CLAUSE_ISSUE (R118, R125, R126): every bound is read once, the blocks get their ranges under the next epoch, and the next
clause is the one that runs, unless it has no tile. A paged operand's dimension loop has the bound DH (R199). -/
def Obligations.ClauseIssues : Prop :=
  ∀ (s : State) (c : Clause), mayIssue s.dev = true → (clausesOf s.dev)[s.dev.work.nextClause]? = some c →
    ErrorFree s.dev → s.dev.work.raced = [] → trigTable s.dev = [] →
    let read := (resolveBounds c (entry s)).1
    let bounds := read.map fun bs => bs.map (·.1)
    let ss := stageOps (issuedOps c bounds)
    let total := clauseTiles ss
    (∀ b ∈ read.flatten, b.2 = true ∧ b.1 ≤ boundMax) → issueOk ss = true →
    (∀ x ∈ ss.flatten, x.op.b.paged = true → rangeInMap x.op.b.base 64 = true ∧
      (setAt x.op.b.base (readBytes s.dev.mem.bytes x.op.b.base 64)).map (·.dh) =
        some (boundFor x.bounds (if bitOf x.op.b.scaleBase 1 then .n else .k))) →
    ∃ t, exec .clauseIssue s = .next t ∧ t.dev.work.nextClause = s.dev.work.nextClause + 1 ∧
      t.dev.work.epoch = (s.dev.work.epoch + 1) % 2 ^ 32 ∧
      t.dev.work.counters = installAll s.dev c.cls total ((s.dev.work.epoch + 1) % 2 ^ 32) ∧ t.dev.work.contexts = [] ∧
      (total = 0 → t.dev.work.issue = none) ∧
      (total ≠ 0 → t.dev.work.issue = some {
        clause := s.dev.work.nextClause, bounds := bounds, total := total, completed := []
        written := s.dev.work.written, wrote := [], encoded := [] }) ∧ t.dev.mem = s.dev.mem ∧ t.dev.role = s.dev.role

/-- TILE_CLAIM (R127): a claim below END takes the tile, with the MSU group that is to run it (R174), and NEXT advances, with
nothing else changed; an exhausted one holds
nothing, NEXT still advances, and the block asks its region manager where it may not steal itself.
REGION_STEAL (R128, R129): the upper half of the largest remaining range of another region goes to the block that asked, and
the steal counts (R136). -/
def Obligations.TilesClaimedAndStolen : Prop :=
  (∀ (s : State) (x : CtxId) (seen : List SeenWord), mayClaim x s.dev = true →
     let g := x.block.val
     let c := counterOf s.dev g
     (c.next < c.stop → exec (.tileClaim x seen) s = .next { s with dev := { entry s with work := { s.dev.work with
       counters := Tab.put s.dev.work.counters g { c with next := c.next + 1 }
       contexts := s.dev.work.contexts ++ [{
         ctx := x, tile := some c.next, order := s.dev.work.claims, msu := msuGroup (issuedStages s.dev) g c.next }]
       claims := s.dev.work.claims + 1 } } }) ∧
     (c.stop ≤ c.next → regField s.dev .cfgSteal 32 1 = 0 → (blockOfWork s.dev g).asked = false →
       ∃ t, exec (.tileClaim x seen) s = .next t ∧ counterOf t.dev g = { c with next := c.next + 1 } ∧
         (blockOfWork t.dev g).asked = true ∧
         t.dev.work.contexts = s.dev.work.contexts ++ [{
           ctx := x, tile := none, order := s.dev.work.claims, msu := none }])) ∧
  (∀ (s : State) (r : Fin 8) (b : Fin 16) (v : Nat), stepRuns s.dev = true → s.dev.work.issue ≠ none →
     let g := 16 * r.val + b.val
     (blockOfWork s.dev g).asked = true → regField s.dev .cfgSteal 33 1 = 1 →
     victimOf (counterOf s.dev) (regField s.dev .cfgSteal 16 16) ((List.range 128).filter fun x => x / 16 ≠ r.val) = some v →
     let c := counterOf s.dev v
     let e := c.stop - (c.stop - c.next) / 2
     ∃ t, exec (.regionSteal r b []) s = .next t ∧ counterOf t.dev v = { c with stop := e } ∧
       counterOf t.dev g = { c with next := e } ∧ (blockOfWork t.dev g).asked = false ∧
       (∀ k, k ≠ v → k ≠ g → counterOf t.dev k = counterOf s.dev k) ∧
       (let none' : TileStat := { stealsIn := 0, stealsX := 0, casFail := 0 }
        (Tab.getD t.dev.errs.tileStat r.val none').stealsX =
          min ((Tab.getD s.dev.errs.tileStat r.val none').stealsX + 1) 0xFFFFF))

/-- Claims and steals neither lose nor double a tile (R131), whatever the reads of a steal return. -/
def Obligations.TilesKeepTheirPlace : Prop :=
  (∀ (s t : State) (x : CtxId) (seen : List SeenWord) (i : Nat), exec (.tileClaim x seen) s = .next t →
    tilePlaces t.dev i = tilePlaces s.dev i) ∧
  ∀ (s t : State) (r : Fin 8) (b : Fin 16) (seen : List SeenWord) (i : Nat),
    (counterOf s.dev (16 * r.val + b.val)).stop ≤ (counterOf s.dev (16 * r.val + b.val)).next →
    exec (.regionSteal r b seen) s = .next t → tilePlaces t.dev i = tilePlaces s.dev i

/-- A tile of each kind of operation runs (R109, R144, R147): memory is what the tile's evaluation leaves, its context is free,
the tile counts as completed, and the clause completes with its last tile. -/
def Obligations.TilesRun : Prop :=
  ∀ (s : State) (cmd : CtxId → Instr) (kind : OpKind) (x : CtxId) (i : Issue) (c : Clause) (k : Nat),
    (cmd = .matmul ∧ kind = .matmul) ∨ (cmd = .dot ∧ kind = .dot) ∨ (cmd = .softmax ∧ kind = .softmax) ∨
      (cmd = .recomp ∧ kind = .recomp) ∨ (cmd = .softgrad ∧ kind = .softgrad) ∨ (cmd = .vector ∧ kind = .vector) →
    stepRuns s.dev = true → s.dev.work.issue = some i → (clausesOf s.dev)[i.clause]? = some c →
    (s.dev.work.contexts.find? (·.ctx = x)).bind (·.tile) = some k →
    let ss := stageOps (issuedOps c i.bounds)
    let p := tileAt ss k
    ((ss.getD p.stage []).head?.map (·.op.kind)) = some kind → tileReady ss i p = true →
    msuTakes ss i x s.dev = true → s.dev.test.residue = none → s.dev.work.raced = [] → trigTable s.dev = [] →
    let r := ((evTile s.dev c ss i k).run (startRun s.dev.mem i.encoded s.dev.freeCtr)).2
    r.events = [] → r.fault = false →
    ∃ t, exec (cmd x) s = .next t ∧ t.dev.mem = r.mem ∧ t.dev.freeCtr = r.free ∧
      t.dev.work.contexts = s.dev.work.contexts.filter (fun h => h.ctx ≠ x) ∧
      t.dev.work.counts = tileCounts i.clause r s.dev.work.counts ∧
      (i.completed.length + 1 = i.total → t.dev.work.issue = none) ∧
      (i.completed.length + 1 ≠ i.total → t.dev.work.issue.map (·.completed) = some (k :: i.completed)) ∧
      t.dev.role = s.dev.role ∧ t.dev.job = s.dev.job ∧ t.dev.queues = s.dev.queues

/-- The three convert instructions (R77, R78) write their destination registers from their sources, and only those; what the
conversions raise joins the step's collection (R81). A block whose values are all zero encodes as scale 0x7F with 32 elements of
encoding 0, and raises nothing (R73). -/
def Obligations.ConvertsWrite : Prop :=
  (∀ (f : FCode) (vs : List Val), vs.all Val.isZero = true → encodeBlock f vs = (0x7F, List.replicate 32 0, noneRaised)) ∧
  ∀ (s : State) (g : Fin 128) (insn : W64) (c : CvtInsn), veRuns s.dev g.val = true →
    let src := veReg s.dev g.val c.srcReg
    (parseCvt 0x40 insn = some c → exec (.cvt g insn) s = .next { s with dev := (raiseCounts (cvtAll c src).2 { entry s with
        veRegs := Tab.put s.dev.veRegs (g.val * 64 + c.dstReg) (cvtAll c src).1 }) }) ∧
    (parseCvt 0x41 insn = some c → exec (.cvtq g insn) s = .next { s with dev := (raiseCounts (cvtqAll c src).2.2 { entry s with
        veRegs := Tab.put s.dev.veRegs (g.val * 64 + c.dstReg) (cvtqAll c src).1
        veScales := Tab.put s.dev.veScales (g.val * 64 + c.scl) (cvtqAll c src).2.1 }) }) ∧
    (parseCvt 0x42 insn = some c → exec (.cvtd g insn) s = .next { s with dev := (raiseCounts (cvtdAll c (veScale s.dev g.val c.scl) src).2 { entry s with
        veRegs := Tab.put s.dev.veRegs (g.val * 64 + c.dstReg) (cvtdAll c (veScale s.dev g.val c.scl) src).1 }) })

/-- A sample point whose clause has completed hands the valid entries of its list to the samplers (R265, R266, R7); a draw takes
its token by the sampling rules and is recorded (R270), and that of an iteration is also written where the next one reads it
(R266); a region with nothing left is done (R29). -/
def Obligations.Sampling : Prop :=
  ∀ s : State, stepRuns s.dev = true → ErrorFree s.dev → s.dev.work.raced = [] →
    (∀ (i : Fin 64) (p : SamplePoint), (pointsOf s.dev)[i.val]? = some p → clauseDone s.dev p.clause = true →
      i.val ∉ s.dev.work.sampled →
      let n := natOfBytes (readBytes s.dev.mem.bytes p.list 4)
      rangeInMap p.list 4 = true → n ≤ 65536 → rangeInMap (p.list + 16) (16 * n) = true →
      let e := noteRead (p.list + 16) (16 * n) (noteRead p.list 4 (entry s))
      exec (.samplePoint i) s = .next { s with dev := { e with work := { e.work with
        sampled := s.dev.work.sampled ++ [i.val]
        jobs := s.dev.work.jobs ++
          (pieces 16 n (readBytes s.dev.mem.bytes (p.list + 16) (16 * n))).filterMap (parseSampleEntry i.val p) } } }) ∧
    (∀ (r : Fin 8) (x : SampleJob) (p : SamplePoint) (q : Request), s.dev.work.jobs.find? (·.region = r.val) = some x →
      (pointsOf s.dev)[x.point]? = some p → reqOf s.dev x.handle = some q →
      rangeInMap (rowAddr p x.row) (p.v * logitBytes p) = true →
      let out := p.logits + p.draftOut + 4 * x.row
      (x.role = 3 → rangeInMap out 4 = true) →
      let k := drawIndices q x
      let y := drawToken q.sampler (drawCount q (draftsBefore s.dev.work.drawn x)) q.seed k.1 k.2
        (logitsOf p (readBytes s.dev.mem.bytes (rowAddr p x.row) (p.v * logitBytes p)))
      let e := noteRead (rowAddr p x.row) (p.v * logitBytes p) (entry s)
      exec (.draw r) s = .next { s with dev := { e with
       mem := if x.role = 3 then { s.dev.mem with bytes := writeBytes s.dev.mem.bytes out (bytesOfNat 4 y.1) } else s.dev.mem
       work := { e.work with
        jobs := s.dev.work.jobs.erase x
        drawn := s.dev.work.drawn ++
          [{ handle := x.handle, role := x.role, j := x.j, index := k.1, token := y.1, nofinite := y.2 }]
        past := if x.role = 3 then s.dev.work.past ++ [(out, 4)] else s.dev.work.past
        counts := { s.dev.work.counts with nofinite := s.dev.work.counts.nofinite + ofBit y.2 } } } }) ∧
    ∀ r : Fin 8, clausesOver s.dev = true → s.dev.work.jobs.any (·.region = r.val) = false →
      r.val ∉ s.dev.work.regionsDone →
      exec (.regionDone r) s = .next { s with dev := { entry s with work := { s.dev.work with
        regionsDone := s.dev.work.regionsDone ++ [r.val] } } }

/-- LOCAL_DONE at a member other than member 0 (R29, R34): what the run drew and wrote goes to the boundary, and STEP_DONE for
the step goes to member 0; the step number stays. -/
def Obligations.LocalDoneReports : Prop :=
  ∀ (s : State) (page : Option Doorbell), serving s.dev = true → s.dev.job.inFlight = true → s.dev.job.faulted = false →
    s.dev.job.localDone = false → s.dev.job.halted = false → s.dev.job.doneSent = false → inBoundary s.dev = false → workDone s.dev = true →
    s.dev.twin.taken = none → s.dev.onTaken = false → s.dev.twin.state = .unpaired → isLead s.dev = false →
    outputPlan s.dev = none →
    ∃ t, exec (.localDone page) s = .next t ∧ t.dev.job.localDone = true ∧ t.dev.job.doneSent = true ∧
      t.dev.job.number = s.dev.job.number ∧ t.dev.role.col.drawn = s.dev.work.drawn ∧
      t.dev.role.col.written = s.dev.work.written ∧ t.dev.mem = s.dev.mem ∧
      t.dev.out = [.particle s.dev.fab.up (partitionNode s.dev 0)
        { type := 0x02, status := 0, group := 0, gen := s.dev.job.gen, step := s.dev.job.number, sender := myRank s.dev
          entry := 0 }]

/-- The last action of a boundary that goes on advances the step number by exactly 1 and ends the step (R28, R39); a number
that would reach the last one stops the device. That the number stays there, and that the device then goes FATAL as by an error, is
the model's choice (notes/assumptions 53).
Held submits that have waited longer than ADMIT_WAIT leave (R229); younger ones stay. -/
def Obligations.BoundaryAdvancesAndHeldSubmitsExpire : Prop :=
  (∀ s : State, powered s.dev = true → s.dev.cfgLocked = true → s.dev.bnd.ops = [.advance] → s.dev.bnd.posting = [] →
     s.dev.twin.state ≠ .syncing → s.dev.job.fatal = false →
     (s.dev.job.number + 1 ≠ 2 ^ 48 - 1 →
       ∃ t, exec .boundaryActionResume s = .next t ∧ t.dev.job.number = s.dev.job.number + 1 ∧
         t.dev.job.inFlight = false ∧ t.dev.job.localDone = false ∧ t.dev.job.doneFrom = [] ∧
         t.dev.job.lastBoundary = some s.dev.job.number ∧ t.dev.bnd.ops = [] ∧ t.dev.mem = s.dev.mem ∧
         t.dev.role.reqs = s.dev.role.reqs ∧ t.dev.job.gen = s.dev.job.gen) ∧
     (s.dev.job.number + 1 = 2 ^ 48 - 1 →
       ∃ t, exec .boundaryActionResume s = .next t ∧ t.dev.job.number = s.dev.job.number ∧ t.dev.job.fatal = true ∧
         t.dev.boot.phase = .halted)) ∧
  (∀ s : State, serving s.dev = true → inBoundary s.dev = false → s.dev.twin.taken = none →
     ∃ t, exec .heldSubmitTimeout s = .next t ∧
       t.dev.role.held = s.dev.role.held.filter (fun h => h.waited ≤ schedAdmitWait s.dev) ∧
       t.dev.role.reqs = s.dev.role.reqs ∧ t.dev.mem = s.dev.mem ∧ t.dev.job = s.dev.job)

/-! ### Steps across a partition -/

/-- Particles of a step that act where they arrive (R33 to R35): each is acknowledged, remembered, and changes one thing: member
0 notes a STEP_WANT and counts a STEP_DONE, another member takes a STEP_START as the order for its next step. A mirror takes particles from no port of its own: the next statement. -/
def Obligations.StepParticlesAct : Prop :=
  ∀ (s : State) (pin : ParticleIn) (p : Particle) (page : Option Doorbell), serving s.dev = true → mirrors s.dev = false →
    p.gen = s.dev.job.gen →
    let becomes := fun (j : Job) => (Host.Outcome.next { s with dev := { s.dev with
      out := [ackOf s.dev pin], job := j
      fab := { s.dev.fab with seen := s.dev.fab.seen ++ [(pin.frame.src, p)] } } } : Host.Outcome State Fault Refusal)
    (Fresh s.dev pin p 0x04 → isLead s.dev = true → p.step = s.dev.job.number → p.sender < memberCount s.dev →
      exec (.stepWant pin) s = becomes { s.dev.job with wantNoted := true }) ∧
    (Fresh s.dev pin p 0x02 → isLead s.dev = true → s.dev.job.halted = false → s.dev.job.awaitReady = false →
      s.dev.job.inFlight = true → s.dev.job.localDone = false → inBoundary s.dev = false → p.status = 0 →
      p.step = s.dev.job.number → p.sender < memberCount s.dev →
      exec (.stepDone pin page) s = becomes { s.dev.job with doneFrom := s.dev.job.doneFrom ++ [p.sender] }) ∧
    (Fresh s.dev pin p 0x01 → isLead s.dev = false → s.dev.job.halted = false → p.sender = 0 → s.dev.job.inFlight = false →
      s.dev.job.startOrdered = false → inBoundary s.dev = false → p.step = s.dev.job.number →
      exec (.stepStart pin page) s = becomes { s.dev.job with startOrdered := true })

/-- A STEP_WANT whose frame fails the checks of R286 is discarded and counted; one that is stale or ill-formed is discarded and
counted as stale (R31, R32); a copy of one that has acted is acknowledged alone (R298). A DATA frame that fails the checks
of R286 is discarded and counted, and stale step traffic is discarded and counted (R31); neither has another effect.
A mirror takes every fabric input from its primary, and nothing from its own ports (R421). -/
def Obligations.BadTrafficDiscarded : Prop :=
  (∀ (s : State) (pin : ParticleIn), serving s.dev = true → mirrors s.dev = false →
     (frameOk s.dev [0] pin.frame = false → exec (.stepWant pin) s = .next { s with dev := { entry s with
       errs := { s.dev.errs with discards := satAdd 20 s.dev.errs.discards 1 } } }) ∧
     (frameOk s.dev [0] pin.frame = true →
       (∀ p, parseParticle pin.frame.payload = some p → p.type = 0x04 → (pin.frame.src, p) ∈ s.dev.fab.seen →
         exec (.stepWant pin) s = .next { s with dev := { s.dev with out := [ackOf s.dev pin] } }) ∧
       (parseParticle pin.frame.payload = none →
         exec (.stepWant pin) s = .next { s with dev := { entry s with
           errs := { s.dev.errs with stale := satAdd48 s.dev.errs.stale 1 } } })) ∧
     ∀ p, Fresh s.dev pin p 0x04 → p.gen ≠ s.dev.job.gen →
       exec (.stepWant pin) s = .next { s with dev := { entry s with
         errs := { s.dev.errs with stale := satAdd48 s.dev.errs.stale 1 } } }) ∧
  (∀ (s : State) (port : Fin 9) (f : Frame), serving s.dev = true →
     (frameOk s.dev [1, 2, 3] f = false → port.val = 8 ∨ mirrors s.dev = false → exec (.data port f) s = .next { s with dev := { entry s with
       errs := { s.dev.errs with discards := satAdd 20 s.dev.errs.discards 1 } } }) ∧
     (frameOk s.dev [1, 2, 3] f = true → port.val ≠ 8 → mirrors s.dev = false → staleFrame s.dev f = true →
       exec (.data port f) s = .next { s with dev := { entry s with
         errs := { s.dev.errs with stale := satAdd48 s.dev.errs.stale 1 } } }) ∧
     (mirrors s.dev = true → port.val ≠ 8 → exec (.data port f) s = .next { s with dev := entry s } ∧
       ∀ pin : ParticleIn, exec (.stepWant pin) s = .next { s with dev := entry s }))

/-- STEP_ABORT of the step in flight reaches a member other than member 0 (R408): the step is discarded, the member adopts the next
generation and sends ready; its requests and its memory stay. STEP_WANT goes out again while work is pending (R35).
Waits that expire (R37, R408, R410): at member 0 a STEP_DONE that is missing restarts the job, and a ready that is missing
halts it; at another member a missing STEP_START is reported with STEP_ABORT, and the member halts. -/
def Obligations.MembersFollowAndWaitsExpire : Prop :=
  ((∀ (s : State) (pin : ParticleIn) (p : Particle) (page : Option Doorbell), StepAtMember s.dev = true →
     Fresh s.dev pin p 0x03 → p.gen = s.dev.job.gen → p.sender = 0 → p.step = s.dev.job.number → s.dev.job.named = [] →
     s.dev.job.agreement = false →
     ∃ t, exec (.stepAbort pin page) s = .next t ∧ t.dev.job.inFlight = false ∧
       t.dev.job.gen = (s.dev.job.gen + 1) % 2 ^ 32 ∧ t.dev.job.number = s.dev.job.number ∧ t.dev.job.doneSent = true ∧
       t.dev.work.issue = none ∧ t.dev.fab.entries = [] ∧ t.dev.mem = s.dev.mem ∧ t.dev.role.reqs = s.dev.role.reqs ∧
       .particle s.dev.fab.up (partitionNode s.dev 0)
         { type := 0x02, status := 0, group := 0, gen := (s.dev.job.gen + 1) % 2 ^ 32
           step := stepBefore s.dev.job.number, sender := myRank s.dev, entry := 0 } ∈ t.dev.out) ∧
   ∀ s : State, wantsStep s.dev = true → ∃ t, exec .stepWantRepeat s = .next t ∧
     t.dev.job = { s.dev.job with wantSent := true } ∧ t.dev.mem = s.dev.mem ∧
     t.dev.out = [.particle s.dev.fab.up (partitionNode s.dev 0)
       { type := 0x04, status := 0, group := 0, gen := s.dev.job.gen, step := s.dev.job.number, sender := myRank s.dev
         entry := 0 }]) ∧
  ((∀ s : State, fwRuns s.dev = true → s.dev.job.halted = false → isLead s.dev = true → s.dev.job.inFlight = true →
     s.dev.job.localDone = true → inBoundary s.dev = false → s.dev.onTaken = false → s.dev.twin.state ≠ .mirror →
     s.dev.job.named = [] → s.dev.job.agreement = false →
     let n := (if s.dev.job.restartFrom = stepBefore s.dev.job.number then s.dev.job.restarts else 0) + 1
     n ≤ regField s.dev .cfgRestart 0 8 →
     ∃ t, exec .stepDoneTimeout s = .next t ∧ t.dev.job.inFlight = false ∧
       t.dev.job.gen = (s.dev.job.gen + 1) % 2 ^ 32 ∧ t.dev.job.number = s.dev.job.number ∧ t.dev.job.restarts = n ∧
       t.dev.job.halted = false ∧ t.dev.work.issue = none ∧ t.dev.mem = s.dev.mem ∧ t.dev.role.reqs = s.dev.role.reqs) ∧
   (∀ s : State, fwRuns s.dev = true → s.dev.job.halted = false → isLead s.dev = true → s.dev.job.awaitReady = true →
     ∃ t, exec .readyWaitTimeout s = .next t ∧ t.dev.job.halted = true ∧ t.dev.job.haltGen = s.dev.job.gen ∧
       t.dev.job.awaitReady = false ∧ t.dev.job.number = s.dev.job.number ∧ t.dev.mem = s.dev.mem ∧
       t.dev.role = s.dev.role) ∧
   ∀ s : State, fwRuns s.dev = true → s.dev.job.halted = false → isLead s.dev = false → s.dev.job.inFlight = true →
     s.dev.job.doneSent = true → s.dev.job.startOrdered = false → inBoundary s.dev = false → s.dev.twin.state ≠ .mirror → mirrors s.dev = false →
     ∃ t, exec .stepStartTimeout s = .next t ∧ t.dev.job.halted = true ∧ t.dev.job.number = s.dev.job.number ∧
       t.dev.mem = s.dev.mem ∧ t.dev.role = s.dev.role ∧
       .particle s.dev.fab.up (partitionNode s.dev 0)
         { type := 0x03, status := 0, group := 0, gen := s.dev.job.gen, step := s.dev.job.number, sender := myRank s.dev
           entry := 0 } ∈ t.dev.out)

/-! ### Tiers -/

/-- TIER_COPY_DONE ends a copy in flight: its slot is copied byte for byte, and a MOVE waits for the next action 4;
REQUANTISATION_DONE ends a re-quantisation: the FP4 slot is written, and a REQUANT waits (R208, R214). Lists stay until
then. That an action 4 held by a replay applies the edit at once is R242's case, left out here. -/
def Obligations.CopiesQueueEdits : Prop :=
  ∀ (s : State) (c : TierCopy) (x : CopyRun), serving s.dev = true → s.dev.onTaken = false → c.taken = false →
    s.dev.bnd.ops.head? ≠ some .hold → ErrorFree s.dev →
    let queued := fun (t : State) (flags : BitVec 7) =>
      t.dev.role.col.fwEdits = s.dev.role.col.fwEdits ++
          [{ requant := x.requant, key := x.key, index := x.index, dest := x.dest, gen := x.gen, flags := flags }] ∧
        t.dev.role.copies = s.dev.role.copies.filter (· ≠ x) ∧ t.dev.role.lists = s.dev.role.lists ∧
        t.dev.role.reqs = s.dev.role.reqs ∧ t.dev.job = s.dev.job
    (runOfCopy s.dev false c = some x →
      ∃ t, exec (.tierCopyDone c) s = .next t ∧ queued t 0#7 ∧
        t.dev.mem = (writeSlot x.dest (readSlot x.source (slotBytes x.dh x.source.fp4) s.dev).1 (entry s)).mem) ∧
    (runOfCopy s.dev true c = some x →
      let y := requantSlot x.dh (min 256 ((listAt s.dev x.key).npos - 256 * x.index)) s.dev.freeCtr
        (readSlot x.source (slotBytes x.dh false) s.dev).1
      ∃ t, exec (.requantisationDone c) s = .next t ∧ queued t y.2 ∧
        t.dev.mem = (writeSlot x.dest y.1 (entry s)).mem)

/-! ### Fabric -/

/-- A frame of a chunk that an operation expects is placed in memory at the chunk's own place and waits in its receive context
until the chunk is whole (R291); the same holds for a result chunk of the switch (R309). A whole chunk with a wrong CRC is
answered with NAK and does not arrive; a frame of a chunk that has arrived is acknowledged again and has no other
effect. -/
def Obligations.FramesGather : Prop :=
  ∀ (s : State) (port : Fin 8) (f : Frame) (t : TrigEntry) (g : Group) (a : Nat), serving s.dev = true → mirrors s.dev = false →
    staleFrame s.dev f = false → trigOf s.dev f.entry = some t → groupOf s.dev f.group = some g → t.group = f.group →
    (runOf s.dev f.entry).failed = false → f.payload ≠ [] → ErrorFree s.dev → s.dev.work.raced = [] →
    rangeInMap (a + frameSize * f.frag) f.payload.length = true →
    (s.dev.fab.receive.filter fun x => x.port = port.val && !x.arrived).length < 2048 →
    let placed := { s.dev.mem with bytes := writeBytes s.dev.mem.bytes (a + frameSize * f.frag) f.payload }
    let waits := fun (kind : Nat) (u : State) => u = { s with dev := { entry s with
      mem := placed
      work := { s.dev.work with past := s.dev.work.past ++ [(a + frameSize * f.frag, f.payload.length)] }
      fab := { s.dev.fab with receive := putRx kind f (rxAdd f (rxNew port.val kind f)) s.dev.fab.receive } } }
    (∀ k, rankOfNode g f.src = some k → dataDest t g.members g.myRank k f.phase f.piece f.index = some (.memory a) →
      frameOk s.dev [1, 2, 3] f = true → f.agree = agreeWord t (fmtByte t.type) g.gen →
      s.dev.fab.receive.find? (matchesRx 0x01 f) = none →
      (rxWhole (rxAdd f (rxNew port.val 0x01 f)) = false →
        ∃ u, exec (.data (port.castLE (by decide)) f) s = .next u ∧ waits 0x01 u) ∧
      (f.nfrag = 0 → f.frag = 0 → crc32c f.payload ≠ f.crc → s.dev.twin.state = .unpaired →
        ∃ u, exec (.data (port.castLE (by decide)) f) s = .next u ∧ u.dev.job = s.dev.job ∧
          u.dev.fab.entries = s.dev.fab.entries ∧
          u.dev.out = [.frame port.val 0x03 (answerFrame s.dev f)])) ∧
    (∀ (k : Nat) (dest : Dest) (x : RxChunk), rankOfNode g f.src = some k →
      dataDest t g.members g.myRank k f.phase f.piece f.index = some dest → frameOk s.dev [1, 2, 3] f = true →
      s.dev.fab.receive.find? (matchesRx 0x01 f) = some x → x.arrived = true → s.dev.twin.state = .unpaired →
      exec (.data (port.castLE (by decide)) f) s = .next { s with dev := { s.dev with
        out := [.frame port.val 0x02 (answerFrame s.dev f)] } }) ∧
    ((runOf s.dev f.entry).fired = true → (runOf s.dev f.entry).method = .inSwitch →
      resultDest t g.members g.myRank f.piece f.index = some (.memory a) → frameOk s.dev [1] f = true →
      s.dev.fab.receive.find? (matchesRx 0x14 f) = none → rxWhole (rxAdd f (rxNew port.val 0x14 f)) = false →
      ∃ u, exec (.oredResult port f) s = .next u ∧ waits 0x14 u)

/-- ACK (R292, R298, R338, R416): the particle, the chunk, or the chunk of a record of the twin that it names waits no longer. Every other
chunk stays as it is, no other being ready to leave; a chunk of step work may complete its entry, and an export page gains
its acknowledged chunk. -/
def Obligations.AcksEndTransport : Prop :=
  ∀ (s : State) (port : Fin 8) (f : Frame) (page : Option Doorbell), serving s.dev = true → mirrors s.dev = false →
    frameOk s.dev [0, 1, 2, 3] f = true →
    let p : Fin 9 := port.castLE (by decide)
    (∀ (id : Nat) (x : TxParticle), f.vc = 0 →
      s.dev.fab.particles.find? (fun e => matchesParticle f e.2) = some (id, x) →
      exec (.ack p f page) s = .next { s with dev := { entry s with
        fab := { s.dev.fab with particles := Tab.drop s.dev.fab.particles id } } }) ∧
    (∀ (id : Nat) (x : TxChunk), f.vc ≠ 0 → answersOwn s.dev f = true →
      findChunk s.dev port.val f = some (id, x) → NoneReady s.dev →
      let d : Device := { entry s with fab := { s.dev.fab with chunks := Tab.drop s.dev.fab.chunks id } }
      exec (.ack p f page) s = .next { s with dev :=
        (if x.chunk.ftype = 0x20 then ownTurn (exportAcked x.chunk.entry x.chunk.gen x.chunk.step) d else settle d) }) ∧
    (f.gen = s.dev.twin.attachGen → s.dev.job.localDone = false →
      exec (.ack 8 f page) s = .next { s with dev := { entry s with
        twin := { s.dev.twin with unacked := s.dev.twin.unacked.filter fun u =>
          !(u.chunk.piece = f.piece && u.chunk.index = f.index) } } })

/-- NAK of a chunk, and TRANSPORT_RETRY_TIMEOUT within the limit, send it whole once more, on its port or the next one that is up
(R292, R293; a chunk of a plane always on its own port, R309), and count a resend (R328); no other chunk being ready, its frames are all that leaves. A record of the twin
is made of such chunks, which leave by the twin port (R416). PARTICLE_RETRY_TIMEOUT sends every copy of the particle again; past the limit the particle is given
up (R298). -/
def Obligations.ResendsLeave : Prop :=
  ∀ s : State, serving s.dev = true → mirrors s.dev = false →
    let resent := satAdd 20 s.dev.errs.resends 1
    let again := fun (id : Nat) (x : TxChunk) (t : State) =>
      let y : TxChunk := { x with
        port := if isPlaneChunk x then x.port else routePort s.dev x.port
        resends := x.resends + 1, waiting := false, again := false }
      t.dev.out = (chunkFrames s.dev x.chunk).map (fun g => .frame y.port x.chunk.ftype g) ∧
        t.dev.fab.chunks = Tab.put s.dev.fab.chunks id y ∧ t.dev.errs = { s.dev.errs with resends := resent } ∧
        t.dev.fab.particles = s.dev.fab.particles ∧ t.dev.job = s.dev.job ∧ t.dev.mem = s.dev.mem ∧
        t.dev.role = s.dev.role
    (∀ (id : Nat) (x : TxChunk), Tab.find s.dev.fab.chunks id = some x → x.chunk.vc ∈ [1, 2, 3] →
      x.chunk.bytes.length ≤ 65536 → x.port < 8 → (∀ v, v ∈ [1, 2, 3] → 9216 ≤ quantum s.dev v) → NoneReady s.dev →
      (∀ (port : Fin 8) (f : Frame), frameOk s.dev [1, 2, 3] f = true → answersOwn s.dev f = true →
        findChunk s.dev port.val f = some (id, x) →
        ∃ t, exec (.nak (port.castLE (by decide)) f) s = .next t ∧ again id x t) ∧
      (x.resends < regField s.dev .fabRetry 24 4 → ∃ t, exec (.transportRetryTimeout id) s = .next t ∧ again id x t)) ∧
    (∀ (u : TwinSent) (f : Frame),
      let after : State := { s with dev := { s.dev with
        out := (chunkFrames s.dev u.chunk).map (fun g => .frame 8 0x01 g), errs := { s.dev.errs with resends := resent }
        twin := { s.dev.twin with
          unacked := s.dev.twin.unacked.map fun x => if x.id = u.id then { x with resends := x.resends + 1 } else x } } }
      (frameOk s.dev [1, 2, 3] f = true → f.gen = s.dev.twin.attachGen → twinNamed s.dev f = some u →
        exec (.nak 8 f) s = .next after) ∧
      (∀ id, Tab.find s.dev.fab.chunks id = none → s.dev.twin.unacked.find? (fun v => v.id = id) = some u →
        u.resends < regField s.dev .fabRetry 24 4 → exec (.transportRetryTimeout id) s = .next after)) ∧
    ∀ (id : Nat) (x : TxParticle), Tab.find s.dev.fab.particles id = some x →
      exec (.particleRetryTimeout id) s = .next { s with dev :=
        (if x.resends < regField s.dev .fabRetry 24 4 then { s.dev with
          out := [.particle s.dev.fab.up x.node x.particle]
          fab := { s.dev.fab with particles := Tab.put s.dev.fab.particles id { x with resends := x.resends + 1 } } }
        else { entry s with fab := { s.dev.fab with particles := Tab.drop s.dev.fab.particles id } }) }

/-- Ports (R285, R293, R322): a port that comes up is up, one that goes down is down with its event, and the same for the twin
port, where an idle pair is then lost (R422). -/
def Obligations.PortsChange : Prop :=
  (∀ (s : State) (p : Fin 8), fwRuns s.dev = true → s.dev.test.busy = false →
    exec (.portUp p) s = .next { s with dev := { entry s with fab := { s.dev.fab with up := s.dev.fab.up ||| (1#8 <<< p.val) } } } ∧
    exec .twinPortUp s = .next { s with dev := { entry s with fab := { s.dev.fab with twinUp := true } } }) ∧
  (∀ (s : State) (p : Fin 8), powered s.dev = true → s.dev.job.fatal = false → s.dev.fab.up.getLsbD p.val = true →
    s.dev.fab.entries = [] → trigTable s.dev = [] →
    ∃ t, exec (.portDown p) s = .next t ∧ t.dev.fab.up = s.dev.fab.up &&& ~~~(1#8 <<< p.val) ∧
      t.dev.fab.downEvt = s.dev.fab.downEvt ||| (1#8 <<< p.val) ∧ t.dev.fab.particles = s.dev.fab.particles ∧
      t.dev.job = s.dev.job ∧ t.dev.mem = s.dev.mem ∧ t.dev.role = s.dev.role) ∧
  (∀ s : State, powered s.dev = true → s.dev.job.fatal = false → s.dev.twin.state = .unpaired → s.dev.job.inFlight = false →
    ∀ page, exec (.twinPortDown page) s = .next { s with dev := { entry s with fab := { s.dev.fab with twinUp := false } } }) ∧
  ∀ s : State, serving s.dev = true → s.dev.twin.state = .paired → s.dev.job.inFlight = false →
    ∀ page, ∃ t, exec (.twinPortDown page) s = .next t ∧ t.dev.fab.twinUp = false ∧ t.dev.twin.state = .lost ∧
      t.dev.twin.shadow = s.dev.twin.shadow ∧ t.dev.twin.unacked = [] ∧ t.dev.role = s.dev.role ∧
      t.dev.mem = s.dev.mem

/-- CONTRIBUTION_FOLD folds the next rank's contribution to a chunk (R307); a plane's answer is noted while others are missing, and
planes that have not answered in time count as REFUSE, which completes the answers (R309). -/
def Obligations.ReductionsProceed : Prop :=
  ∀ (s : State) (t : TrigEntry) (g : Group), serving s.dev = true → OneEntryRuns s.dev t → s.dev.job.faulted = false →
    groupOf s.dev t.group = some g →
    let r := runOf s.dev 0
    (∀ rank chunk : Nat, s.dev.job.inFlight = true → isReduction t.op = true → r.method = .direct →
      rank + 1 < g.members → chunk < chunkCount (bytesFor t.type (pieceLen t.n g.members g.myRank)) →
      (rank = g.myRank ∨ (rank, 0, g.myRank, chunk) ∈ r.arrived) → Tab.getD r.folded chunk 0 = rank →
      (foldChunk 0 t g rank chunk (entry s)).job = s.dev.job →
      ∃ u, exec (.contributionFold 0 rank chunk) s = .next u ∧
        Tab.getD (runOf u.dev 0).folded chunk 0 = rank + 1 ∧
        (∀ k, k ≠ chunk → Tab.getD (runOf u.dev 0).folded k 0 = Tab.getD r.folded k 0) ∧
        u.dev.job = s.dev.job ∧ u.dev.role = s.dev.role) ∧
    (∀ (port : Fin 8) (f : Frame), mirrors s.dev = false → f.entry = 0 → f.group = t.group → r.method = .asking → r.answers.length < 7 →
      r.answers.any (·.1 = port.val) = false → frameOk s.dev [1] f = true → f.len = 8 → staleFrame s.dev f = false →
      NoneReady s.dev →
      let noted := fun (grant : Bool) => (Host.Outcome.next { s with dev := (setRun 0
        { r with answers := r.answers ++ [(port.val, grant)] } (entry s)) } : Host.Outcome State Fault Refusal)
      (allZero f.payload = true → exec (.oredGrant port f) s = noted true) ∧
      (1 ≤ field f.payload 0 1 → field f.payload 0 1 ≤ 4 → allZero (f.payload.drop 1) = true →
        exec (.oredRefuse port f) s = noted false)) ∧
    (r.method = .asking →
      let answers := r.answers ++ (silentPlanes r).map fun p => (p, false)
      exec (.oredAnswerTimeout 0) s = .next { s with dev :=
        (settle (decide8 0 t g (setRun 0 { r with answers := answers } (entry s)))) } ∧
        8 ≤ answers.length)

/-- A collective that makes no progress in time, whose chunk is not acknowledged after its last resend, or whose peer reports
COLL_FAIL, fails (R292, R319, R320): its entry has failed, no chunk of it is kept (an export page carries another ENTRY), and
the step faults; a member that COLL_FAIL told tells no other. -/
def Obligations.CollectivesFail : Prop :=
  ∀ (s : State) (e : Fin 4096) (t : TrigEntry), StepAtMember s.dev = true → trigOf s.dev e.val = some t →
    (runOf s.dev e.val).failed = false →
    let ended := fun (u : State) => (runOf u.dev e.val).failed = true ∧ u.dev.job.faulted = true ∧
      (∀ c ∈ u.dev.fab.chunks, c.2.chunk.entry ≠ e.val ∨ c.2.chunk.ftype = 0x20) ∧ u.dev.mem = s.dev.mem ∧
      u.dev.role = s.dev.role ∧ u.dev.job.number = s.dev.job.number
    ((runOf s.dev e.val).fired = true → (runOf s.dev e.val).complete = false → (runOf s.dev e.val).method ≠ .asking →
      ∃ u, exec (.collectiveProgressTimeout e) s = .next u ∧ ended u) ∧
    (∀ (id : Nat) (x : TxChunk), Tab.find s.dev.fab.chunks id = some x → x.chunk.entry = e.val → x.waiting = false →
      x.chunk.ftype = 0x01 ∨ x.chunk.ftype = 0x13 → regField s.dev .fabRetry 24 4 ≤ x.resends →
      ∃ u, exec (.transportRetryTimeout id) s = .next u ∧ ended u) ∧
    ∀ (pin : ParticleIn) (p : Particle), Fresh s.dev pin p 0x10 → p.step = s.dev.job.number → p.entry = e.val →
      p.group = t.group → (groupOf s.dev p.group).map (·.gen) = some p.gen →
      ∃ u, exec (.collFail pin) s = .next u ∧ ended u ∧
        ∀ b n y, .particle b n y ∈ u.dev.out → y.type ≠ 0x10

/-! ### Shipping -/

/-- The export engine (R333 to R340): the next eligible page starts under the list's next sequence number; a credit particle
raises the credit; a page that waits for credit too long makes its export fail for want of credit. -/
def Obligations.ExportsProceed : Prop :=
  ∀ s : State, serving s.dev = true → s.dev.onTaken = false → s.dev.twin.state = .unpaired →
    (∀ (h : Nat) (p : ExportPage) (x : Shipping) (l : SlotList), ErrorFree s.dev →
      nextPage s.dev = some (h, p) → shipOf s.dev h = some x → Tab.find s.dev.fab.slotLists x.list = some l →
      l.gen = x.gen → l.seq < l.credit → ((shipsOf s.dev).flatMap fun y => y.pages.filter underWay).length < 512 →
      ∃ t, exec .exportPageStart s = .next t ∧
        Tab.find t.dev.fab.slotLists x.list = some { l with seq := l.seq + 1 } ∧
        (shipOf t.dev h).map (·.started) = some (x.started + 1) ∧ t.dev.mem = s.dev.mem ∧ t.dev.job = s.dev.job) ∧
    (∀ (pin : ParticleIn) (p : Particle) (l : SlotList), Fresh s.dev pin p 0x20 →
      Tab.find s.dev.fab.slotLists p.status = some l → pin.frame.src = l.node → p.gen = l.gen → l.credit < p.step →
      exec (.exportCredit pin) s = .next { s with dev := { s.dev with
        out := [ackOf s.dev pin]
        fab := { s.dev.fab with
          seen := s.dev.fab.seen ++ [(pin.frame.src, p)]
          slotLists := Tab.put s.dev.fab.slotLists p.status { l with credit := p.step } } } }) ∧
    ∀ (h : Nat) (x : Shipping), shipOf s.dev h = some x → waitsForCredit s.dev x = true → x.closed = false →
      x.failure = none → ∃ t, exec (.creditWaitTimeout h) s = .next t ∧
        (shipOf t.dev h).map (·.failure) = some (some .credit) ∧ t.dev.mem = s.dev.mem ∧ t.dev.job = s.dev.job

/-! ### The twin -/

/-- Records of the twin under the current attach generation are acknowledged and act by their kind (R416 to R422); one of
another generation is discarded as stale. A DETACH does not say whether a mismatch sent it: between paired twins the model
leaves open whether it is noted for action 4 or is a fault detach (notes/assumptions 50); that a mirror in no boundary ends at once
is the model's choice too (notes/assumptions 49).
Waits of the twin (R418, R422): a record that is not acknowledged in time loses the pair, whose shadow stays for a takeover;
an attach without HELLO ends unpaired, and its descriptor completes with BAD_DESCRIPTOR. -/
def Obligations.TwinRecordsActAndWaitsExpire : Prop :=
  (∀ s : State, serving s.dev = true →
     let g := s.dev.twin.attachGen
     let d := fun (r : TwinRec) => ackRecord r (entry s)
     (∀ h : Hello, s.dev.twin.state = .attaching →
       (s.dev.twin.mode = 2 → s.dev.twin.primary = false → inBoundary s.dev = true) →
       exec (.hello g h) s = .next { s with dev := { d (.hello h) with twin := { (d (.hello h)).twin with peerHello := some h } } }) ∧
     (∀ (k : Nat) (h : Hello), k ≠ g → exec (.hello k h) s = .next { s with dev := { entry s with
       errs := { s.dev.errs with stale := satAdd48 s.dev.errs.stale 1 } } }) ∧
     (∀ r : SyncRec, s.dev.twin.state = .syncing → s.dev.twin.mode = 1 → s.dev.twin.synced = false →
       bytesOfUses (roleUses { s.dev with role := r.role } r.role).eraseDups ≤ shadowSize s.dev →
       ∃ t x, exec (.sync g r) s = .next t ∧
         t.dev.twin.synced = true ∧ t.dev.twin.shadow = some x ∧ x.base = r.step ∧ x.step = none ∧ x.records = r.records ∧
         x.results = [] ∧ t.dev.role = s.dev.role ∧ t.dev.job = s.dev.job) ∧
     (∀ (r : TwinResult) (x : Shadow), s.dev.twin.state = .paired → s.dev.twin.mode = 1 → s.dev.twin.shadow = some x →
       let e := d (.result r)
       ∀ page, exec (.result g r page) s = .next { s with dev := { e with twin := { e.twin with
         shadow := some { x with results := (x.results.filter (·.step ≠ r.step)) ++ [r] } } } }) ∧
     (∀ r : BoundaryRec, s.dev.twin.state = .mirror → s.dev.twin.mode = 2 → s.dev.twin.primary = false →
       s.dev.job.inFlight = false →
       let e := d (.boundary r)
       ∀ page, exec (.boundary g r page) s = .next { s with dev := { e with twin := { e.twin with
         orders := e.twin.orders ++ [r] } } }) ∧
     (∀ (n : Nat) (items : List LogItem), s.dev.twin.state = .mirror → s.dev.job.inFlight = false →
       let e := d (.order n items)
       exec (.order g n items) s = .next { s with dev := { e with twin := { e.twin with mirrorStart := some (n, items) } } }) ∧
     (∀ (port : Fin 8) (f : Frame), s.dev.twin.state = .mirror → s.dev.twin.parked = none → s.dev.job.inFlight = true →
       f.step = s.dev.job.number → f.gen ≤ s.dev.job.gen →
       exec (.forward g false port f) s = .next { s with dev := dataFrame port.val f (d (.forward false port.val f)) } ∧
       exec (.forward g true port f) s = .next { s with dev := resultFrame port.val f (d (.forward true port.val f)) }) ∧
     (s.dev.job.inFlight = false → ∀ page,
       (s.dev.twin.state = .attaching ∨ s.dev.twin.state = .mirrorPrimary →
         exec (.detach g page) s = .next { s with dev := { d .detach with
           twin := { (d .detach).twin with detachNote := true } } }) ∧
       (s.dev.twin.state = .mirror → s.dev.twin.parked = none → inBoundary s.dev = false →
         ∃ t, exec (.detach g page) s = .next t ∧ t.dev.twin.state = .unpaired ∧ t.dev.twin.retired = true ∧
           t.dev.role = s.dev.role ∧ t.dev.mem = s.dev.mem ∧ t.dev.job = s.dev.job) ∧
       (s.dev.twin.state = .paired →
         ∃ t, exec (.detach g page) s = .next t ∧ t.dev.role = s.dev.role ∧ t.dev.mem = s.dev.mem ∧ t.dev.job = s.dev.job ∧
           ((t.dev.twin.state = .paired ∧ t.dev.twin.detachNote = true) ∨
             (t.dev.twin.state = .unpaired ∧ t.dev.twin.shadow = none ∧ t.dev.twin.unacked = []))))) ∧
  ((∀ s : State, serving s.dev = true → s.dev.twin.state = .paired → s.dev.twin.unacked ≠ [] → s.dev.job.inFlight = false →
     ∀ page, ∃ t, exec (.twinWaitTimeout page) s = .next t ∧ t.dev.twin.state = .lost ∧ t.dev.twin.shadow = s.dev.twin.shadow ∧
       t.dev.twin.unacked = [] ∧ t.dev.role = s.dev.role ∧ t.dev.job = s.dev.job ∧ t.dev.mem = s.dev.mem) ∧
   ∀ s : State, serving s.dev = true → s.dev.twin.state = .attaching → s.dev.twin.peerHello = none → s.dev.twin.left = 0 →
     inBoundary s.dev = false → s.dev.bnd.posting = [] → s.dev.onTaken = false → cqEnabled s.dev s.dev.twin.cq = true →
     queueFull s.dev (64 + s.dev.twin.cq) = false →
     ∃ t, exec .twinHelloTimeout s = .next t ∧ t.dev.twin.state = .unpaired ∧ t.dev.out = [] ∧
       t.dev.queues = (pushPacket (64 + s.dev.twin.cq)
         (completionWords 0x10 0x41 0 0 0 s.dev.twin.tag s.dev.job.number 0) s.dev).queues ∧
       t.dev.role = s.dev.role ∧ t.dev.job = s.dev.job ∧ t.dev.mem = s.dev.mem)

/-! ### Faults -/

/-- STEP errors at a member other than member 0 (R402, R404, R36): the event record names the unit, the step faults, the unit is
noted for its fence, vector 0 has its message where it is not masked, and STEP_DONE with FAULT goes to member 0: that it goes at once,
before local done, is the model's choice (notes/assumptions 32). A tile that runs
and makes no progress names its cell, unless a throttled island may have stretched its budget (R428, R435). A link retry within
its budget only counts (R406), and the link that a loop-back tests has its retry off (R495).
The watchdogs of hub and region managers and a parity error in a region manager's memory stop the device (R401, R402, R473):
FATAL, PHASE HALTED, ports down, work gone. -/
def Obligations.ErrorsReportAndWatchdogsStop : Prop :=
  (∀ s : State, StepAtMember s.dev = true → (queueOf s.dev 128).gap = 0 → queueFull s.dev 128 = false →
     (queueOf s.dev 128).cut = false →
     let reported := fun (u : State) (level block cell info : Nat) (named : List ErrorSite) =>
       u.dev.job.faulted = true ∧ u.dev.job.named = s.dev.job.named ++ named ∧ u.dev.job.number = s.dev.job.number ∧
         (queueOf u.dev 128).words.map (·.data) = (queueOf s.dev 128).words.map (·.data) ++
           eventWords s.dev .stepFault level block cell s.dev.job.number info ∧
         u.dev.out = (msix 0 (entry s)).out ++ [.particle s.dev.fab.up (partitionNode s.dev 0)
           { type := 0x02, status := 1, group := 0, gen := s.dev.job.gen, step := s.dev.job.number, sender := myRank s.dev
             entry := 0 }] ∧
         u.dev.mem = s.dev.mem ∧ u.dev.role = s.dev.role ∧ u.dev.work = s.dev.work ∧ u.dev.active = s.dev.active
     (∀ site : ErrorSite, siteInUse s.dev site = true → (∀ r, site ≠ .regionManager r) →
       ∃ u, exec (.residueMismatch site) s = .next u ∧
         reported u (sitePlace site).1 (sitePlace site).2.1 (sitePlace site).2.2 0 [site]) ∧
     (∀ x : CtxId, tileRuns x s.dev = true → ∃ u named, exec (.tileWatchdog x) s = .next u ∧
       reported u 0 x.block.val x.cell.val 0 named ∧ (named = [.cell x.block x.cell] ∨ named = []) ∧
       ((∀ i ∈ s.dev.power.throttled, ∀ r, i ≠ .rm r) → named = [.cell x.block x.cell])) ∧
     let tested := fun (l : Fin 24) => s.dev.test.busy = true ∧ s.dev.test.target = 4 ∧ s.dev.test.index = l.val
     (∀ (l : Fin 24) (x : Bool), tested l → exec (.linkRetryTimeout l x) s = .next { s with dev := entry s }) ∧
     (∀ l : Fin 24, ¬ tested l → ∃ u, exec (.linkRetryTimeout l true) s = .next u ∧ reported u 2 0xFF 0xF 0 []) ∧
     (∀ l : Fin 24, ¬ tested l → ∃ u, exec (.linkRetryTimeout l false) s = .next u ∧
       u.dev.errs = { s.dev.errs with corr := satAdd48 s.dev.errs.corr 1 } ∧ u.dev.job = s.dev.job ∧ u.dev.out = [] ∧
       (queueOf u.dev 128).words.map (·.data) = (queueOf s.dev 128).words.map (·.data) ++
         eventWords s.dev .corrected 2 0xFF 0xF s.dev.job.number l.val ∧ u.dev.mem = s.dev.mem) ∧
     (s.dev.job.inFlight = true → ∃ u, exec (.completionTimeout .step) s = .next u ∧ reported u 3 0xFF 0xF 0 [])) ∧
  (∀ (s : State) (c : Instr),
     (c = .hubCoreWatchdog ∨ ∃ r, c = .regionManagerWatchdog r ∨ c = .residueMismatch (.regionManager r)) →
     fwRuns s.dev = true →
     ∃ t, exec c s = .next t ∧ t.dev.job.fatal = true ∧ t.dev.job.halted = true ∧ t.dev.boot.phase = .halted ∧
       t.dev.fab.up = 0#8 ∧ t.dev.fab.twinUp = false ∧ t.dev.work = Work.idle ∧ t.dev.hif.fetched = [] ∧
       t.dev.hif.queries = [] ∧ t.dev.role.held = [] ∧ t.dev.hif.log.mode = 0 ∧ t.dev.mem = s.dev.mem ∧
       t.dev.fuses = s.dev.fuses ∧ t.dev.job.number = s.dev.job.number)

/-- A scrubber reads the next word of its memory and goes on to the one after it, round again at the end (R451); one wrong symbol
is corrected and counted (R448, R449). -/
def Obligations.ScrubsAdvance : Prop :=
  ∀ (s : State) (site : ScrubSite), scrubRuns s.dev site = true → ErrorFree s.dev → memWf s.dev.mem.bytes = true →
    let k := Tab.getD s.dev.scrub (scrubIndex site) 0
    let next := Tab.put s.dev.scrub (scrubIndex site) ((k + 1) % scrubWords site)
    exec (.scrubRead site { symbols := [], stackCorrected := false, stackUncorrected := false }) s =
      .next { s with dev := { entry s with scrub := next } } ∧
    ∀ (p : Nat) (v : Byte), p < 35 → v ≠ 0#8 →
      ∃ t, exec (.scrubRead site { symbols := [(p, v)], stackCorrected := false, stackUncorrected := false }) s = .next t ∧
        t.dev.scrub = next ∧ t.dev.mem = s.dev.mem ∧ t.dev.errs.corr = satAdd48 s.dev.errs.corr 1 ∧
        t.dev.errs.ue = s.dev.errs.ue ∧ t.dev.job = s.dev.job
end

