-- ==== Sys2Proof/Laws/Memory.lean ====
section
/-!
SUPPORT. Memory: its operations keep the canonical form; what a byte reads after a write; accesses to memory that holds no
error.
-/
set_option Elab.async false
namespace Sys2Proof.Machine

/-! ### The canonical form -/

/-- The canonical form as two facts about all entries. -/
theorem memWf_iff (m : Memory) : memWf m = true ↔ m.Pairwise (fun x y => x.1 < y.1) ∧ ∀ e ∈ m, e.2 ≠ 0#8 := by
  induction m with
  | nil => simp [memWf]
  | cons e r ih =>
    cases r with
    | nil => simp [memWf]
    | cons f t =>
      obtain ⟨a, v⟩ := e
      obtain ⟨b, w⟩ := f
      simp only [memWf, Bool.and_eq_true, ih, bne_iff_ne, decide_eq_true_eq, List.pairwise_cons, List.mem_cons,
        forall_eq_or_imp]
      constructor
      · rintro ⟨⟨hv, hab⟩, ⟨hb, ht⟩, hw, hz⟩
        exact ⟨⟨⟨hab, fun x hx => Nat.lt_trans hab (hb x hx)⟩, hb, ht⟩, hv, hw, hz⟩
      · rintro ⟨⟨⟨hab, -⟩, hb, ht⟩, hv, hw, hz⟩
        exact ⟨⟨hv, hab⟩, ⟨hb, ht⟩, hw, hz⟩

/-- The entries of consecutive bytes lie in their range, rise strictly and list no 0. -/
theorem listed_canonical (a : Nat) (bs : List Byte) :
    (writeBytes.listed a bs).Pairwise (fun x y => x.1 < y.1) ∧
      ∀ e ∈ writeBytes.listed a bs, e.2 ≠ 0#8 ∧ a ≤ e.1 ∧ e.1 < a + bs.length := by
  induction bs generalizing a with
  | nil => simp [writeBytes.listed]
  | cons b r ih =>
    have h := ih (a + 1)
    simp only [writeBytes.listed]
    split
    · refine ⟨h.1, fun e he => ?_⟩
      have := h.2 e he
      simp only [List.length_cons]
      exact ⟨this.1, by omega, by omega⟩
    · refine ⟨List.pairwise_cons.2 ⟨fun e he => ?_, h.1⟩, fun e he => ?_⟩
      · have := h.2 e he
        simp only; omega
      · rcases List.mem_cons.1 he with rfl | he
        · simp_all
        · have := h.2 e he
          simp only [List.length_cons]
          exact ⟨this.1, by omega, by omega⟩

/-- What is left past a bound of a strictly rising memory is what lies at or above the bound. -/
theorem dropWhile_bound (m : Memory) (n : Nat) (h : m.Pairwise (fun x y => x.1 < y.1)) :
    ∀ e ∈ m.dropWhile (fun e => e.1 < n), n ≤ e.1 := by
  induction m with
  | nil => simp
  | cons f r ih =>
    rw [List.pairwise_cons] at h
    by_cases hf : f.1 < n
    · simpa [List.dropWhile, hf] using ih h.2
    · intro e he
      simp only [List.dropWhile, hf, decide_false] at he
      rcases List.mem_cons.1 he with rfl | he
      · omega
      · have := h.1 e he; omega

theorem mem_takeWhile_lt (m : Memory) (n : Nat) : ∀ e ∈ m.takeWhile (fun e => e.1 < n), e.1 < n := by
  intro e he
  induction m with
  | nil => simp at he
  | cons f r ih =>
    by_cases hf : f.1 < n
    · simp only [List.takeWhile, hf, decide_true, List.mem_cons] at he
      rcases he with rfl | he
      · exact hf
      · exact ih he
    · simp [List.takeWhile, hf] at he

/-- A write of consecutive bytes keeps the canonical form. -/
theorem memWf_writeBytes (m : Memory) (a : Nat) (bs : List Byte) (h : memWf m = true) :
    memWf (writeBytes m a bs) = true := by
  rw [memWf_iff] at h ⊢
  obtain ⟨hp, hz⟩ := h
  obtain ⟨lp, lz⟩ := listed_canonical a bs
  have hlow := mem_takeWhile_lt m a
  have hhigh := dropWhile_bound m (a + bs.length) hp
  have sub1 := List.takeWhile_sublist (l := m) (fun e : Nat × Byte => decide (e.1 < a))
  have sub2 := List.dropWhile_sublist (l := m) (fun e : Nat × Byte => decide (e.1 < a + bs.length))
  simp only [writeBytes]
  constructor
  · rw [List.pairwise_append, List.pairwise_append]
    refine ⟨⟨hp.sublist sub1, lp, fun x hx y hy => ?_⟩, hp.sublist sub2, fun x hx y hy => ?_⟩
    · have := hlow x hx; have := (lz y hy).2.1; omega
    · have hy := hhigh y hy
      rcases List.mem_append.1 hx with hx | hx
      · have := hlow x hx; omega
      · have := (lz x hx).2.2; omega
  · intro e he
    rcases List.mem_append.1 he with he | he
    · rcases List.mem_append.1 he with he | he
      · exact hz e (sub1.subset he)
      · exact (lz e he).1
    · exact hz e (sub2.subset he)

/-- A write of one byte keeps every bound below and the canonical form. -/
theorem memWf_writeByte (m : Memory) (a : Nat) (v : Byte) (h : memWf m = true) : memWf (writeByte m a v) = true := by
  have key : ∀ m : Memory, m.Pairwise (fun x y => x.1 < y.1) → (∀ e ∈ m, e.2 ≠ 0#8) →
      (writeByte m a v).Pairwise (fun x y => x.1 < y.1) ∧ (∀ e ∈ writeByte m a v, e.2 ≠ 0#8) ∧
        ∀ n, n < a → (∀ e ∈ m, n < e.1) → ∀ e ∈ writeByte m a v, n < e.1 := by
    intro m
    induction m with
    | nil =>
      intro _ _
      simp only [writeByte]
      split <;> simp_all
    | cons f r ih =>
      intro hp hz
      obtain ⟨k, b⟩ := f
      rw [List.pairwise_cons] at hp
      have hr := ih hp.2 (fun e he => hz e (List.mem_cons_of_mem _ he))
      have hb : b ≠ 0#8 := hz (k, b) (List.mem_cons_self ..)
      simp only [writeByte]
      split
      · rename_i hk
        refine ⟨List.pairwise_cons.2 ⟨hr.2.2 k hk hp.1, hr.1⟩, ?_, ?_⟩
        · intro e he
          rcases List.mem_cons.1 he with rfl | he
          · exact hb
          · exact hr.2.1 e he
        · intro n hn hm e he
          rcases List.mem_cons.1 he with rfl | he
          · exact hm _ (List.mem_cons_self ..)
          · exact hr.2.2 n hn (fun x hx => hm x (List.mem_cons_of_mem _ hx)) e he
      · split
        · rename_i hk
          subst hk
          split
          · exact ⟨hp.2, fun e he => hz e (List.mem_cons_of_mem _ he), fun n _ hm e he => hm e (List.mem_cons_of_mem _ he)⟩
          · refine ⟨List.pairwise_cons.2 ⟨hp.1, hp.2⟩, ?_, ?_⟩
            · intro e he
              rcases List.mem_cons.1 he with rfl | he
              · assumption
              · exact hz e (List.mem_cons_of_mem _ he)
            · intro n hn hm e he
              rcases List.mem_cons.1 he with rfl | he
              · exact hn
              · exact hm e (List.mem_cons_of_mem _ he)
        · split
          · exact ⟨List.pairwise_cons.2 hp, hz, fun n _ hm => hm⟩
          · refine ⟨List.pairwise_cons.2 ⟨fun e he => ?_, List.pairwise_cons.2 hp⟩, ?_, ?_⟩
            · rcases List.mem_cons.1 he with rfl | he
              · simp only; omega
              · have := hp.1 e he; simp only at this ⊢; omega
            · intro e he
              rcases List.mem_cons.1 he with rfl | he
              · assumption
              · exact hz e he
            · intro n hn hm e he
              rcases List.mem_cons.1 he with rfl | he
              · exact hn
              · exact hm e he
  rw [memWf_iff] at h ⊢
  have := key m h.1 h.2
  exact ⟨this.1, this.2.1⟩

/-- A word put back keeps the canonical form. -/
theorem memWf_putWord (m : Mem) (w : Nat) (data : List Byte) (h : memWf m.bytes = true) :
    memWf (putWord m w data).bytes = true := memWf_writeBytes _ _ _ h

/-- A read of one word keeps the canonical form. -/
theorem memWf_resolveWord (m : Mem) (w : Nat) (err flips : List (Nat × Byte)) (h : memWf m.bytes = true) :
    memWf (resolveWord m w err flips).1.bytes = true := by
  simp only [resolveWord]
  repeat' split
  all_goals first | exact h | exact memWf_putWord _ _ _ h

theorem memWf_resolveWords (m : Mem) (inj : Option (Nat × List (Nat × Byte))) (ws : Tab (List (Nat × Byte)))
    (h : memWf m.bytes = true) : memWf (resolveWords m inj ws).1.bytes = true := by
  simp only [resolveWords]
  generalize ([] : List MemEvent) = es
  induction ws generalizing m es with
  | nil => exact h
  | cons e r ih => exact ih _ (memWf_resolveWord _ _ _ _ h) _

/-- A read of a range keeps the canonical form. -/
theorem memWf_touchRange (m : Mem) (a n : Nat) (h : memWf m.bytes = true) :
    memWf (touchRange m a n).2.1.bytes = true := by
  simp only [touchRange]
  split <;> exact memWf_resolveWords _ _ _ h

/-- The word that an injection meets keeps the canonical form. -/
theorem memWf_mergeInjected (before after : Mem) (inj : Option (Nat × List (Nat × Byte))) (h : memWf after.bytes = true) :
    memWf (mergeInjected before after inj).bytes = true := by
  simp only [mergeInjected]
  repeat' split
  all_goals first | exact h | exact memWf_putWord _ _ _ h

/-- A write of a range keeps the canonical form. -/
theorem memWf_writeRange (m : Mem) (a : Nat) (bs : List Byte) (h : memWf m.bytes = true) :
    memWf (writeRange m a bs).1.bytes = true := by
  have fold : ∀ (l : List (Nat × List Byte)) (b : Memory), memWf b = true →
      memWf (l.foldl (fun acc e => writeBytes acc e.1 e.2) b) = true := by
    intro l
    induction l with
    | nil => exact fun b hb => hb
    | cons e r ih => exact fun b hb => ih _ (memWf_writeBytes _ _ _ hb)
  refine fold _ _ (memWf_writeBytes _ _ _ (memWf_mergeInjected _ _ _ (memWf_resolveWords _ _ _ ?_)))
  split <;> exact h

/-! ### What a resolution leaves alone -/

theorem resolveWord_spill (m : Mem) (w : Nat) (err flips : List (Nat × Byte)) :
    (resolveWord m w err flips).1.spill = m.spill := by
  simp only [resolveWord]
  repeat' split
  all_goals rfl

theorem resolveWords_spill (m : Mem) (inj : Option (Nat × List (Nat × Byte))) (ws : Tab (List (Nat × Byte))) :
    (resolveWords m inj ws).1.spill = m.spill := by
  simp only [resolveWords]
  generalize ([] : List MemEvent) = es
  induction ws generalizing m es with
  | nil => rfl
  | cons e r ih =>
    rw [List.foldl_cons, ih, resolveWord_spill]

/-- A read of device memory leaves the spill area. -/
theorem touchRange_spill (m : Mem) (a n : Nat) : (touchRange m a n).2.1.spill = m.spill := by
  simp only [touchRange]
  split <;> exact resolveWords_spill _ _ _

theorem mergeInjected_spill (before after : Mem) (inj : Option (Nat × List (Nat × Byte))) :
    (mergeInjected before after inj).spill = after.spill := by
  simp only [mergeInjected]
  repeat' split
  all_goals rfl

/-- A write of device memory leaves the spill area. -/
theorem writeRange_spill (m : Mem) (a : Nat) (bs : List Byte) : (writeRange m a bs).1.spill = m.spill := by
  refine (mergeInjected_spill _ _ _).trans ((resolveWords_spill _ _ _).trans ?_)
  split <;> rfl

/-! ### Reads of several bytes -/

theorem readByte_above (m : Memory) (a : Nat) (h : ∀ e ∈ m, a < e.1) : readByte m a = 0#8 := by
  cases m with
  | nil => rfl
  | cons f r =>
    have := h f (List.mem_cons_self ..)
    simp only [readByte]
    rw [if_neg (by omega), if_pos this]

/-- Entries below the address do not matter to a read. -/
theorem readByte_dropWhile (m : Memory) (a b : Nat) (h : b ≤ a) :
    readByte (m.dropWhile (fun e => e.1 < b)) a = readByte m a := by
  induction m with
  | nil => rfl
  | cons f r ih =>
    by_cases hf : f.1 < b
    · simp only [List.dropWhile, hf, decide_true, readByte]
      rw [ih, if_neg (by omega), if_neg (by omega)]
    · simp [List.dropWhile, hf]

theorem readFrom_eq (m : Memory) (a n : Nat) (hp : m.Pairwise (fun x y => x.1 < y.1)) (h : ∀ e ∈ m, a ≤ e.1) :
    readBytes.readFrom m a n = (List.range n).map fun i => readByte m (a + i) := by
  induction n generalizing m a with
  | zero => rfl
  | succ n ih =>
    rw [List.range_succ_eq_map, List.map_cons, List.map_map]
    cases m with
    | nil =>
      simp only [readBytes.readFrom, readByte, List.replicate_succ]
      refine congrArg _ (List.ext_getElem (by simp) fun i h1 h2 => by simp)
    | cons f r =>
      obtain ⟨k, b⟩ := f
      rw [List.pairwise_cons] at hp
      have hk := h _ (List.mem_cons_self ..)
      by_cases e : k = a
      · subst e
        simp only [readBytes.readFrom, readByte, if_true, Nat.add_zero]
        rw [ih r (k + 1) hp.2 (fun x hx => hp.1 x hx)]
        congr 1
        refine List.map_congr_left fun i _ => ?_
        simp only [Function.comp, Nat.succ_eq_add_one]
        rw [if_neg (by omega), if_neg (by omega)]
        congr 1
        omega
      · simp only [readBytes.readFrom, e, if_false]
        rw [ih _ (a + 1) (List.pairwise_cons.2 hp)]
        · have z : readByte ((k, b) :: r) (a + 0) = 0#8 := by
            simp only [readByte]
            rw [if_neg (by omega), if_pos (by simp only at hk; omega)]
          rw [z]
          congr 1
          refine List.map_congr_left fun i _ => ?_
          simp only [Function.comp, Nat.succ_eq_add_one]
          congr 1
          omega
        · intro x hx
          rcases List.mem_cons.1 hx with rfl | hx
          · simp only at hk ⊢; omega
          · have := hp.1 x hx; simp only at hk this; omega

/-- Several bytes read are the bytes read one by one. -/
theorem readBytes_eq (m : Memory) (a n : Nat) (h : memWf m = true) :
    readBytes m a n = (List.range n).map fun i => readByte m (a + i) := by
  have hp := ((memWf_iff m).1 h).1
  simp only [readBytes]
  rw [readFrom_eq _ _ _ (hp.sublist (List.dropWhile_sublist _)) (dropWhile_bound m a hp)]
  refine List.map_congr_left fun i _ => ?_
  exact readByte_dropWhile m (a + i) a (by omega)

@[simp] theorem readBytes_length (m : Memory) (a n : Nat) : (readBytes m a n).length = n := by
  have key : ∀ (n a : Nat) (m : Memory), (readBytes.readFrom m a n).length = n := by
    intro n
    induction n with
    | zero => intro a m; rfl
    | succ n ih =>
      intro a m
      cases m with
      | nil => simp [readBytes.readFrom]
      | cons f r => simp only [readBytes.readFrom]; split <;> simp [ih]
  exact key _ _ _

/-- A read of a range delivers as many bytes as it has (R445). -/
@[simp] theorem touchRange_length (m : Mem) (a n : Nat) : (touchRange m a n).1.length = n := readBytes_length _ _ _

/-! ### Memory that holds no error -/

/-- A read of error-free memory delivers its bytes and changes nothing. -/
theorem touchRange_clean (m : Mem) (a n : Nat) (h : m.upsets = []) (h' : m.armed = none) :
    touchRange m a n = (readBytes m.bytes a n, m, []) := by
  simp [touchRange, metInjection, h', touchedWords, h, resolveWords, seenBytes]

/-- A write of error-free memory writes its bytes and finds nothing. -/
theorem writeRange_clean (m : Mem) (a : Nat) (bs : List Byte) (h : m.upsets = []) (h' : m.armed = none) :
    writeRange m a bs = ({ m with bytes := writeBytes m.bytes a bs }, []) := by
  simp [writeRange, metInjection, h', touchedWords, h, resolveWords, mergeInjected]

end Sys2Proof.Machine
end

