-- ==== Sys2Proof/Laws/Tables.lean ====
section
/-!
SUPPORT. What a lookup gives after an update: tables by number, setup registers, queues; lengths of bytes of numbers.
-/
set_option Elab.async false
namespace Sys2Proof.Machine

/-! ### Tables by number -/

@[simp] theorem find_nil {α : Type} (k : Nat) : Tab.find ([] : Tab α) k = none := rfl

@[simp] theorem find_put_self {α : Type} (t : Tab α) (k : Nat) (a : α) : Tab.find (Tab.put t k a) k = some a := by
  induction t with
  | nil => simp [Tab.put, Tab.find]
  | cons e r ih => simp only [Tab.put]; split <;> simp_all [Tab.find]

theorem find_put_ne {α : Type} (t : Tab α) (k j : Nat) (a : α) (h : j ≠ k) :
    Tab.find (Tab.put t k a) j = Tab.find t j := by
  induction t with
  | nil => simp [Tab.put, Tab.find, h.symm]
  | cons e r ih =>
    simp only [Tab.put]
    split
    · simp_all [Tab.find, h.symm]
    · simp only [Tab.find, ih]

@[simp] theorem find_drop_self {α : Type} (t : Tab α) (k : Nat) : Tab.find (Tab.drop t k) k = none := by
  induction t with
  | nil => rfl
  | cons e r ih =>
    by_cases h : e.1 = k
    · simpa [Tab.drop, h] using ih
    · simpa [Tab.drop, h, Tab.find] using ih

theorem find_drop_ne {α : Type} (t : Tab α) (k j : Nat) (h : j ≠ k) : Tab.find (Tab.drop t k) j = Tab.find t j := by
  induction t with
  | nil => rfl
  | cons e r ih =>
    by_cases hk : e.1 = k
    · have : e.1 ≠ j := fun h' => h (h'.symm.trans hk)
      simpa [Tab.drop, hk, Tab.find, this, h.symm] using ih
    · have step : Tab.drop (e :: r) k = e :: Tab.drop r k := by simp [Tab.drop, hk]
      simp only [step, Tab.find, ih]

@[simp] theorem getD_put_self {α : Type} (t : Tab α) (k : Nat) (a b : α) : Tab.getD (Tab.put t k a) k b = a := by
  simp [Tab.getD]

theorem getD_put_ne {α : Type} (t : Tab α) (k j : Nat) (a b : α) (h : j ≠ k) :
    Tab.getD (Tab.put t k a) j b = Tab.getD t j b := by
  simp [Tab.getD, find_put_ne t k j a h]

/-! ### Setup registers -/

/-- A register reads as it was written. -/
@[simp] theorem regGet_regSet_self (r : RegName) (v : W64) (d : Device) : regGet (regSet r v d) r = v := by
  simp only [regGet, regSet]
  generalize d.regs = l
  induction l with
  | nil => simp [putReg]
  | cons e t ih => obtain ⟨k, x⟩ := e; simp only [putReg]; split <;> simp_all [List.find?]

/-- A write to one register changes no other. -/
theorem regGet_regSet_ne (r q : RegName) (v : W64) (d : Device) (h : q ≠ r) : regGet (regSet r v d) q = regGet d q := by
  simp only [regGet, regSet]
  generalize d.regs = l
  induction l with
  | nil => simp [putReg, h.symm]
  | cons e t ih =>
    obtain ⟨k, x⟩ := e
    simp only [putReg]
    split
    · simp [*, List.find?, h.symm]
    · simp only [List.find?]; split <;> simp [*]

/-- What a register reads depends on the setup words alone. -/
theorem regGet_congr (d e : Device) (r : RegName) (h : d.regs = e.regs) : regGet d r = regGet e r := by
  simp [regGet, h]

/-! ### Queues -/

@[simp] theorem queueOf_setQueue_self (q : Nat) (x : QState) (d : Device) : queueOf (setQueue q x d) q = x := by
  simp [queueOf, setQueue]

theorem queueOf_setQueue_ne (q p : Nat) (x : QState) (d : Device) (h : p ≠ q) :
    queueOf (setQueue q x d) p = queueOf d p := by
  simp [queueOf, setQueue, getD_put_ne _ _ _ _ _ h]

/-- Words appended to a queue whose next pointers are whole (R378, R391). -/
theorem addWords_whole (x : QState) (ws : List QWord) (h : x.cut = false) :
    addWords x ws = { x with words := x.words ++ ws } := by
  simp [addWords, h]

@[simp] theorem addWords_cut (x : QState) (ws : List QWord) : (addWords x ws).cut = x.cut := by
  simp only [addWords]
  split <;> rfl

@[simp] theorem acceptFirst_cut (step : Nat) (x : QState) : (acceptFirst step x).cut = x.cut := by
  simp only [acceptFirst]
  split
  · rfl
  · exact addWords_cut _ _

/-- A packet that meets a full queue leaves its words; any other packet is appended whole, its last word marked, after the
marker of a pending gap. -/
theorem pushPacket_words (q : Nat) (ws : List W64) (d : Device) (whole : (queueOf d q).cut = false) :
    (queueOf (pushPacket q ws d) q).words =
      if queueFull d q then (queueOf d q).words
      else (acceptFirst d.job.number (queueOf d q)).words ++
        (ws.zip (List.range ws.length)).map fun p => queueWord p.1 (p.2 + 1 == ws.length) 0 := by
  simp only [pushPacket]
  split
  · cases fullKind d q <;> simp
  · simp [addWords_whole _ _ (acceptFirst_cut d.job.number (queueOf d q) ▸ whole)]

/-- A packet for one queue changes no other queue. -/
theorem pushPacket_ne (q p : Nat) (ws : List W64) (d : Device) (h : p ≠ q) :
    queueOf (pushPacket q ws d) p = queueOf d p := by
  simp only [pushPacket]
  split
  · cases fullKind d q <;> simp [queueOf_setQueue_ne _ _ _ _ h]
  · simp [queueOf_setQueue_ne _ _ _ _ h]

/-! ### Bytes of numbers -/

@[simp] theorem bytesOfNat_length (n v : Nat) : (bytesOfNat n v).length = n := by
  induction n generalizing v <;> simp [bytesOfNat, *]

theorem natOfBytes_lt (bs : List Byte) : natOfBytes bs < 256 ^ bs.length := by
  induction bs with
  | nil => simp [natOfBytes]
  | cons b r ih =>
    have := b.isLt
    simp only [natOfBytes, List.length_cons, Nat.pow_succ]
    omega

/-- The bytes of a number spell its residue. -/
theorem natOfBytes_bytesOfNat (n v : Nat) : natOfBytes (bytesOfNat n v) = v % 256 ^ n := by
  induction n generalizing v with
  | zero => simp [bytesOfNat, natOfBytes, Nat.mod_one]
  | succ n ih =>
    have e : (256 : Nat) ^ (n + 1) = 256 * 256 ^ n := by rw [Nat.pow_succ, Nat.mul_comm]
    rw [e, Nat.mod_mul]
    simp [bytesOfNat, natOfBytes, ih]

end Sys2Proof.Machine
end

