-- ==== Sys2Proof/Laws/State.lean ====
section
/-!
SUPPORT. One lemma for each field and each shared update of the device, true by definition; what lifting a command's
effect and a step do to a state.
-/
set_option Elab.async false
namespace Sys2Proof.Machine

/-! An emission changes `out` alone. -/

@[simp] theorem emit_out (e : Emission) (d : Device) : (emit e d).out = d.out ++ [e] := rfl
@[simp] theorem emit_freeCtr (e : Emission) (d : Device) : (emit e d).freeCtr = d.freeCtr := rfl
@[simp] theorem emit_power (e : Emission) (d : Device) : (emit e d).power = d.power := rfl
@[simp] theorem emit_fuses (e : Emission) (d : Device) : (emit e d).fuses = d.fuses := rfl
@[simp] theorem emit_boot (e : Emission) (d : Device) : (emit e d).boot = d.boot := rfl
@[simp] theorem emit_active (e : Emission) (d : Device) : (emit e d).active = d.active := rfl
@[simp] theorem emit_regs (e : Emission) (d : Device) : (emit e d).regs = d.regs := rfl
@[simp] theorem emit_cfgLocked (e : Emission) (d : Device) : (emit e d).cfgLocked = d.cfgLocked := rfl
@[simp] theorem emit_cfgHeld (e : Emission) (d : Device) : (emit e d).cfgHeld = d.cfgHeld := rfl
@[simp] theorem emit_errs (e : Emission) (d : Device) : (emit e d).errs = d.errs := rfl
@[simp] theorem emit_stats (e : Emission) (d : Device) : (emit e d).stats = d.stats := rfl
@[simp] theorem emit_hif (e : Emission) (d : Device) : (emit e d).hif = d.hif := rfl
@[simp] theorem emit_queues (e : Emission) (d : Device) : (emit e d).queues = d.queues := rfl
@[simp] theorem emit_job (e : Emission) (d : Device) : (emit e d).job = d.job := rfl
@[simp] theorem emit_work (e : Emission) (d : Device) : (emit e d).work = d.work := rfl
@[simp] theorem emit_veRegs (e : Emission) (d : Device) : (emit e d).veRegs = d.veRegs := rfl
@[simp] theorem emit_veScales (e : Emission) (d : Device) : (emit e d).veScales = d.veScales := rfl
@[simp] theorem emit_bnd (e : Emission) (d : Device) : (emit e d).bnd = d.bnd := rfl
@[simp] theorem emit_role (e : Emission) (d : Device) : (emit e d).role = d.role := rfl
@[simp] theorem emit_onTaken (e : Emission) (d : Device) : (emit e d).onTaken = d.onTaken := rfl
@[simp] theorem emit_tree (e : Emission) (d : Device) : (emit e d).tree = d.tree := rfl
@[simp] theorem emit_poolD (e : Emission) (d : Device) : (emit e d).poolD = d.poolD := rfl
@[simp] theorem emit_poolLast (e : Emission) (d : Device) : (emit e d).poolLast = d.poolLast := rfl
@[simp] theorem emit_poolNext (e : Emission) (d : Device) : (emit e d).poolNext = d.poolNext := rfl
@[simp] theorem emit_mem (e : Emission) (d : Device) : (emit e d).mem = d.mem := rfl
@[simp] theorem emit_scrub (e : Emission) (d : Device) : (emit e d).scrub = d.scrub := rfl
@[simp] theorem emit_withdrawn (e : Emission) (d : Device) : (emit e d).withdrawn = d.withdrawn := rfl
@[simp] theorem emit_spilling (e : Emission) (d : Device) : (emit e d).spilling = d.spilling := rfl
@[simp] theorem emit_slotHold (e : Emission) (d : Device) : (emit e d).slotHold = d.slotHold := rfl
@[simp] theorem emit_loaded (e : Emission) (d : Device) : (emit e d).loaded = d.loaded := rfl
@[simp] theorem emit_fab (e : Emission) (d : Device) : (emit e d).fab = d.fab := rfl
@[simp] theorem emit_twin (e : Emission) (d : Device) : (emit e d).twin = d.twin := rfl
@[simp] theorem emit_test (e : Emission) (d : Device) : (emit e d).test = d.test := rfl
@[simp] theorem emit_pcie (e : Emission) (d : Device) : (emit e d).pcie = d.pcie := rfl
@[simp] theorem emit_slabs (e : Emission) (d : Device) : (emit e d).slabs = d.slabs := rfl
@[simp] theorem emit_cellStore (e : Emission) (d : Device) : (emit e d).cellStore = d.cellStore := rfl

/-! Emissions change `out` alone. -/

@[simp] theorem emitAll_out (es : List Emission) (d : Device) : (emitAll es d).out = d.out ++ es := rfl
@[simp] theorem emitAll_freeCtr (es : List Emission) (d : Device) : (emitAll es d).freeCtr = d.freeCtr := rfl
@[simp] theorem emitAll_power (es : List Emission) (d : Device) : (emitAll es d).power = d.power := rfl
@[simp] theorem emitAll_fuses (es : List Emission) (d : Device) : (emitAll es d).fuses = d.fuses := rfl
@[simp] theorem emitAll_boot (es : List Emission) (d : Device) : (emitAll es d).boot = d.boot := rfl
@[simp] theorem emitAll_active (es : List Emission) (d : Device) : (emitAll es d).active = d.active := rfl
@[simp] theorem emitAll_regs (es : List Emission) (d : Device) : (emitAll es d).regs = d.regs := rfl
@[simp] theorem emitAll_cfgLocked (es : List Emission) (d : Device) : (emitAll es d).cfgLocked = d.cfgLocked := rfl
@[simp] theorem emitAll_cfgHeld (es : List Emission) (d : Device) : (emitAll es d).cfgHeld = d.cfgHeld := rfl
@[simp] theorem emitAll_errs (es : List Emission) (d : Device) : (emitAll es d).errs = d.errs := rfl
@[simp] theorem emitAll_stats (es : List Emission) (d : Device) : (emitAll es d).stats = d.stats := rfl
@[simp] theorem emitAll_hif (es : List Emission) (d : Device) : (emitAll es d).hif = d.hif := rfl
@[simp] theorem emitAll_queues (es : List Emission) (d : Device) : (emitAll es d).queues = d.queues := rfl
@[simp] theorem emitAll_job (es : List Emission) (d : Device) : (emitAll es d).job = d.job := rfl
@[simp] theorem emitAll_work (es : List Emission) (d : Device) : (emitAll es d).work = d.work := rfl
@[simp] theorem emitAll_veRegs (es : List Emission) (d : Device) : (emitAll es d).veRegs = d.veRegs := rfl
@[simp] theorem emitAll_veScales (es : List Emission) (d : Device) : (emitAll es d).veScales = d.veScales := rfl
@[simp] theorem emitAll_bnd (es : List Emission) (d : Device) : (emitAll es d).bnd = d.bnd := rfl
@[simp] theorem emitAll_role (es : List Emission) (d : Device) : (emitAll es d).role = d.role := rfl
@[simp] theorem emitAll_onTaken (es : List Emission) (d : Device) : (emitAll es d).onTaken = d.onTaken := rfl
@[simp] theorem emitAll_tree (es : List Emission) (d : Device) : (emitAll es d).tree = d.tree := rfl
@[simp] theorem emitAll_poolD (es : List Emission) (d : Device) : (emitAll es d).poolD = d.poolD := rfl
@[simp] theorem emitAll_poolLast (es : List Emission) (d : Device) : (emitAll es d).poolLast = d.poolLast := rfl
@[simp] theorem emitAll_poolNext (es : List Emission) (d : Device) : (emitAll es d).poolNext = d.poolNext := rfl
@[simp] theorem emitAll_mem (es : List Emission) (d : Device) : (emitAll es d).mem = d.mem := rfl
@[simp] theorem emitAll_scrub (es : List Emission) (d : Device) : (emitAll es d).scrub = d.scrub := rfl
@[simp] theorem emitAll_withdrawn (es : List Emission) (d : Device) : (emitAll es d).withdrawn = d.withdrawn := rfl
@[simp] theorem emitAll_spilling (es : List Emission) (d : Device) : (emitAll es d).spilling = d.spilling := rfl
@[simp] theorem emitAll_slotHold (es : List Emission) (d : Device) : (emitAll es d).slotHold = d.slotHold := rfl
@[simp] theorem emitAll_loaded (es : List Emission) (d : Device) : (emitAll es d).loaded = d.loaded := rfl
@[simp] theorem emitAll_fab (es : List Emission) (d : Device) : (emitAll es d).fab = d.fab := rfl
@[simp] theorem emitAll_twin (es : List Emission) (d : Device) : (emitAll es d).twin = d.twin := rfl
@[simp] theorem emitAll_test (es : List Emission) (d : Device) : (emitAll es d).test = d.test := rfl
@[simp] theorem emitAll_pcie (es : List Emission) (d : Device) : (emitAll es d).pcie = d.pcie := rfl
@[simp] theorem emitAll_slabs (es : List Emission) (d : Device) : (emitAll es d).slabs = d.slabs := rfl
@[simp] theorem emitAll_cellStore (es : List Emission) (d : Device) : (emitAll es d).cellStore = d.cellStore := rfl

/-! A message changes `out` and the pending bits of R372 alone. -/

theorem msix_eq (v : Nat) (d : Device) : msix v d = { d with out := (msix v d).out, pcie := (msix v d).pcie } := by
  simp only [msix]
  split
  · rfl
  · split <;> rfl

/-- MSI-X enabled and the vector unmasked, with no loop-back on the link: the message leaves at once (R372). -/
theorem msix_sent (v : Nat) (d : Device) (on : d.pcie.host.msixEnable = true) (open_ : d.pcie.host.functionMask = false)
    (unmasked : d.pcie.host.vectorMask.getLsbD v = false) (link : pcieTest d = false) : msix v d = emit (.msix v) d := by
  simp [msix, on, open_, unmasked, link]

/-- MSI-X enabled and the vector masked, or a loop-back on the link: no message leaves, and the vector's pending bit is 1
(R372, R496). -/
theorem msix_held (v : Nat) (d : Device) (on : d.pcie.host.msixEnable = true)
    (masked : d.pcie.host.functionMask = true ∨ d.pcie.host.vectorMask.getLsbD v = true ∨ pcieTest d = true) :
    msix v d = { d with pcie := { d.pcie with pending := d.pcie.pending ||| (1#64 <<< v) } } := by
  rcases masked with h | h | h <;> simp [msix, on, h]

@[simp] theorem msix_freeCtr (v : Nat) (d : Device) : (msix v d).freeCtr = d.freeCtr := by rw [msix_eq]
@[simp] theorem msix_power (v : Nat) (d : Device) : (msix v d).power = d.power := by rw [msix_eq]
@[simp] theorem msix_fuses (v : Nat) (d : Device) : (msix v d).fuses = d.fuses := by rw [msix_eq]
@[simp] theorem msix_boot (v : Nat) (d : Device) : (msix v d).boot = d.boot := by rw [msix_eq]
@[simp] theorem msix_active (v : Nat) (d : Device) : (msix v d).active = d.active := by rw [msix_eq]
@[simp] theorem msix_regs (v : Nat) (d : Device) : (msix v d).regs = d.regs := by rw [msix_eq]
@[simp] theorem msix_cfgLocked (v : Nat) (d : Device) : (msix v d).cfgLocked = d.cfgLocked := by rw [msix_eq]
@[simp] theorem msix_cfgHeld (v : Nat) (d : Device) : (msix v d).cfgHeld = d.cfgHeld := by rw [msix_eq]
@[simp] theorem msix_errs (v : Nat) (d : Device) : (msix v d).errs = d.errs := by rw [msix_eq]
@[simp] theorem msix_stats (v : Nat) (d : Device) : (msix v d).stats = d.stats := by rw [msix_eq]
@[simp] theorem msix_hif (v : Nat) (d : Device) : (msix v d).hif = d.hif := by rw [msix_eq]
@[simp] theorem msix_queues (v : Nat) (d : Device) : (msix v d).queues = d.queues := by rw [msix_eq]
@[simp] theorem msix_job (v : Nat) (d : Device) : (msix v d).job = d.job := by rw [msix_eq]
@[simp] theorem msix_work (v : Nat) (d : Device) : (msix v d).work = d.work := by rw [msix_eq]
@[simp] theorem msix_veRegs (v : Nat) (d : Device) : (msix v d).veRegs = d.veRegs := by rw [msix_eq]
@[simp] theorem msix_veScales (v : Nat) (d : Device) : (msix v d).veScales = d.veScales := by rw [msix_eq]
@[simp] theorem msix_bnd (v : Nat) (d : Device) : (msix v d).bnd = d.bnd := by rw [msix_eq]
@[simp] theorem msix_role (v : Nat) (d : Device) : (msix v d).role = d.role := by rw [msix_eq]
@[simp] theorem msix_onTaken (v : Nat) (d : Device) : (msix v d).onTaken = d.onTaken := by rw [msix_eq]
@[simp] theorem msix_tree (v : Nat) (d : Device) : (msix v d).tree = d.tree := by rw [msix_eq]
@[simp] theorem msix_poolD (v : Nat) (d : Device) : (msix v d).poolD = d.poolD := by rw [msix_eq]
@[simp] theorem msix_poolLast (v : Nat) (d : Device) : (msix v d).poolLast = d.poolLast := by rw [msix_eq]
@[simp] theorem msix_poolNext (v : Nat) (d : Device) : (msix v d).poolNext = d.poolNext := by rw [msix_eq]
@[simp] theorem msix_mem (v : Nat) (d : Device) : (msix v d).mem = d.mem := by rw [msix_eq]
@[simp] theorem msix_scrub (v : Nat) (d : Device) : (msix v d).scrub = d.scrub := by rw [msix_eq]
@[simp] theorem msix_withdrawn (v : Nat) (d : Device) : (msix v d).withdrawn = d.withdrawn := by rw [msix_eq]
@[simp] theorem msix_spilling (v : Nat) (d : Device) : (msix v d).spilling = d.spilling := by rw [msix_eq]
@[simp] theorem msix_slotHold (v : Nat) (d : Device) : (msix v d).slotHold = d.slotHold := by rw [msix_eq]
@[simp] theorem msix_loaded (v : Nat) (d : Device) : (msix v d).loaded = d.loaded := by rw [msix_eq]
@[simp] theorem msix_fab (v : Nat) (d : Device) : (msix v d).fab = d.fab := by rw [msix_eq]
@[simp] theorem msix_twin (v : Nat) (d : Device) : (msix v d).twin = d.twin := by rw [msix_eq]
@[simp] theorem msix_test (v : Nat) (d : Device) : (msix v d).test = d.test := by rw [msix_eq]
@[simp] theorem msix_slabs (v : Nat) (d : Device) : (msix v d).slabs = d.slabs := by rw [msix_eq]
@[simp] theorem msix_cellStore (v : Nat) (d : Device) : (msix v d).cellStore = d.cellStore := by rw [msix_eq]

/-! A register write changes the setup words alone. -/

@[simp] theorem regSet_out (r : RegName) (v : W64) (d : Device) : (regSet r v d).out = d.out := rfl
@[simp] theorem regSet_freeCtr (r : RegName) (v : W64) (d : Device) : (regSet r v d).freeCtr = d.freeCtr := rfl
@[simp] theorem regSet_power (r : RegName) (v : W64) (d : Device) : (regSet r v d).power = d.power := rfl
@[simp] theorem regSet_fuses (r : RegName) (v : W64) (d : Device) : (regSet r v d).fuses = d.fuses := rfl
@[simp] theorem regSet_boot (r : RegName) (v : W64) (d : Device) : (regSet r v d).boot = d.boot := rfl
@[simp] theorem regSet_active (r : RegName) (v : W64) (d : Device) : (regSet r v d).active = d.active := rfl
@[simp] theorem regSet_regs (r : RegName) (v : W64) (d : Device) : (regSet r v d).regs = putReg d.regs r v := rfl
@[simp] theorem regSet_cfgLocked (r : RegName) (v : W64) (d : Device) : (regSet r v d).cfgLocked = d.cfgLocked := rfl
@[simp] theorem regSet_cfgHeld (r : RegName) (v : W64) (d : Device) : (regSet r v d).cfgHeld = d.cfgHeld := rfl
@[simp] theorem regSet_errs (r : RegName) (v : W64) (d : Device) : (regSet r v d).errs = d.errs := rfl
@[simp] theorem regSet_stats (r : RegName) (v : W64) (d : Device) : (regSet r v d).stats = d.stats := rfl
@[simp] theorem regSet_hif (r : RegName) (v : W64) (d : Device) : (regSet r v d).hif = d.hif := rfl
@[simp] theorem regSet_queues (r : RegName) (v : W64) (d : Device) : (regSet r v d).queues = d.queues := rfl
@[simp] theorem regSet_job (r : RegName) (v : W64) (d : Device) : (regSet r v d).job = d.job := rfl
@[simp] theorem regSet_work (r : RegName) (v : W64) (d : Device) : (regSet r v d).work = d.work := rfl
@[simp] theorem regSet_veRegs (r : RegName) (v : W64) (d : Device) : (regSet r v d).veRegs = d.veRegs := rfl
@[simp] theorem regSet_veScales (r : RegName) (v : W64) (d : Device) : (regSet r v d).veScales = d.veScales := rfl
@[simp] theorem regSet_bnd (r : RegName) (v : W64) (d : Device) : (regSet r v d).bnd = d.bnd := rfl
@[simp] theorem regSet_role (r : RegName) (v : W64) (d : Device) : (regSet r v d).role = d.role := rfl
@[simp] theorem regSet_onTaken (r : RegName) (v : W64) (d : Device) : (regSet r v d).onTaken = d.onTaken := rfl
@[simp] theorem regSet_tree (r : RegName) (v : W64) (d : Device) : (regSet r v d).tree = d.tree := rfl
@[simp] theorem regSet_poolD (r : RegName) (v : W64) (d : Device) : (regSet r v d).poolD = d.poolD := rfl
@[simp] theorem regSet_poolLast (r : RegName) (v : W64) (d : Device) : (regSet r v d).poolLast = d.poolLast := rfl
@[simp] theorem regSet_poolNext (r : RegName) (v : W64) (d : Device) : (regSet r v d).poolNext = d.poolNext := rfl
@[simp] theorem regSet_mem (r : RegName) (v : W64) (d : Device) : (regSet r v d).mem = d.mem := rfl
@[simp] theorem regSet_scrub (r : RegName) (v : W64) (d : Device) : (regSet r v d).scrub = d.scrub := rfl
@[simp] theorem regSet_withdrawn (r : RegName) (v : W64) (d : Device) : (regSet r v d).withdrawn = d.withdrawn := rfl
@[simp] theorem regSet_spilling (r : RegName) (v : W64) (d : Device) : (regSet r v d).spilling = d.spilling := rfl
@[simp] theorem regSet_slotHold (r : RegName) (v : W64) (d : Device) : (regSet r v d).slotHold = d.slotHold := rfl
@[simp] theorem regSet_loaded (r : RegName) (v : W64) (d : Device) : (regSet r v d).loaded = d.loaded := rfl
@[simp] theorem regSet_fab (r : RegName) (v : W64) (d : Device) : (regSet r v d).fab = d.fab := rfl
@[simp] theorem regSet_twin (r : RegName) (v : W64) (d : Device) : (regSet r v d).twin = d.twin := rfl
@[simp] theorem regSet_test (r : RegName) (v : W64) (d : Device) : (regSet r v d).test = d.test := rfl
@[simp] theorem regSet_pcie (r : RegName) (v : W64) (d : Device) : (regSet r v d).pcie = d.pcie := rfl
@[simp] theorem regSet_slabs (r : RegName) (v : W64) (d : Device) : (regSet r v d).slabs = d.slabs := rfl
@[simp] theorem regSet_cellStore (r : RegName) (v : W64) (d : Device) : (regSet r v d).cellStore = d.cellStore := rfl

/-! A queue replaced changes the queues alone. -/

@[simp] theorem setQueue_out (q : Nat) (x : QState) (d : Device) : (setQueue q x d).out = d.out := rfl
@[simp] theorem setQueue_freeCtr (q : Nat) (x : QState) (d : Device) : (setQueue q x d).freeCtr = d.freeCtr := rfl
@[simp] theorem setQueue_power (q : Nat) (x : QState) (d : Device) : (setQueue q x d).power = d.power := rfl
@[simp] theorem setQueue_fuses (q : Nat) (x : QState) (d : Device) : (setQueue q x d).fuses = d.fuses := rfl
@[simp] theorem setQueue_boot (q : Nat) (x : QState) (d : Device) : (setQueue q x d).boot = d.boot := rfl
@[simp] theorem setQueue_active (q : Nat) (x : QState) (d : Device) : (setQueue q x d).active = d.active := rfl
@[simp] theorem setQueue_regs (q : Nat) (x : QState) (d : Device) : (setQueue q x d).regs = d.regs := rfl
@[simp] theorem setQueue_cfgLocked (q : Nat) (x : QState) (d : Device) : (setQueue q x d).cfgLocked = d.cfgLocked := rfl
@[simp] theorem setQueue_cfgHeld (q : Nat) (x : QState) (d : Device) : (setQueue q x d).cfgHeld = d.cfgHeld := rfl
@[simp] theorem setQueue_errs (q : Nat) (x : QState) (d : Device) : (setQueue q x d).errs = d.errs := rfl
@[simp] theorem setQueue_stats (q : Nat) (x : QState) (d : Device) : (setQueue q x d).stats = d.stats := rfl
@[simp] theorem setQueue_hif (q : Nat) (x : QState) (d : Device) : (setQueue q x d).hif = d.hif := rfl
@[simp] theorem setQueue_queues (q : Nat) (x : QState) (d : Device) : (setQueue q x d).queues = Tab.put d.queues q x := rfl
@[simp] theorem setQueue_job (q : Nat) (x : QState) (d : Device) : (setQueue q x d).job = d.job := rfl
@[simp] theorem setQueue_work (q : Nat) (x : QState) (d : Device) : (setQueue q x d).work = d.work := rfl
@[simp] theorem setQueue_veRegs (q : Nat) (x : QState) (d : Device) : (setQueue q x d).veRegs = d.veRegs := rfl
@[simp] theorem setQueue_veScales (q : Nat) (x : QState) (d : Device) : (setQueue q x d).veScales = d.veScales := rfl
@[simp] theorem setQueue_bnd (q : Nat) (x : QState) (d : Device) : (setQueue q x d).bnd = d.bnd := rfl
@[simp] theorem setQueue_role (q : Nat) (x : QState) (d : Device) : (setQueue q x d).role = d.role := rfl
@[simp] theorem setQueue_onTaken (q : Nat) (x : QState) (d : Device) : (setQueue q x d).onTaken = d.onTaken := rfl
@[simp] theorem setQueue_tree (q : Nat) (x : QState) (d : Device) : (setQueue q x d).tree = d.tree := rfl
@[simp] theorem setQueue_poolD (q : Nat) (x : QState) (d : Device) : (setQueue q x d).poolD = d.poolD := rfl
@[simp] theorem setQueue_poolLast (q : Nat) (x : QState) (d : Device) : (setQueue q x d).poolLast = d.poolLast := rfl
@[simp] theorem setQueue_poolNext (q : Nat) (x : QState) (d : Device) : (setQueue q x d).poolNext = d.poolNext := rfl
@[simp] theorem setQueue_mem (q : Nat) (x : QState) (d : Device) : (setQueue q x d).mem = d.mem := rfl
@[simp] theorem setQueue_scrub (q : Nat) (x : QState) (d : Device) : (setQueue q x d).scrub = d.scrub := rfl
@[simp] theorem setQueue_withdrawn (q : Nat) (x : QState) (d : Device) : (setQueue q x d).withdrawn = d.withdrawn := rfl
@[simp] theorem setQueue_spilling (q : Nat) (x : QState) (d : Device) : (setQueue q x d).spilling = d.spilling := rfl
@[simp] theorem setQueue_slotHold (q : Nat) (x : QState) (d : Device) : (setQueue q x d).slotHold = d.slotHold := rfl
@[simp] theorem setQueue_loaded (q : Nat) (x : QState) (d : Device) : (setQueue q x d).loaded = d.loaded := rfl
@[simp] theorem setQueue_fab (q : Nat) (x : QState) (d : Device) : (setQueue q x d).fab = d.fab := rfl
@[simp] theorem setQueue_twin (q : Nat) (x : QState) (d : Device) : (setQueue q x d).twin = d.twin := rfl
@[simp] theorem setQueue_test (q : Nat) (x : QState) (d : Device) : (setQueue q x d).test = d.test := rfl
@[simp] theorem setQueue_pcie (q : Nat) (x : QState) (d : Device) : (setQueue q x d).pcie = d.pcie := rfl
@[simp] theorem setQueue_slabs (q : Nat) (x : QState) (d : Device) : (setQueue q x d).slabs =
    Tab.put d.slabs q (fitSlabs (heldWords (queueOf d q)) (heldWords x) (chainOfQueue d q)) := rfl
@[simp] theorem setQueue_cellStore (q : Nat) (x : QState) (d : Device) : (setQueue q x d).cellStore = d.cellStore := rfl

/-! Taking a free value advances the count of values taken, and nothing else. -/

@[simp] theorem takeFree_out (d : Device) : ((takeFree d).2).out = d.out := rfl
@[simp] theorem takeFree_freeCtr (d : Device) : ((takeFree d).2).freeCtr = d.freeCtr + 1 := rfl
@[simp] theorem takeFree_power (d : Device) : ((takeFree d).2).power = d.power := rfl
@[simp] theorem takeFree_fuses (d : Device) : ((takeFree d).2).fuses = d.fuses := rfl
@[simp] theorem takeFree_boot (d : Device) : ((takeFree d).2).boot = d.boot := rfl
@[simp] theorem takeFree_active (d : Device) : ((takeFree d).2).active = d.active := rfl
@[simp] theorem takeFree_regs (d : Device) : ((takeFree d).2).regs = d.regs := rfl
@[simp] theorem takeFree_cfgLocked (d : Device) : ((takeFree d).2).cfgLocked = d.cfgLocked := rfl
@[simp] theorem takeFree_cfgHeld (d : Device) : ((takeFree d).2).cfgHeld = d.cfgHeld := rfl
@[simp] theorem takeFree_errs (d : Device) : ((takeFree d).2).errs = d.errs := rfl
@[simp] theorem takeFree_stats (d : Device) : ((takeFree d).2).stats = d.stats := rfl
@[simp] theorem takeFree_hif (d : Device) : ((takeFree d).2).hif = d.hif := rfl
@[simp] theorem takeFree_queues (d : Device) : ((takeFree d).2).queues = d.queues := rfl
@[simp] theorem takeFree_job (d : Device) : ((takeFree d).2).job = d.job := rfl
@[simp] theorem takeFree_work (d : Device) : ((takeFree d).2).work = d.work := rfl
@[simp] theorem takeFree_veRegs (d : Device) : ((takeFree d).2).veRegs = d.veRegs := rfl
@[simp] theorem takeFree_veScales (d : Device) : ((takeFree d).2).veScales = d.veScales := rfl
@[simp] theorem takeFree_bnd (d : Device) : ((takeFree d).2).bnd = d.bnd := rfl
@[simp] theorem takeFree_role (d : Device) : ((takeFree d).2).role = d.role := rfl
@[simp] theorem takeFree_onTaken (d : Device) : ((takeFree d).2).onTaken = d.onTaken := rfl
@[simp] theorem takeFree_tree (d : Device) : ((takeFree d).2).tree = d.tree := rfl
@[simp] theorem takeFree_poolD (d : Device) : ((takeFree d).2).poolD = d.poolD := rfl
@[simp] theorem takeFree_poolLast (d : Device) : ((takeFree d).2).poolLast = d.poolLast := rfl
@[simp] theorem takeFree_poolNext (d : Device) : ((takeFree d).2).poolNext = d.poolNext := rfl
@[simp] theorem takeFree_mem (d : Device) : ((takeFree d).2).mem = d.mem := rfl
@[simp] theorem takeFree_scrub (d : Device) : ((takeFree d).2).scrub = d.scrub := rfl
@[simp] theorem takeFree_withdrawn (d : Device) : ((takeFree d).2).withdrawn = d.withdrawn := rfl
@[simp] theorem takeFree_spilling (d : Device) : ((takeFree d).2).spilling = d.spilling := rfl
@[simp] theorem takeFree_slotHold (d : Device) : ((takeFree d).2).slotHold = d.slotHold := rfl
@[simp] theorem takeFree_loaded (d : Device) : ((takeFree d).2).loaded = d.loaded := rfl
@[simp] theorem takeFree_fab (d : Device) : ((takeFree d).2).fab = d.fab := rfl
@[simp] theorem takeFree_twin (d : Device) : ((takeFree d).2).twin = d.twin := rfl
@[simp] theorem takeFree_test (d : Device) : ((takeFree d).2).test = d.test := rfl
@[simp] theorem takeFree_pcie (d : Device) : ((takeFree d).2).pcie = d.pcie := rfl
@[simp] theorem takeFree_slabs (d : Device) : ((takeFree d).2).slabs = d.slabs := rfl
@[simp] theorem takeFree_cellStore (d : Device) : ((takeFree d).2).cellStore = d.cellStore := rfl

/-! A stale item changes the counts alone. -/

@[simp] theorem countStale_out (d : Device) : (countStale d).out = d.out := rfl
@[simp] theorem countStale_freeCtr (d : Device) : (countStale d).freeCtr = d.freeCtr := rfl
@[simp] theorem countStale_power (d : Device) : (countStale d).power = d.power := rfl
@[simp] theorem countStale_fuses (d : Device) : (countStale d).fuses = d.fuses := rfl
@[simp] theorem countStale_boot (d : Device) : (countStale d).boot = d.boot := rfl
@[simp] theorem countStale_active (d : Device) : (countStale d).active = d.active := rfl
@[simp] theorem countStale_regs (d : Device) : (countStale d).regs = d.regs := rfl
@[simp] theorem countStale_cfgLocked (d : Device) : (countStale d).cfgLocked = d.cfgLocked := rfl
@[simp] theorem countStale_cfgHeld (d : Device) : (countStale d).cfgHeld = d.cfgHeld := rfl
@[simp] theorem countStale_errs (d : Device) : (countStale d).errs = { d.errs with stale := satAdd48 d.errs.stale 1 } := rfl
@[simp] theorem countStale_stats (d : Device) : (countStale d).stats = d.stats := rfl
@[simp] theorem countStale_hif (d : Device) : (countStale d).hif = d.hif := rfl
@[simp] theorem countStale_queues (d : Device) : (countStale d).queues = d.queues := rfl
@[simp] theorem countStale_job (d : Device) : (countStale d).job = d.job := rfl
@[simp] theorem countStale_work (d : Device) : (countStale d).work = d.work := rfl
@[simp] theorem countStale_veRegs (d : Device) : (countStale d).veRegs = d.veRegs := rfl
@[simp] theorem countStale_veScales (d : Device) : (countStale d).veScales = d.veScales := rfl
@[simp] theorem countStale_bnd (d : Device) : (countStale d).bnd = d.bnd := rfl
@[simp] theorem countStale_role (d : Device) : (countStale d).role = d.role := rfl
@[simp] theorem countStale_onTaken (d : Device) : (countStale d).onTaken = d.onTaken := rfl
@[simp] theorem countStale_tree (d : Device) : (countStale d).tree = d.tree := rfl
@[simp] theorem countStale_poolD (d : Device) : (countStale d).poolD = d.poolD := rfl
@[simp] theorem countStale_poolLast (d : Device) : (countStale d).poolLast = d.poolLast := rfl
@[simp] theorem countStale_poolNext (d : Device) : (countStale d).poolNext = d.poolNext := rfl
@[simp] theorem countStale_mem (d : Device) : (countStale d).mem = d.mem := rfl
@[simp] theorem countStale_scrub (d : Device) : (countStale d).scrub = d.scrub := rfl
@[simp] theorem countStale_withdrawn (d : Device) : (countStale d).withdrawn = d.withdrawn := rfl
@[simp] theorem countStale_spilling (d : Device) : (countStale d).spilling = d.spilling := rfl
@[simp] theorem countStale_slotHold (d : Device) : (countStale d).slotHold = d.slotHold := rfl
@[simp] theorem countStale_loaded (d : Device) : (countStale d).loaded = d.loaded := rfl
@[simp] theorem countStale_fab (d : Device) : (countStale d).fab = d.fab := rfl
@[simp] theorem countStale_twin (d : Device) : (countStale d).twin = d.twin := rfl
@[simp] theorem countStale_test (d : Device) : (countStale d).test = d.test := rfl
@[simp] theorem countStale_pcie (d : Device) : (countStale d).pcie = d.pcie := rfl
@[simp] theorem countStale_slabs (d : Device) : (countStale d).slabs = d.slabs := rfl
@[simp] theorem countStale_cellStore (d : Device) : (countStale d).cellStore = d.cellStore := rfl

/-! An uncorrectable word changes the counts alone. -/

@[simp] theorem noteUncorrectable_out (a source : Nat) (stack : Bool) (d : Device) : (noteUncorrectable a source stack d).out = d.out := rfl
@[simp] theorem noteUncorrectable_freeCtr (a source : Nat) (stack : Bool) (d : Device) : (noteUncorrectable a source stack d).freeCtr = d.freeCtr := rfl
@[simp] theorem noteUncorrectable_power (a source : Nat) (stack : Bool) (d : Device) : (noteUncorrectable a source stack d).power = d.power := rfl
@[simp] theorem noteUncorrectable_fuses (a source : Nat) (stack : Bool) (d : Device) : (noteUncorrectable a source stack d).fuses = d.fuses := rfl
@[simp] theorem noteUncorrectable_boot (a source : Nat) (stack : Bool) (d : Device) : (noteUncorrectable a source stack d).boot = d.boot := rfl
@[simp] theorem noteUncorrectable_active (a source : Nat) (stack : Bool) (d : Device) : (noteUncorrectable a source stack d).active = d.active := rfl
@[simp] theorem noteUncorrectable_regs (a source : Nat) (stack : Bool) (d : Device) : (noteUncorrectable a source stack d).regs = d.regs := rfl
@[simp] theorem noteUncorrectable_cfgLocked (a source : Nat) (stack : Bool) (d : Device) : (noteUncorrectable a source stack d).cfgLocked = d.cfgLocked := rfl
@[simp] theorem noteUncorrectable_cfgHeld (a source : Nat) (stack : Bool) (d : Device) : (noteUncorrectable a source stack d).cfgHeld = d.cfgHeld := rfl
@[simp] theorem noteUncorrectable_stats (a source : Nat) (stack : Bool) (d : Device) : (noteUncorrectable a source stack d).stats = d.stats := rfl
@[simp] theorem noteUncorrectable_hif (a source : Nat) (stack : Bool) (d : Device) : (noteUncorrectable a source stack d).hif = d.hif := rfl
@[simp] theorem noteUncorrectable_queues (a source : Nat) (stack : Bool) (d : Device) : (noteUncorrectable a source stack d).queues = d.queues := rfl
@[simp] theorem noteUncorrectable_job (a source : Nat) (stack : Bool) (d : Device) : (noteUncorrectable a source stack d).job = d.job := rfl
@[simp] theorem noteUncorrectable_work (a source : Nat) (stack : Bool) (d : Device) : (noteUncorrectable a source stack d).work = d.work := rfl
@[simp] theorem noteUncorrectable_veRegs (a source : Nat) (stack : Bool) (d : Device) : (noteUncorrectable a source stack d).veRegs = d.veRegs := rfl
@[simp] theorem noteUncorrectable_veScales (a source : Nat) (stack : Bool) (d : Device) : (noteUncorrectable a source stack d).veScales = d.veScales := rfl
@[simp] theorem noteUncorrectable_bnd (a source : Nat) (stack : Bool) (d : Device) : (noteUncorrectable a source stack d).bnd = d.bnd := rfl
@[simp] theorem noteUncorrectable_role (a source : Nat) (stack : Bool) (d : Device) : (noteUncorrectable a source stack d).role = d.role := rfl
@[simp] theorem noteUncorrectable_onTaken (a source : Nat) (stack : Bool) (d : Device) : (noteUncorrectable a source stack d).onTaken = d.onTaken := rfl
@[simp] theorem noteUncorrectable_tree (a source : Nat) (stack : Bool) (d : Device) : (noteUncorrectable a source stack d).tree = d.tree := rfl
@[simp] theorem noteUncorrectable_poolD (a source : Nat) (stack : Bool) (d : Device) : (noteUncorrectable a source stack d).poolD = d.poolD := rfl
@[simp] theorem noteUncorrectable_poolLast (a source : Nat) (stack : Bool) (d : Device) : (noteUncorrectable a source stack d).poolLast = d.poolLast := rfl
@[simp] theorem noteUncorrectable_poolNext (a source : Nat) (stack : Bool) (d : Device) : (noteUncorrectable a source stack d).poolNext = d.poolNext := rfl
@[simp] theorem noteUncorrectable_mem (a source : Nat) (stack : Bool) (d : Device) : (noteUncorrectable a source stack d).mem = d.mem := rfl
@[simp] theorem noteUncorrectable_scrub (a source : Nat) (stack : Bool) (d : Device) : (noteUncorrectable a source stack d).scrub = d.scrub := rfl
@[simp] theorem noteUncorrectable_withdrawn (a source : Nat) (stack : Bool) (d : Device) : (noteUncorrectable a source stack d).withdrawn = d.withdrawn := rfl
@[simp] theorem noteUncorrectable_spilling (a source : Nat) (stack : Bool) (d : Device) : (noteUncorrectable a source stack d).spilling = d.spilling := rfl
@[simp] theorem noteUncorrectable_slotHold (a source : Nat) (stack : Bool) (d : Device) : (noteUncorrectable a source stack d).slotHold = d.slotHold := rfl
@[simp] theorem noteUncorrectable_loaded (a source : Nat) (stack : Bool) (d : Device) : (noteUncorrectable a source stack d).loaded = d.loaded := rfl
@[simp] theorem noteUncorrectable_fab (a source : Nat) (stack : Bool) (d : Device) : (noteUncorrectable a source stack d).fab = d.fab := rfl
@[simp] theorem noteUncorrectable_twin (a source : Nat) (stack : Bool) (d : Device) : (noteUncorrectable a source stack d).twin = d.twin := rfl
@[simp] theorem noteUncorrectable_test (a source : Nat) (stack : Bool) (d : Device) : (noteUncorrectable a source stack d).test = d.test := rfl
@[simp] theorem noteUncorrectable_pcie (a source : Nat) (stack : Bool) (d : Device) : (noteUncorrectable a source stack d).pcie = d.pcie := rfl
@[simp] theorem noteUncorrectable_slabs (a source : Nat) (stack : Bool) (d : Device) : (noteUncorrectable a source stack d).slabs = d.slabs := rfl
@[simp] theorem noteUncorrectable_cellStore (a source : Nat) (stack : Bool) (d : Device) : (noteUncorrectable a source stack d).cellStore = d.cellStore := rfl

/-! The run of an entry is fabric state. -/

@[simp] theorem setRun_out (e : Nat) (r : EntryRun) (d : Device) : (setRun e r d).out = d.out := rfl
@[simp] theorem setRun_freeCtr (e : Nat) (r : EntryRun) (d : Device) : (setRun e r d).freeCtr = d.freeCtr := rfl
@[simp] theorem setRun_power (e : Nat) (r : EntryRun) (d : Device) : (setRun e r d).power = d.power := rfl
@[simp] theorem setRun_fuses (e : Nat) (r : EntryRun) (d : Device) : (setRun e r d).fuses = d.fuses := rfl
@[simp] theorem setRun_boot (e : Nat) (r : EntryRun) (d : Device) : (setRun e r d).boot = d.boot := rfl
@[simp] theorem setRun_active (e : Nat) (r : EntryRun) (d : Device) : (setRun e r d).active = d.active := rfl
@[simp] theorem setRun_regs (e : Nat) (r : EntryRun) (d : Device) : (setRun e r d).regs = d.regs := rfl
@[simp] theorem setRun_cfgLocked (e : Nat) (r : EntryRun) (d : Device) : (setRun e r d).cfgLocked = d.cfgLocked := rfl
@[simp] theorem setRun_cfgHeld (e : Nat) (r : EntryRun) (d : Device) : (setRun e r d).cfgHeld = d.cfgHeld := rfl
@[simp] theorem setRun_errs (e : Nat) (r : EntryRun) (d : Device) : (setRun e r d).errs = d.errs := rfl
@[simp] theorem setRun_stats (e : Nat) (r : EntryRun) (d : Device) : (setRun e r d).stats = d.stats := rfl
@[simp] theorem setRun_hif (e : Nat) (r : EntryRun) (d : Device) : (setRun e r d).hif = d.hif := rfl
@[simp] theorem setRun_queues (e : Nat) (r : EntryRun) (d : Device) : (setRun e r d).queues = d.queues := rfl
@[simp] theorem setRun_job (e : Nat) (r : EntryRun) (d : Device) : (setRun e r d).job = d.job := rfl
@[simp] theorem setRun_work (e : Nat) (r : EntryRun) (d : Device) : (setRun e r d).work = d.work := rfl
@[simp] theorem setRun_veRegs (e : Nat) (r : EntryRun) (d : Device) : (setRun e r d).veRegs = d.veRegs := rfl
@[simp] theorem setRun_veScales (e : Nat) (r : EntryRun) (d : Device) : (setRun e r d).veScales = d.veScales := rfl
@[simp] theorem setRun_bnd (e : Nat) (r : EntryRun) (d : Device) : (setRun e r d).bnd = d.bnd := rfl
@[simp] theorem setRun_role (e : Nat) (r : EntryRun) (d : Device) : (setRun e r d).role = d.role := rfl
@[simp] theorem setRun_onTaken (e : Nat) (r : EntryRun) (d : Device) : (setRun e r d).onTaken = d.onTaken := rfl
@[simp] theorem setRun_tree (e : Nat) (r : EntryRun) (d : Device) : (setRun e r d).tree = d.tree := rfl
@[simp] theorem setRun_poolD (e : Nat) (r : EntryRun) (d : Device) : (setRun e r d).poolD = d.poolD := rfl
@[simp] theorem setRun_poolLast (e : Nat) (r : EntryRun) (d : Device) : (setRun e r d).poolLast = d.poolLast := rfl
@[simp] theorem setRun_poolNext (e : Nat) (r : EntryRun) (d : Device) : (setRun e r d).poolNext = d.poolNext := rfl
@[simp] theorem setRun_mem (e : Nat) (r : EntryRun) (d : Device) : (setRun e r d).mem = d.mem := rfl
@[simp] theorem setRun_scrub (e : Nat) (r : EntryRun) (d : Device) : (setRun e r d).scrub = d.scrub := rfl
@[simp] theorem setRun_withdrawn (e : Nat) (r : EntryRun) (d : Device) : (setRun e r d).withdrawn = d.withdrawn := rfl
@[simp] theorem setRun_spilling (e : Nat) (r : EntryRun) (d : Device) : (setRun e r d).spilling = d.spilling := rfl
@[simp] theorem setRun_slotHold (e : Nat) (r : EntryRun) (d : Device) : (setRun e r d).slotHold = d.slotHold := rfl
@[simp] theorem setRun_loaded (e : Nat) (r : EntryRun) (d : Device) : (setRun e r d).loaded = d.loaded := rfl
@[simp] theorem setRun_fab (e : Nat) (r : EntryRun) (d : Device) : (setRun e r d).fab = { d.fab with entries := Tab.put d.fab.entries e r } := rfl
@[simp] theorem setRun_twin (e : Nat) (r : EntryRun) (d : Device) : (setRun e r d).twin = d.twin := rfl
@[simp] theorem setRun_test (e : Nat) (r : EntryRun) (d : Device) : (setRun e r d).test = d.test := rfl
@[simp] theorem setRun_pcie (e : Nat) (r : EntryRun) (d : Device) : (setRun e r d).pcie = d.pcie := rfl
@[simp] theorem setRun_slabs (e : Nat) (r : EntryRun) (d : Device) : (setRun e r d).slabs = d.slabs := rfl
@[simp] theorem setRun_cellStore (e : Nat) (r : EntryRun) (d : Device) : (setRun e r d).cellStore = d.cellStore := rfl

/-! A page list is part of the role. -/

@[simp] theorem putList_out (l : PageList) (d : Device) : (putList l d).out = d.out := rfl
@[simp] theorem putList_freeCtr (l : PageList) (d : Device) : (putList l d).freeCtr = d.freeCtr := rfl
@[simp] theorem putList_power (l : PageList) (d : Device) : (putList l d).power = d.power := rfl
@[simp] theorem putList_fuses (l : PageList) (d : Device) : (putList l d).fuses = d.fuses := rfl
@[simp] theorem putList_boot (l : PageList) (d : Device) : (putList l d).boot = d.boot := rfl
@[simp] theorem putList_active (l : PageList) (d : Device) : (putList l d).active = d.active := rfl
@[simp] theorem putList_regs (l : PageList) (d : Device) : (putList l d).regs = d.regs := rfl
@[simp] theorem putList_cfgLocked (l : PageList) (d : Device) : (putList l d).cfgLocked = d.cfgLocked := rfl
@[simp] theorem putList_cfgHeld (l : PageList) (d : Device) : (putList l d).cfgHeld = d.cfgHeld := rfl
@[simp] theorem putList_errs (l : PageList) (d : Device) : (putList l d).errs = d.errs := rfl
@[simp] theorem putList_stats (l : PageList) (d : Device) : (putList l d).stats = d.stats := rfl
@[simp] theorem putList_hif (l : PageList) (d : Device) : (putList l d).hif = d.hif := rfl
@[simp] theorem putList_queues (l : PageList) (d : Device) : (putList l d).queues = d.queues := rfl
@[simp] theorem putList_job (l : PageList) (d : Device) : (putList l d).job = d.job := rfl
@[simp] theorem putList_work (l : PageList) (d : Device) : (putList l d).work = d.work := rfl
@[simp] theorem putList_veRegs (l : PageList) (d : Device) : (putList l d).veRegs = d.veRegs := rfl
@[simp] theorem putList_veScales (l : PageList) (d : Device) : (putList l d).veScales = d.veScales := rfl
@[simp] theorem putList_bnd (l : PageList) (d : Device) : (putList l d).bnd = d.bnd := rfl
@[simp] theorem putList_onTaken (l : PageList) (d : Device) : (putList l d).onTaken = d.onTaken := rfl
@[simp] theorem putList_tree (l : PageList) (d : Device) : (putList l d).tree = d.tree := rfl
@[simp] theorem putList_poolD (l : PageList) (d : Device) : (putList l d).poolD = d.poolD := rfl
@[simp] theorem putList_poolLast (l : PageList) (d : Device) : (putList l d).poolLast = d.poolLast := rfl
@[simp] theorem putList_poolNext (l : PageList) (d : Device) : (putList l d).poolNext = d.poolNext := rfl
@[simp] theorem putList_mem (l : PageList) (d : Device) : (putList l d).mem = d.mem := rfl
@[simp] theorem putList_scrub (l : PageList) (d : Device) : (putList l d).scrub = d.scrub := rfl
@[simp] theorem putList_withdrawn (l : PageList) (d : Device) : (putList l d).withdrawn = d.withdrawn := rfl
@[simp] theorem putList_spilling (l : PageList) (d : Device) : (putList l d).spilling = d.spilling := rfl
@[simp] theorem putList_slotHold (l : PageList) (d : Device) : (putList l d).slotHold = d.slotHold := rfl
@[simp] theorem putList_loaded (l : PageList) (d : Device) : (putList l d).loaded = d.loaded := rfl
@[simp] theorem putList_fab (l : PageList) (d : Device) : (putList l d).fab = d.fab := rfl
@[simp] theorem putList_twin (l : PageList) (d : Device) : (putList l d).twin = d.twin := rfl
@[simp] theorem putList_test (l : PageList) (d : Device) : (putList l d).test = d.test := rfl
@[simp] theorem putList_pcie (l : PageList) (d : Device) : (putList l d).pcie = d.pcie := rfl
@[simp] theorem putList_slabs (l : PageList) (d : Device) : (putList l d).slabs = d.slabs := rfl
@[simp] theorem putList_cellStore (l : PageList) (d : Device) : (putList l d).cellStore = d.cellStore := rfl

/-! What a boundary collects is part of the role. -/

@[simp] theorem updateCol_out (f : Collect → Collect) (d : Device) : (updateCol f d).out = d.out := rfl
@[simp] theorem updateCol_freeCtr (f : Collect → Collect) (d : Device) : (updateCol f d).freeCtr = d.freeCtr := rfl
@[simp] theorem updateCol_power (f : Collect → Collect) (d : Device) : (updateCol f d).power = d.power := rfl
@[simp] theorem updateCol_fuses (f : Collect → Collect) (d : Device) : (updateCol f d).fuses = d.fuses := rfl
@[simp] theorem updateCol_boot (f : Collect → Collect) (d : Device) : (updateCol f d).boot = d.boot := rfl
@[simp] theorem updateCol_active (f : Collect → Collect) (d : Device) : (updateCol f d).active = d.active := rfl
@[simp] theorem updateCol_regs (f : Collect → Collect) (d : Device) : (updateCol f d).regs = d.regs := rfl
@[simp] theorem updateCol_cfgLocked (f : Collect → Collect) (d : Device) : (updateCol f d).cfgLocked = d.cfgLocked := rfl
@[simp] theorem updateCol_cfgHeld (f : Collect → Collect) (d : Device) : (updateCol f d).cfgHeld = d.cfgHeld := rfl
@[simp] theorem updateCol_errs (f : Collect → Collect) (d : Device) : (updateCol f d).errs = d.errs := rfl
@[simp] theorem updateCol_stats (f : Collect → Collect) (d : Device) : (updateCol f d).stats = d.stats := rfl
@[simp] theorem updateCol_hif (f : Collect → Collect) (d : Device) : (updateCol f d).hif = d.hif := rfl
@[simp] theorem updateCol_queues (f : Collect → Collect) (d : Device) : (updateCol f d).queues = d.queues := rfl
@[simp] theorem updateCol_job (f : Collect → Collect) (d : Device) : (updateCol f d).job = d.job := rfl
@[simp] theorem updateCol_work (f : Collect → Collect) (d : Device) : (updateCol f d).work = d.work := rfl
@[simp] theorem updateCol_veRegs (f : Collect → Collect) (d : Device) : (updateCol f d).veRegs = d.veRegs := rfl
@[simp] theorem updateCol_veScales (f : Collect → Collect) (d : Device) : (updateCol f d).veScales = d.veScales := rfl
@[simp] theorem updateCol_bnd (f : Collect → Collect) (d : Device) : (updateCol f d).bnd = d.bnd := rfl
@[simp] theorem updateCol_role (f : Collect → Collect) (d : Device) : (updateCol f d).role = { d.role with col := f d.role.col } := rfl
@[simp] theorem updateCol_onTaken (f : Collect → Collect) (d : Device) : (updateCol f d).onTaken = d.onTaken := rfl
@[simp] theorem updateCol_tree (f : Collect → Collect) (d : Device) : (updateCol f d).tree = d.tree := rfl
@[simp] theorem updateCol_poolD (f : Collect → Collect) (d : Device) : (updateCol f d).poolD = d.poolD := rfl
@[simp] theorem updateCol_poolLast (f : Collect → Collect) (d : Device) : (updateCol f d).poolLast = d.poolLast := rfl
@[simp] theorem updateCol_poolNext (f : Collect → Collect) (d : Device) : (updateCol f d).poolNext = d.poolNext := rfl
@[simp] theorem updateCol_mem (f : Collect → Collect) (d : Device) : (updateCol f d).mem = d.mem := rfl
@[simp] theorem updateCol_scrub (f : Collect → Collect) (d : Device) : (updateCol f d).scrub = d.scrub := rfl
@[simp] theorem updateCol_withdrawn (f : Collect → Collect) (d : Device) : (updateCol f d).withdrawn = d.withdrawn := rfl
@[simp] theorem updateCol_spilling (f : Collect → Collect) (d : Device) : (updateCol f d).spilling = d.spilling := rfl
@[simp] theorem updateCol_slotHold (f : Collect → Collect) (d : Device) : (updateCol f d).slotHold = d.slotHold := rfl
@[simp] theorem updateCol_loaded (f : Collect → Collect) (d : Device) : (updateCol f d).loaded = d.loaded := rfl
@[simp] theorem updateCol_fab (f : Collect → Collect) (d : Device) : (updateCol f d).fab = d.fab := rfl
@[simp] theorem updateCol_twin (f : Collect → Collect) (d : Device) : (updateCol f d).twin = d.twin := rfl
@[simp] theorem updateCol_test (f : Collect → Collect) (d : Device) : (updateCol f d).test = d.test := rfl
@[simp] theorem updateCol_pcie (f : Collect → Collect) (d : Device) : (updateCol f d).pcie = d.pcie := rfl
@[simp] theorem updateCol_slabs (f : Collect → Collect) (d : Device) : (updateCol f d).slabs = d.slabs := rfl
@[simp] theorem updateCol_cellStore (f : Collect → Collect) (d : Device) : (updateCol f d).cellStore = d.cellStore := rfl

@[simp] theorem takeFree_value (d : Device) : (takeFree d).1 = Config.free d.freeCtr := rfl

/-! ### What does not depend on emissions, queues or registers -/

@[simp] theorem powered_emit (e : Emission) (d : Device) : powered (emit e d) = powered d := rfl
@[simp] theorem fwRuns_emit (e : Emission) (d : Device) : fwRuns (emit e d) = fwRuns d := rfl
@[simp] theorem serving_emit (e : Emission) (d : Device) : serving (emit e d) = serving d := rfl
@[simp] theorem inBoundary_emit (e : Emission) (d : Device) : inBoundary (emit e d) = inBoundary d := rfl
@[simp] theorem groupOf_emit (e : Emission) (d : Device) (g : Nat) : groupOf (emit e d) g = groupOf d g := rfl
@[simp] theorem queueOf_emit (e : Emission) (d : Device) (q : Nat) : queueOf (emit e d) q = queueOf d q := rfl
@[simp] theorem regGet_emit (e : Emission) (d : Device) (r : RegName) : regGet (emit e d) r = regGet d r := rfl
@[simp] theorem serving_setQueue (q : Nat) (x : QState) (d : Device) : serving (setQueue q x d) = serving d := rfl
@[simp] theorem serving_regSet (r : RegName) (v : W64) (d : Device) : serving (regSet r v d) = serving d := rfl
@[simp] theorem regGet_setQueue (q : Nat) (x : QState) (d : Device) (r : RegName) :
    regGet (setQueue q x d) r = regGet d r := rfl

/-! ### A packet or an event changes queues and emissions alone -/

theorem pushPacket_eq (q : Nat) (ws : List W64) (d : Device) :
    pushPacket q ws d = { d with queues := (pushPacket q ws d).queues, slabs := (pushPacket q ws d).slabs } := by
  simp only [pushPacket]
  split
  · cases fullKind d q <;> rfl
  · rfl

theorem postEvent_eq (k : EventKind) (level block cell step info : Nat) (d : Device) :
    postEvent k level block cell step info d =
      { d with queues := (postEvent k level block cell step info d).queues
               slabs := (postEvent k level block cell step info d).slabs
               out := (postEvent k level block cell step info d).out
               pcie := (postEvent k level block cell step info d).pcie } := by
  simp only [postEvent]
  rw [pushPacket_eq]
  split
  · rw [msix_eq]
  · rfl

/-- An event that finds room in the event queue, with no gap pending, is appended as one packet of four words. -/
theorem postEvent_words (k : EventKind) (level block cell step info : Nat) (d : Device)
    (room : queueFull d 128 = false) (gap : (queueOf d 128).gap = 0) (whole : (queueOf d 128).cut = false) :
    (queueOf (postEvent k level block cell step info d) 128).words.map (·.data) =
      (queueOf d 128).words.map (·.data) ++ eventWords d k level block cell step info := by
  have q : queueOf (pushPacket 128 (eventWords d k level block cell step info) d) 128 =
      queueOf (postEvent k level block cell step info d) 128 := by
    simp only [postEvent]
    split
    · rw [msix_eq]; rfl
    · rfl
  have data : ∀ l : List W64, ((l.zip (List.range l.length)).map fun p =>
      (queueWord p.1 (p.2 + 1 == l.length) 0).data) = l := fun l => by
    exact List.map_fst_zip (by simp)
  rw [← q, pushPacket_words _ _ _ whole, room]
  simp only [Bool.false_eq_true, if_false, acceptFirst, gap, if_true, List.map_append, List.map_map]
  exact congrArg _ (data _)

/-! ### States -/

@[simp] theorem lift_eq (f : Device → Device) (s : State) :
    lift f s = .next { s with dev := f { s.dev with out := [] } } := rfl

/-- A lifted command answers a next state, and leaves the waiting commands. -/
theorem lift_next (f : Device → Device) (s t : State) (h : lift f s = .next t) :
    t.dev = f { s.dev with out := [] } ∧ t.pending = s.pending := by
  cases h
  exact ⟨rfl, rfl⟩

@[simp] theorem step_idle (d : Device) : step { dev := d, pending := [] } = .next { dev := d, pending := [] } := rfl

end Sys2Proof.Machine
end

