-- ==== Sys2Proof/Laws/Ports.lean ====
section
/-!
SUPPORT. What serving a port can do (R295 to R297): it emits frames, and of the fabric it changes the chunks' marks, the group
served last and the turn; with nothing ready it changes nothing.
-/
set_option Elab.async false
namespace Sys2Proof.Machine

/-- Everything that serving a port leaves as it was. -/
def Served (a b : Device) : Prop :=
  b = { a with
    out := b.out
    fab := { a.fab with chunks := b.fab.chunks, lastGroup := b.fab.lastGroup, turn := b.fab.turn } }

theorem served_refl (d : Device) : Served d d := rfl

theorem served_trans {a b c : Device} (h : Served a b) (k : Served b c) : Served a c := by
  unfold Served at h k ⊢
  rw [k]
  rw [h]

theorem served_emit (e : Emission) (d : Device) : Served d (emit e d) := rfl

theorem served_takeChunk (id : Nat) (t : TxChunk) (d : Device) : Served d (takeChunk id t d) := rfl

theorem serveLoop_served (fuel port : Nat) (r : PortRun) (d : Device) : Served d (serveLoop fuel port r d) := by
  induction fuel generalizing r d with
  | zero => exact served_refl d
  | succ n ih =>
    simp only [serveLoop]
    split
    · split
      · exact served_trans (served_emit _ d) (ih _ _)
      · exact ih _ _
    · split
      · exact served_trans (served_takeChunk _ _ d) (ih _ _)
      · split
        · rfl
        · exact ih _ _

theorem servePort_served (d : Device) (port : Nat) : Served d (servePort d port) := by
  simp only [servePort]
  split
  · rfl
  · exact serveLoop_served _ _ _ _

theorem servePorts_served (ps : List Nat) (d : Device) : Served d (ps.foldl servePort d) := by
  induction ps generalizing d with
  | nil => exact served_refl d
  | cons p ps ih => exact served_trans (servePort_served d p) (ih _)

theorem serve_served (d : Device) : Served d (serve d) := by
  unfold serve
  split
  · exact served_refl d
  · exact servePorts_served _ d

theorem serve_eq (d : Device) : serve d = { d with
    out := (serve d).out
    fab := { d.fab with chunks := (serve d).fab.chunks, lastGroup := (serve d).fab.lastGroup, turn := (serve d).fab.turn } } :=
  serve_served d

/-- With no chunk ready on any port, serving changes nothing. -/
theorem serve_idle (d : Device) (h : ∀ e ∈ d.fab.chunks, e.2.waiting = false ∧ e.2.again = false) : serve d = d := by
  have one : ∀ p, servePort d p = d := by
    intro p
    have none : (d.fab.chunks.filter fun e => readyOn d p e.2) = [] := by
      rw [List.filter_eq_nil_iff]
      intro e he
      simp [readyOn, h e he]
    simp [servePort, none]
  unfold serve
  split
  · rfl
  · generalize List.range 8 = ps
    induction ps with
    | nil => rfl
    | cons p ps ih => simpa [one p] using ih

/-! What serving leaves as it was, field by field. -/

@[simp] theorem serve_freeCtr (d : Device) : (serve d).freeCtr = d.freeCtr := by rw [serve_eq]
@[simp] theorem serve_power (d : Device) : (serve d).power = d.power := by rw [serve_eq]
@[simp] theorem serve_pcie (d : Device) : (serve d).pcie = d.pcie := by rw [serve_eq]
@[simp] theorem serve_fuses (d : Device) : (serve d).fuses = d.fuses := by rw [serve_eq]
@[simp] theorem serve_boot (d : Device) : (serve d).boot = d.boot := by rw [serve_eq]
@[simp] theorem serve_active (d : Device) : (serve d).active = d.active := by rw [serve_eq]
@[simp] theorem serve_regs (d : Device) : (serve d).regs = d.regs := by rw [serve_eq]
@[simp] theorem serve_cfgLocked (d : Device) : (serve d).cfgLocked = d.cfgLocked := by rw [serve_eq]
@[simp] theorem serve_cfgHeld (d : Device) : (serve d).cfgHeld = d.cfgHeld := by rw [serve_eq]
@[simp] theorem serve_errs (d : Device) : (serve d).errs = d.errs := by rw [serve_eq]
@[simp] theorem serve_stats (d : Device) : (serve d).stats = d.stats := by rw [serve_eq]
@[simp] theorem serve_hif (d : Device) : (serve d).hif = d.hif := by rw [serve_eq]
@[simp] theorem serve_queues (d : Device) : (serve d).queues = d.queues := by rw [serve_eq]
@[simp] theorem serve_slabs (d : Device) : (serve d).slabs = d.slabs := by rw [serve_eq]
@[simp] theorem serve_job (d : Device) : (serve d).job = d.job := by rw [serve_eq]
@[simp] theorem serve_work (d : Device) : (serve d).work = d.work := by rw [serve_eq]
@[simp] theorem serve_cellStore (d : Device) : (serve d).cellStore = d.cellStore := by rw [serve_eq]
@[simp] theorem serve_veRegs (d : Device) : (serve d).veRegs = d.veRegs := by rw [serve_eq]
@[simp] theorem serve_veScales (d : Device) : (serve d).veScales = d.veScales := by rw [serve_eq]
@[simp] theorem serve_bnd (d : Device) : (serve d).bnd = d.bnd := by rw [serve_eq]
@[simp] theorem serve_role (d : Device) : (serve d).role = d.role := by rw [serve_eq]
@[simp] theorem serve_onTaken (d : Device) : (serve d).onTaken = d.onTaken := by rw [serve_eq]
@[simp] theorem serve_tree (d : Device) : (serve d).tree = d.tree := by rw [serve_eq]
@[simp] theorem serve_poolD (d : Device) : (serve d).poolD = d.poolD := by rw [serve_eq]
@[simp] theorem serve_mem (d : Device) : (serve d).mem = d.mem := by rw [serve_eq]
@[simp] theorem serve_scrub (d : Device) : (serve d).scrub = d.scrub := by rw [serve_eq]
@[simp] theorem serve_withdrawn (d : Device) : (serve d).withdrawn = d.withdrawn := by rw [serve_eq]
@[simp] theorem serve_spilling (d : Device) : (serve d).spilling = d.spilling := by rw [serve_eq]
@[simp] theorem serve_slotHold (d : Device) : (serve d).slotHold = d.slotHold := by rw [serve_eq]
@[simp] theorem serve_loaded (d : Device) : (serve d).loaded = d.loaded := by rw [serve_eq]
@[simp] theorem serve_twin (d : Device) : (serve d).twin = d.twin := by rw [serve_eq]
@[simp] theorem serve_test (d : Device) : (serve d).test = d.test := by rw [serve_eq]
@[simp] theorem serve_fab_up (d : Device) : (serve d).fab.up = d.fab.up := by rw [serve_eq]
@[simp] theorem serve_fab_downEvt (d : Device) : (serve d).fab.downEvt = d.fab.downEvt := by rw [serve_eq]
@[simp] theorem serve_fab_twinUp (d : Device) : (serve d).fab.twinUp = d.fab.twinUp := by rw [serve_eq]
@[simp] theorem serve_fab_particles (d : Device) : (serve d).fab.particles = d.fab.particles := by rw [serve_eq]
@[simp] theorem serve_fab_nextId (d : Device) : (serve d).fab.nextId = d.fab.nextId := by rw [serve_eq]
@[simp] theorem serve_fab_receive (d : Device) : (serve d).fab.receive = d.fab.receive := by rw [serve_eq]
@[simp] theorem serve_fab_seen (d : Device) : (serve d).fab.seen = d.fab.seen := by rw [serve_eq]
@[simp] theorem serve_fab_entries (d : Device) : (serve d).fab.entries = d.fab.entries := by rw [serve_eq]
@[simp] theorem serve_fab_counters (d : Device) : (serve d).fab.counters = d.fab.counters := by rw [serve_eq]
@[simp] theorem serve_fab_slotLists (d : Device) : (serve d).fab.slotLists = d.fab.slotLists := by rw [serve_eq]

end Sys2Proof.Machine
end

