-- ==== Sys2Proof/Machine/Wire.lean ====
section
/-!
DEFINITION. What an emitted frame is on the wire, before its FCS: the Ethernet header (R286, R289, R323), the Darven header
(R287) and the payload. A function of the emission and the device that sent it; no command reads it.
-/
namespace Sys2Proof.Machine

/-- `n` bytes of a number, the most significant first, as Ethernet header fields are (R8). -/
def bytesBig (n v : Nat) : List Byte := (bytesOfNat n v).reverse

/-- The MAC address of a port of a node, 8 being the twin port, from the node table (R289) as a read delivers it (R445;
notes/assumptions 112); the table has none of a switch (notes/assumptions 3). -/
def macOf (d : Device) (node port : Nat) : List Byte :=
  if node = switchNode then Config.switchMac port
  else (touchRange d.mem (regField d .fabNodeTable 6 42 * 64 + 64 * node + 6 * port) 6).1

/-- The optional 802.1Q tag with the VID and the PCP of the virtual channel (R286, R323). -/
def vlanTag (d : Device) (vc : Nat) : List Byte :=
  if regField d .fabFrame 28 1 = 1 then
    bytesBig 2 0x8100 ++ bytesBig 2 (regField d .fabFrame (32 + 3 * (vc % 4)) 3 * 2 ^ 13 + regField d .fabFrame 16 12)
  else []

/-- The 48 bytes of the Darven header (R287). -/
def darvenHeader (ftype : Nat) (f : Frame) : List Byte :=
  bytesOfNat 1 (f.version + 2 ^ 4 * f.vc) ++ bytesOfNat 1 ftype ++ bytesOfNat 2 f.len ++ bytesOfNat 4 f.src ++
    bytesOfNat 4 f.dst ++ bytesOfNat 4 f.gen ++ bytesOfNat 1 f.group ++ bytesOfNat 1 (f.frag + 2 ^ 3 * f.nfrag) ++
    bytesOfNat 2 f.rank ++ bytesOfNat 2 f.entry ++ bytesOfNat 2 f.flags.toNat ++ bytesOfNat 8 f.step ++
    bytesOfNat 2 f.piece ++ bytesOfNat 2 (f.index + 2 ^ 15 * f.phase) ++ bytesOfNat 4 f.crc ++ bytesOfNat 8 f.agree.toNat

/-- A frame of a type as a port sends it, without its FCS (R286). -/
def frameBytes (d : Device) (port ftype : Nat) (f : Frame) : List Byte :=
  macOf d f.dst port ++ macOf d (nodeId d) port ++ vlanTag d f.vc ++ bytesBig 2 (regField d .fabFrame 0 16) ++
    darvenHeader ftype f ++ f.payload

/-- The frames that an emission puts on the fabric ports and on the twin port, which is number 8, as (port, bytes); a particle is
a copy on every port named (R298). -/
def wireFrames (d : Device) : Emission → List (Nat × List Byte)
  | .frame port ftype f => [(port, frameBytes d port ftype f)]
  | .particle ports node p =>
    ((List.range 8).filter ports.getLsbD).map fun port =>
      (port, frameBytes d port 0x04 (particleFrame d node p))
  | .twin _ part r => ((twinChunks d true part r).flatMap (chunkFrames d)).map fun f => (8, frameBytes d 8 0x01 f)
  | _ => []

end Sys2Proof.Machine
end

