-- ==== Sys2Proof/Laws/Wire.lean ====
section
/-!
SUPPORT. Lengths on the wire: the Darven header has 48 bytes, an Ethernet address 6, a frame its headers and its payload.
-/
set_option Elab.async false
namespace Sys2Proof.Machine

@[simp] theorem bytesBig_length (n v : Nat) : (bytesBig n v).length = n := by simp [bytesBig]

/-- The Darven header has 48 bytes (R287). -/
@[simp] theorem darvenHeader_length (ftype : Nat) (f : Frame) : (darvenHeader ftype f).length = 48 := by
  simp [darvenHeader]

/-- A frame that no switch names carries the two addresses, an optional tag, the type, the Darven header and its payload. -/
theorem frameBytes_length (d : Device) (port ftype : Nat) (f : Frame) (h : f.dst ≠ switchNode)
    (h' : nodeId d ≠ switchNode) :
    (frameBytes d port ftype f).length = 62 + (vlanTag d f.vc).length + f.payload.length := by
  simp only [frameBytes, macOf, h, h', if_false, List.length_append, bytesBig_length,
    darvenHeader_length, touchRange_length]
  omega

end Sys2Proof.Machine
end

