-- ==== Sys2Proof/Laws/WorkArea.lean ====
section
/-!
SUPPORT. The firmware work area (R534): what `workPlace` answers, and that it answers while there is room.
-/
namespace Sys2Proof.Machine

theorem roundUp_bounds (n k : Nat) (h : 0 < k) : n ≤ roundUp n k ∧ roundUp n k < n + k := by
  have h1 := Nat.div_add_mod (n + k - 1) k
  have h2 := Nat.mod_lt (n + k - 1) h
  rw [Nat.mul_comm] at h1
  unfold roundUp
  omega

theorem filter_length_le {α : Type} (p q : α → Bool) (xs : List α) (h : ∀ v ∈ xs, p v = true → q v = true) :
    (xs.filter p).length ≤ (xs.filter q).length := by
  induction xs with
  | nil => simp
  | cons v t ih =>
    have ih := ih fun v hv => h v (by simp [hv])
    have hv := h v List.mem_cons_self
    by_cases hp : p v = true
    · rw [List.filter_cons_of_pos hp, List.filter_cons_of_pos (hv hp)]; exact Nat.succ_le_succ ih
    · rw [List.filter_cons_of_neg hp]
      by_cases hq : q v = true
      · rw [List.filter_cons_of_pos hq]; exact Nat.le_succ_of_le ih
      · rw [List.filter_cons_of_neg hq]; exact ih

theorem filter_length_lt {α : Type} (p q : α → Bool) (xs : List α) (u : α) (h : ∀ v ∈ xs, p v = true → q v = true)
    (hu : u ∈ xs) (hp : p u = false) (hq : q u = true) : (xs.filter p).length < (xs.filter q).length := by
  induction xs with
  | nil => simp at hu
  | cons v t ih =>
    have ht := filter_length_le p q t fun v hv => h v (by simp [hv])
    rcases List.mem_cons.1 hu with rfl | hu
    · simp only [List.filter_cons, hp, hq, if_true, List.length_cons, Bool.false_eq_true, if_false]
      omega
    · have ih := ih (fun v hv => h v (by simp [hv])) hu
      have hv := h v List.mem_cons_self
      by_cases hp : p v = true
      · rw [List.filter_cons_of_pos hp, List.filter_cons_of_pos (hv hp)]; exact Nat.succ_lt_succ ih
      · rw [List.filter_cons_of_neg hp]
        by_cases hq : q v = true
        · rw [List.filter_cons_of_pos hq]; exact Nat.lt_succ_of_lt ih
        · rw [List.filter_cons_of_neg hq]; exact ih

theorem rangesMeet_iff (a n b m : Nat) : rangesMeet a n b m = true ↔ 0 < n ∧ 0 < m ∧ a < b + m ∧ b < a + n := by
  simp [rangesMeet, Nat.pos_iff_ne_zero, and_assoc]

/-- The least of some numbers, and of one more. -/
theorem foldl_min_spec (xs : List (Nat × Nat)) (m : Nat) :
    xs.foldl (fun m u => min m u.1) m ≤ m ∧ (∀ u ∈ xs, xs.foldl (fun m u => min m u.1) m ≤ u.1) ∧
      ∀ b, b ≤ m → (∀ u ∈ xs, b ≤ u.1) → b ≤ xs.foldl (fun m u => min m u.1) m := by
  induction xs generalizing m with
  | nil => simp
  | cons u t ih =>
    obtain ⟨h1, h2, h3⟩ := ih (min m u.1)
    refine ⟨by simp only [List.foldl_cons]; omega, ?_, ?_⟩
    · intro v hv
      rcases List.mem_cons.1 hv with rfl | hv
      · simp only [List.foldl_cons]
        omega
      · exact h2 v hv
    · intro b hb hu
      exact h3 b (by have := hu u (by simp); omega) fun v hv => hu v (by simp [hv])

/-- A place that the work area has lies inside it and meets no used range. -/
theorem workPlace_free (d : Device) (used : List (Nat × Nat)) (align n x a : Nat)
    (h : workPlace d used align n x = some a) :
    (workArea d).1 ≤ a ∧ a + n ≤ (workArea d).1 + (workArea d).2 ∧ ∀ u ∈ used, rangesMeet a n u.1 u.2 = false := by
  simp only [workPlace, Option.map_eq_some_iff] at h
  obtain ⟨s, hs, rfl⟩ := h
  have hm := List.mem_of_getElem? hs
  rw [List.mem_filter] at hm
  obtain ⟨hc, hf⟩ := hm
  simp only [Bool.and_eq_true, decide_eq_true_eq, List.all_eq_true, Bool.not_eq_true'] at hf
  have hb : (workArea d).1 ≤ s := by
    rcases List.mem_cons.1 hc with rfl | hc
    · omega
    · obtain ⟨u, -, rfl⟩ := List.mem_map.1 hc
      omega
  have hr := foldl_min_spec (used.filter fun u => s ≤ u.1 && u.2 ≠ 0) ((workArea d).1 + (workArea d).2)
  generalize (used.filter fun u => s ≤ u.1 && u.2 ≠ 0).foldl (fun m u => min m u.1)
    ((workArea d).1 + (workArea d).2) = room at *
  generalize x / _ = y
  have hk : align * (y % ((room - s - n) / align + 1)) ≤ room - s - n := by
    have h1 := Nat.mod_lt y (Nat.succ_pos ((room - s - n) / align))
    exact Nat.le_trans (Nat.mul_le_mul_left _ (Nat.le_of_lt_succ h1)) (Nat.mul_div_le (room - s - n) align)
  generalize align * _ = k at *
  refine ⟨by omega, ?_, ?_⟩
  · by_cases hn : k = 0
    · omega
    · omega
  · intro u hu
    have hmeet := hf.2 u hu
    rw [← Bool.not_eq_true, rangesMeet_iff] at hmeet ⊢
    intro hc
    by_cases hs : s ≤ u.1
    · have := hr.2.1 u (List.mem_filter.2 ⟨hu, by simp [hs, show u.2 ≠ 0 by omega]⟩)
      omega
    · omega

/-- With room for each used range and one more, none of them and no alignment longer than `m` bytes together with `n`, the work
area has a place. -/
theorem workPlace_room (d : Device) (used : List (Nat × Nat)) (align n m x : Nat) (ha : 0 < align) (hm : n + align ≤ m)
    (hu : ∀ u ∈ used, n + u.2 + align ≤ m) (hr : (used.length + 1) * m ≤ (workArea d).2) :
    (workPlace d used align n x).isSome = true := by
  let ok := fun a => decide (a + n ≤ (workArea d).1 + (workArea d).2) && used.all fun u => !rangesMeet a n u.1 u.2
  let cs := (workArea d).1 :: used.map fun u => (workArea d).1 + roundUp (u.1 + u.2 - (workArea d).1) align
  have key : ∀ k a, a ∈ cs → (used.filter fun u => a < u.1 + u.2).length ≤ k →
      a + (k + 1) * m ≤ (workArea d).1 + (workArea d).2 → ∃ c ∈ cs, ok c = true := by
    intro k
    induction k with
    | zero =>
      intro a hc hk hb
      refine ⟨a, hc, ?_⟩
      simp only [ok, Bool.and_eq_true, decide_eq_true_eq, List.all_eq_true, Bool.not_eq_true']
      refine ⟨by omega, fun u hu => ?_⟩
      have : ¬ a < u.1 + u.2 := by
        intro h
        have := List.length_pos_of_mem (List.mem_filter.2 ⟨hu, by simpa using h⟩ : u ∈ used.filter fun u => decide (a < u.1 + u.2))
        omega
      rw [← Bool.not_eq_true, rangesMeet_iff]
      omega
    | succ k ih =>
      intro a hc hk hb
      by_cases hok : ok a = true
      · exact ⟨a, hc, hok⟩
      · have hfit : a + n ≤ (workArea d).1 + (workArea d).2 := by
          have : m ≤ (k + 1 + 1) * m := Nat.le_mul_of_pos_left m (by omega)
          omega
        have hsome : (used.any fun u => rangesMeet a n u.1 u.2) = true := by
          simpa [ok, hfit, List.any_eq_not_all_not] using hok
        obtain ⟨u, hin, hmeet⟩ := List.any_eq_true.1 hsome
        rw [rangesMeet_iff] at hmeet
        have hbase : (workArea d).1 ≤ a := by
          rcases List.mem_cons.1 hc with rfl | hc
          · omega
          · obtain ⟨v, -, rfl⟩ := List.mem_map.1 hc
            omega
        have hup := roundUp_bounds (u.1 + u.2 - (workArea d).1) align ha
        refine ih _ (List.mem_cons_of_mem _ (List.mem_map.2 ⟨u, hin, rfl⟩)) ?_ ?_
        · have hlt : (used.filter fun v => (workArea d).1 + roundUp (u.1 + u.2 - (workArea d).1) align < v.1 + v.2).length <
              (used.filter fun v => a < v.1 + v.2).length := by
            apply filter_length_lt _ _ used u
            · intro v _ hv
              simp only [decide_eq_true_eq] at hv ⊢
              omega
            · exact hin
            · simp only [decide_eq_false_iff_not]
              omega
            · simp only [decide_eq_true_eq]
              omega
          omega
        · have := hu u hin
          have e : (k + 1 + 1) * m = (k + 1) * m + m := by rw [Nat.add_mul]; omega
          omega
  obtain ⟨c, hc, hok⟩ := key used.length (workArea d).1 (by simp [cs]) (List.length_filter_le _ _) (by omega)
  have hne : cs.filter ok ≠ [] := List.ne_nil_of_mem (List.mem_filter.2 ⟨hc, hok⟩)
  have hlen : x % (cs.filter ok).length < (cs.filter ok).length := Nat.mod_lt _ (List.length_pos_iff.2 hne)
  simp only [workPlace, Option.isSome_map]
  exact Option.isSome_iff_exists.2 ⟨_, List.getElem?_eq_getElem hlen⟩

/-- The parts of a request find their places while the work area has room for every used range and three more. -/
theorem houseRequest_room (q : Request) (d : Device) (m : Nat)
    (hu : ∀ u ∈ workUsed d, stateSize d + 4 * q.promptLen + 4 * q.maxNew + u.2 + 64 ≤ m)
    (hr : ((workUsed d).length + 3) * m ≤ (workArea d).2)
    (hm : 2 * (stateSize d + 4 * q.promptLen + 4 * q.maxNew) + 64 ≤ m) : (houseRequest q d).isSome = true := by
  have mono : ∀ k, k ≤ (workUsed d).length + 3 → k * m ≤ (workArea d).2 := fun k hk =>
    Nat.le_trans (Nat.mul_le_mul_right m hk) hr
  have room := fun used align n x ha hn hu hl =>
    Option.isSome_iff_exists.1 (workPlace_room d used align n m x ha hn hu hl)
  simp only [houseRequest, takeFree]
  obtain ⟨a, ha⟩ := room (workUsed d) 64 (stateSize d) (Config.free d.freeCtr) (by omega) (by omega)
    (fun u h => by have := hu u h; omega) (mono _ (by omega))
  simp only [ha, Option.bind_eq_bind, Option.bind_some]
  obtain ⟨b, hb⟩ := room ((a, stateSize d) :: workUsed d) 4 (4 * q.promptLen) (Config.free (d.freeCtr + 1)) (by omega) (by omega)
    (fun u h => by
      rcases List.mem_cons.1 h with rfl | h
      · simp only; omega
      · have := hu u h; omega)
    (mono _ (by simp only [List.length_cons]; omega))
  simp only [hb, Option.bind_some]
  obtain ⟨c, hc⟩ := room ((b, 4 * q.promptLen) :: (a, stateSize d) :: workUsed d) 4 (4 * q.maxNew)
    (Config.free (d.freeCtr + 1 + 1)) (by omega) (by omega)
    (fun u h => by
      rcases List.mem_cons.1 h with rfl | h
      · simp only; omega
      · rcases List.mem_cons.1 h with rfl | h
        · simp only; omega
        · have := hu u h; omega)
    (mono _ (by simp only [List.length_cons]; omega))
  simp only [hc, Option.bind_some, Option.isSome_some]

/-- A directory without lists needs no entry arrays. -/
theorem houseLists_none (q : Request) (d : Device) (h : dirPlaces d = []) : (houseLists q d).isSome = true := by
  have none' : ∀ e : Device, dirPlaces e = [] → mainKeys e q.slot = [] := fun e he => by simp [mainKeys, he]
  simp [houseLists, none' d h, none' (unhouseLists q.slot d) h, whenOk]

end Sys2Proof.Machine
end

