-- ==== Sys2Proof/Tests/Slice0.lean ====
section
/-!
SUPPORT. The model's own tests: ill-formed commands that the check refuses, small facts that the manual gives, and for each
statement with premises a state and operands that meet them (`meets_<statement>`).
-/
set_option Elab.async false
open Sys2Proof Sys2Proof.Machine

namespace Sys2Proof.Tests

/-! ### Small states -/

/-- A state around a device. -/
def at' (d : Device) : State := { dev := d, pending := [] }

/-- The next state of an answer. -/
def after (o : Host.Outcome State Fault Refusal) : Option State :=
  match o with
  | .next t => some t
  | _ => none

/-- Powered, wiped, linked; firmware runs; not locked. -/
def up : Device :=
  { deviceAtPowerOn with
    power := { deviceAtPowerOn.power with linkUp := true }
    boot := { deviceAtPowerOn.boot with
      phase := .running
      wipe := { deviceAtPowerOn.boot.wipe with hubDone := true, blockDone := true, hbmDone := true, localDone := true } } }

/-- Node 1 of 4, ring 0 of each kind enabled, configuration locked. -/
def live : Device :=
  { up with
    cfgLocked := true
    regs := [(.fabNode, 0x0000000400000001#64), (.hifSq 0, 0x24#64), (.hifCq 0, 0x24#64), (.hifTq 0, 0x24#64)] }

/-- A partition of nodes 0 and 1, this device at a rank. -/
def pairGroup (rank : Nat) : Group :=
  { gen := 0, members := 2, myRank := rank, nodesAt := 0, nodes := [0, 1], ctimeout := 0 }

/-- The device at a rank of that partition. -/
def member (rank : Nat) : Device := { live with role := { live.role with groups := [(0, pairGroup rank)] } }

/-- The same with a step in flight. -/
def stepping (rank : Nat) : Device := { member rank with job := { live.job with inFlight := true } }

/-- A step particle of generation 0. -/
def stepP (type step sender : Nat) : Particle :=
  { type := type, status := 0, group := 0, gen := 0, step := step, sender := sender, entry := 0 }

/-- The frame of a particle from a node, as it comes in on port 0. -/
def pinOf (src : Nat) (p : Particle) : ParticleIn := { port := 0, frame := { particleFrame live 1 p with src := src } }

/-- A descriptor of ring 0 from its fields as (bit, value). -/
def desc (fields : List (Nat × Nat)) (a b : Option (List Byte)) : Fetched :=
  { ring := 0, index := 0, desc := BitVec.ofNat 512 ((fields.map fun x => x.2 * 2 ^ x.1).foldl (· + ·) 0), blockA := a, blockB := b }

/-- A good frame of virtual channel 1 from node 0. -/
def frame : Frame :=
  { fcsOk := true, etype := 0x88B5, bytesOnWire := 78, version := 1, rsvZero := true, vc := 1, len := 0, src := 0, dst := 1,
    gen := 0, group := 0, frag := 0, nfrag := 0, rank := 0, entry := 0, flags := 0#7, step := 0, piece := 0, index := 0, phase := 0,
    crc := 0, agree := 0#64, payload := [] }

/-- A copy of the first page of a list. -/
def copyOf (e : PageEntry) : TierCopy :=
  { taken := false, key := { dir := 0x200000, slot := 0, layer := 0, head := 0 }, index := 0, dest := e, gen := 0 }

/-- A small sentence with the clauses, entries and sample points given. -/
def sentence (cs : List Clause) (ts : List TrigEntry) (ps : List SamplePoint) : Sentence :=
  { dst := 0x1000, len := 64, clauses := cs, trig := ts, samples := ps, buckets := [], plan := [], pools := [], dir := 0x200000,
    dirLayers := 1, dirHeads := 1, fwArea := 0x400000, fwSize := 0x100000, digest := List.replicate 64 0#8 }

/-- A device with that sentence loaded. -/
def loaded (d : Device) (x : Sentence) : Device :=
  { d with loaded := { d.loaded with modelDigest := some (List.replicate 64 0#8), sentence := some x } }

/-! ### Ill-formed commands (the check refuses each) -/

/-- A well-formed descriptor, and one whose ring index is too large. -/
theorem test_wf_descriptor : Instr.wf (.query (desc [] none none)) = true ∧
    Instr.wf (.query { desc [] none none with index := 2 ^ 32 }) = false := by decide +kernel

/-- A frame whose LEN is not its payload's, and one with a group of 64. -/
theorem test_wf_frame : Instr.wf (.data 0 frame) = true ∧ Instr.wf (.data 0 { frame with len := 1 }) = false ∧
    Instr.wf (.nak 0 { frame with group := 64 }) = false := by decide +kernel

/-- Particles, self-tests, seen words, copies, word reads, images. -/
theorem test_wf_operands :
    Instr.wf (.stepWant { port := 0, frame := { frame with src := 2 ^ 32 } }) = false ∧
      Instr.wf (.reset { cells := [(128, 0)], units := [] }) = false ∧
      Instr.wf (.tileClaim ⟨0, 0, 0⟩ [{ block := 0, next := 2 ^ 32, stop := 0, epoch := 0 }]) = false ∧
      Instr.wf (.tierCopyDone (copyOf { slot := 0, tier := 3, fp4 := false, shared := false })) = false ∧
      Instr.wf (.scrubRead .hub { symbols := [(35, 1#8)], stackCorrected := false, stackUncorrected := false }) = false ∧
      Instr.wf (.load { manifest := some (List.replicate 4000 0#8), segments := none }) = false := by decide +kernel

/-- Numbers beyond their width, empty data, and accesses that are not what their row says. -/
theorem test_wf_numbers :
    Instr.wf (.hello (2 ^ 32) (ownHello up)) = false ∧ Instr.wf (.order 0 (2 ^ 48) []) = false ∧
      Instr.wf (.contributionFold 0 (2 ^ 16) 0) = false ∧ Instr.wf (.creditWaitTimeout (2 ^ 32)) = false ∧
      Instr.wf (.queuePacket 0 []) = false ∧ Instr.wf (.stepBegin [{ addr := 0, bytes := [] }] []) = false ∧
      Instr.wf (.wipeDone [] [] [] [] (2 ^ 32)) = false ∧ Instr.wf (.bar2Access (.read 0 0)) = false ∧
      Instr.wf (.registerWrite 4 .whole 0#64 .none) = false ∧ Instr.wf (.registerWrite 8 .low 0x100000000#64 .none) = false ∧
      Instr.wf (.getCertificate 8 0 0) = false ∧ Instr.wf (.getMeasurements 256 false []) = false ∧
      Instr.wf (.unsupportedRequest 256) = false ∧ Instr.wf (.bar0SizeAccess 8 8 true) = false := by decide +kernel

/-! ### Steps, memory, fuses -/

theorem meets_StepTakesFront : (State.mk live [.twinPortUp, .svnCommit]).pending = .twinPortUp :: [.svnCommit] ∧
    (at' live).pending = [] := ⟨rfl, rfl⟩

theorem meets_CommandsKeepQueue : ∃ t, exec .twinPortUp (State.mk live [.svnCommit]) = .next t := ⟨_, rfl⟩

theorem meets_MemoryCanonicalKept :
    MemoryCanonical (State.mk { live with mem := { live.mem with bytes := [(5, 1#8)] } } [.twinPortUp]) ∧
      ∃ t, step (State.mk { live with mem := { live.mem with bytes := [(5, 1#8)] } } [.twinPortUp]) = .next t :=
  ⟨by unfold MemoryCanonical; decide +kernel, _, rfl⟩

theorem meets_WriteThenRead : memWf [(5, 1#8), (7, 2#8)] = true := by decide

/-- A memory with one wrong symbol in word 64, and with two. -/
def hurt (e : List (Nat × Byte)) : Mem := { bytes := [(70, 9#8)], upsets := [(64, e)], spill := [], armed := none }

/-- A word that holds the error, and a range that meets it. -/
def meetsWord (e : List (Nat × Byte)) (a n : Nat) : Bool :=
  memWf (hurt e).bytes && 64 % 32 = 0 && (hurt e).armed.isNone && (hurt e).upsets = [(64, e)] && e.all (·.1 < 35) &&
    overlapsWord 64 a n

theorem meets_ReadOutcomes : meetsWord [(34, 7#8)] 95 1 = true ∧ (7#8 : Byte) ≠ 0#8 ∧
    meetsWord [(0, 1#8), (34, 1#8)] 64 1 = true ∧ findWord [(0, 1#8), (34, 1#8)] = .uncorrectable ∧ 0 < 35 ∧ 34 < 35 ∧ 0 ≠ 34 := by
  decide +kernel

/-- The code corrects one wrong symbol (R445): the last check symbol of word 64. -/
theorem test_one_symbol : touchRange (hurt [(34, 7#8)]) 70 1 = ([9#8], { hurt [] with upsets := [] }, [.corrected 64]) := by
  decide +kernel

theorem meets_WritesMerge :
    (meetsWord [(34, 7#8)] 64 32 = true ∧ 64 ≤ 64 ∧ 64 + 32 ≤ 64 + 32) ∧
    (meetsWord [(34, 7#8)] 90 8 = true ∧ ¬ (90 ≤ 64 ∧ 64 + 32 ≤ 90 + 8)) ∧
    (meetsWord [(0, 1#8), (1, 1#8)] 65 31 = true ∧ ¬ (65 ≤ 64 ∧ 64 + 32 ≤ 65 + 31) ∧
      findWord [(0, 1#8), (1, 1#8)] = .uncorrectable) := by
  decide +kernel

/-- The check bytes of R444 for a word of zeros but a last byte 1: the generator's coefficients. -/
theorem test_check_bytes : sc1Check (List.replicate 31 0#8 ++ [1#8]) = [0x07#8, 0x0E#8, 0x08#8] := by decide +kernel

theorem meets_FusesOnlyAdvance : BurnForward (State.mk live [.svnCommit]) ∧
    ∃ t, step (State.mk live [.svnCommit]) = .next t := ⟨trivial, _, rfl⟩

/-! ### Resets, power, boot -/

theorem meets_ResetsDiscard : (powered live = true ∧ pcieTest live = false ∧ linked live = true) ∧
    (({ live with power := { live.power with inReset := true } } : Device).power.pwrGood = true ∧
      ({ live with power := { live.power with inReset := true } } : Device).power.inReset = true) ∧
    powered ({ live with boot := { live.boot with burn := some (.lifecycle .scrap) } } : Device) = true := by decide +kernel

theorem meets_PowerAndIslandsChange :
    ((({ live with power := { live.power with pwrGood := false } } : Device).power.pwrGood = false ∧
      ({ live with power := { live.power with pwrGood := false } } : Device).power.thermtrip = false) ∧
    (({ live with power := { live.power with pwrGood := false, thermtrip := true } } : Device).power.pwrGood = false ∧
      ({ live with power := { live.power with pwrGood := false, thermtrip := true } } : Device).power.thermtrip = true) ∧
    (({ live with power := { live.power with inReset := true } } : Device).power.pwrGood = true ∧
      ({ live with power := { live.power with inReset := true } } : Device).power.inReset = true) ∧
    live.power.pwrGood = true) ∧
    live.power.pwrGood = true ∧ throttles (.ve 3) = true ∧ Island.ve 3 ∉ live.power.throttled ∧
    throttles .hub = true ∧ throttles .pcie = false ∧ (powered live = true ∧ pcieTest live = false ∧ live.pcie.pending = 0#64) ∧
    (powered { live with test := { live.test with busy := true } } = true ∧
      pcieTest { live with test := { live.test with busy := true } } = true) := by decide +kernel

theorem meets_SetupChangesOnlyByWrites : (∃ t, exec .twinPortUp (State.mk live []) = .next t) ∧
    (resetsOrBurns (.registerWrite 0x010010 .low 0x2#64 .none) = false ∧ regAt 0x010010 = some .lcsBootCtl ∧
      (partWord .low 0x2#64).getLsbD 2 = false) ∧ resetsOrBurns .twinPortUp = false ∧ writesSetup .twinPortUp = false ∧ live.cfgLocked = true ∧
    live.active.getLsbD 7 = true := ⟨⟨_, rfl⟩, by decide +kernel, rfl, rfl, rfl, by decide +kernel⟩

/-- Before and after the hub wipe. -/
def wiping (hub : Bool) : Device :=
  { deviceAtPowerOn with boot := { deviceAtPowerOn.boot with wipe := { deviceAtPowerOn.boot.wipe with hubDone := hub } } }

theorem meets_WipeEnds : (powered (wiping false) = true ∧ (wiping false).boot.wipe.hubDone = false) ∧
    (powered (wiping true) = true ∧ (wiping true).boot.wipe.hubDone = true ∧ wipeDone (wiping true) = false ∧
      (wiping true).cfgHeld = false) ∧
    (inHub (hubBase + 40) = true ∧ (queueOf (wiping false) 128).gap = 0 ∧ queueFull (wiping false) 128 = false ∧
      (queueOf (wiping false) 128).cut = false) ∧
    (wipeDone (wiping false) = false ∧ some WipePart.block = some .block) := by decide +kernel

/-- Waiting for firmware, with an image of 1,024 bytes. -/
def waiting (l : Lifecycle) : Device :=
  { up with
    boot := { up.boot with phase := .waitFw }, fuses := { up.fuses with lifecycle := l }
    regs := [(.lcsFwLen, 1024#64)] }

/-- A manifest of one segment of 512 bytes at image offset 512, for the production key. -/
def manifest : List Byte :=
  bytesOfNat 4 0x31504E48 ++ bytesOfNat 2 1 ++ bytesOfNat 2 1 ++ bytesOfNat 4 0 ++ bytesOfNat 4 0 ++
    (bytesOfNat 4 0 ++ bytesOfNat 4 512 ++ bytesOfNat 4 512 ++ bytesOfNat 4 0 ++ bytesOfNat 4 0 ++ bytesOfNat 12 0 ++
      bytesOfNat 64 0) ++ bytesOfNat 114 0

theorem meets_LoadVerifies :
    let rd : LoadRead := { manifest := some manifest, segments := some [List.replicate 512 0#8] }
    linked (waiting .field) = true ∧ (waiting .field).boot.phase = .waitFw ∧ (waiting .field).fuses.lifecycle ≠ .scrap ∧
      rd.manifest = some manifest ∧ rd.segments = some [List.replicate 512 0#8] ∧
      manifestOk manifest (regField (waiting .field) .lcsFwLen 0 26) = true ∧
      keyAccepted (waiting .field).fuses.lifecycle (manifestKey manifest) = true ∧
      (waiting .field).fuses.svn ≤ manifestSvn manifest := by decide +kernel

/-- A verified image about to run. -/
def verified : Device :=
  { up with boot := { up.boot with phase := .verifying, loading := some { measurement := [], svn := 3 } } }

theorem meets_FirmwareRuns : verified.boot.loading = some { measurement := [], svn := 3 } ∧ powered verified = true ∧
    verified.boot.phase = .verifying ∧ verified.cfgHeld = false ∧ classByte verified.fuses.lifecycle = some 0x01#8 ∧ classByte .scrap = none := by decide +kernel

/-- Firmware of SVN 3 over a fused SVN of 0, and the burns. -/
def running3 : Device := { up with boot := { up.boot with runSvn := 3 } }
def burning (b : Burn) : Device := { up with boot := { up.boot with burn := some b } }

theorem meets_FusesBurn :
    (linked running3 = true ∧ running3.boot.phase = .running ∧ running3.fuses.svn < running3.boot.runSvn ∧
      running3.boot.burn = none) ∧
    (linked up = true ∧ up.boot.phase = .running ∧ up.boot.runSvn ≤ up.fuses.svn) ∧
    (linked (waiting .field) = true ∧ (waiting .field).boot.phase ≠ .running) ∧
    (powered (burning (.svn 3)) = true ∧ (burning (.svn 3)).boot.burn = some (.svn 3)) ∧
    (linked (waiting .field) = true ∧ (waiting .field).boot.phase = .waitFw ∧ (waiting .field).boot.burn = none) ∧
    (powered (burning (.lifecycle .scrap)) = true ∧ (burning (.lifecycle .scrap)).boot.burn = some (.lifecycle .scrap)) := by
  decide +kernel

/-- SCRAP needs no token (R483); BLANK to FIELD does not exist. -/
theorem test_transitions : transition .field .scrap = some none ∧ transition .blank .field = none ∧
    transition .scrap .blank = none ∧ transition .test .field = some (some 0) := by decide

/-- A device in the middle of a boundary. -/
def midBoundary (d : Device) : Device := { d with bnd := { d.bnd with ops := [.advance] } }

theorem meets_ReportWritten :
    (linked up = true ∧ up.boot.phase = .running ∧ (classByte up.fuses.lifecycle).isSome = true ∧ inBoundary up = false) ∧
    (linked (midBoundary up) = true ∧ (midBoundary up).boot.phase = .running ∧
      (classByte (midBoundary up).fuses.lifecycle).isSome = true ∧ inBoundary (midBoundary up) = true) ∧
    (linked (waiting .field) = true ∧ (waiting .field).boot.phase ≠ .running) ∧
    (let d := { up with fuses := { up.fuses with lifecycle := .blank } }
     linked d = true ∧ d.boot.phase = .running ∧ classByte d.fuses.lifecycle = none) := by decide +kernel

/-! ### Test -/

/-- A loop-back that runs, before and after its lock. -/
def looping (lock : Bool) (target depth : Nat) : Device :=
  { up with test := { up.test with busy := true, lock := lock, target := target, depth := depth } }

theorem meets_LoopbackRuns :
    (linked up = true ∧ wipeDone up = true ∧ lockWritten up = false ∧ up.test.busy = false ∧
      loopbackExists (bitsOf (0x10010#64).toNat 4 3) (bitsOf (0x10010#64).toNat 8 4) (bitsOf (0x10010#64).toNat 12 2) = true ∧
      bitsOf (0x10010#64).toNat 16 32 ≠ 0) ∧
    (loopbackExists (bitsOf (0x70#64).toNat 4 3) (bitsOf (0x70#64).toNat 8 4) (bitsOf (0x70#64).toNat 12 2) = false) ∧
    ((looping true 1 0).test.busy = true ∧ (3#64).getLsbD 1 = true ∧ (looping true 1 0).test.waiting = [] ∧
      (looping true 1 0).cfgHeld = false) ∧
    ((looping false 1 0).test.busy = true ∧ (looping false 1 0).cfgHeld = false ∧ (looping false 1 0).test.lock = false) ∧
    ((looping true 0 2).test.busy = true ∧ (looping true 0 2).cfgHeld = false ∧ (looping true 0 2).test.lock = true ∧
      (looping true 0 2).test.target = 0 ∧ (looping true 0 2).test.depth = 2) ∧
    (¬ ((looping true 1 0).test.target = 0 ∧ (looping true 1 0).test.depth = 2)) ∧ linked (looping true 1 0) = true := by
  decide +kernel

theorem meets_InjectionArms :
    (linked (waiting .test) = true ∧ injectOpen (waiting .test) = true ∧ bitsOf (0#64).toNat 48 3 < 2) ∧
    (bitsOf (0x2000000000000#64).toNat 48 3 = 2) ∧
    (linked (waiting .field) = true ∧ injectOpen (waiting .field) = false) := by decide +kernel

/-! ### Registers, BAR2, SPDM -/

theorem meets_CountsClear : linked live = true := by decide +kernel

theorem meets_LockedFieldsKeep :
    (linked up = true ∧ regAt 0x030058 = some .cfgSched ∧ rwlMask .cfgSched &&& partMask .low ≠ 0 ∧ up.cfgLocked = false) ∧
    (linked live = true ∧ live.cfgLocked = true) ∧
    (regAt 0x010048 = some .lcsReportDst ∧ rwMask .lcsReportDst ≠ 0 ∧ rwlMask .lcsReportDst = 0 ∧
      RegName.lcsReportDst ≠ .tstLbCtl ∧ RegName.lcsReportDst ≠ .tstInject) := by decide +kernel

/-- The registers of a configuration that every check accepts. -/
def goodRegs : List (RegName × W64) :=
  [(.hifSq 0, 0x24#64), (.hifCq 0, 0x24#64), (.fabNode, 0x0000000200000000#64), (.fabRetry, 0x07010000#64),
   (.cfgStepDoneTimeout, 0x10000000#64), (.cfgStepStartTimeout, 0x10000000#64), (.twnCfg, 0x400001000000#64)]

/-- A held CFG_LOCK. -/
def holdingLock (d : Device) : Device := { d with cfgHeld := true }

theorem meets_LockChecks :
    (linked { up with regs := goodRegs } = true ∧ lockWritten { up with regs := goodRegs } = false ∧
      ({ up with regs := goodRegs } : Device).boot.phase = .running ∧ wipeDone { up with regs := goodRegs } = true ∧
      ({ up with regs := goodRegs } : Device).test.busy = false ∧ lockFailures { up with regs := goodRegs } = []) ∧
    (linked up = true ∧ lockWritten up = false ∧ (lockFailures up).min? = some 0x020200) ∧
    (linked (waiting .field) = true ∧ lockWritten (waiting .field) = false ∧ (waiting .field).boot.phase ≠ .running) ∧
    (let d := holdingLock verified
     d.cfgHeld = true ∧ d.cfgLocked = false ∧ powered d = true ∧ d.boot.loading.isSome = true ∧ wipeDone d = true ∧
      d.test.busy = false ∧ { d.test with busy := true }.busy = true) ∧
    (let d := holdingLock { up with boot := { up.boot with wipe := { up.boot.wipe with localDone := false } } }
     d.cfgHeld = true ∧ d.cfgLocked = false ∧ powered d = true ∧ d.boot.wipe.hubDone = true ∧ wipeDone d = false ∧
      d.boot.phase = .running) := by
  decide +kernel

theorem meets_HostAccessEvents : linked live = true ∧ live.onTaken = false ∧ ¬ (8 = 8 ∧ 4 % 8 = 0) ∧ ¬ (8 = 4 ∧ 4 % 4 = 0) ∧
    (8 = 8 ∧ certWindow % 8 = 0) ∧
    (regAt (0x030058 / 8 * 8) = some .cfgSched ∧
      RegName.cfgSched ∉ [.cfgStepDigest 0, .queEventWord, .queEventInfo, .tstLbStatus, .tstLbResult] ∧
      certWindow + 0x4000 ≤ 0x030058) ∧
    (certWindow < certWindow + 0x4000 ∧ regAt (certWindow / 8 * 8) = none) ∧
    (regAt (0x1FFFFF8 / 8 * 8) = none ∧ certWindow + 0x4000 ≤ 0x1FFFFF8) := by
  decide +kernel

theorem bar2_at_zero : bar2Base live = 0 := by
  have h : regField live .hifBar2Window 30 18 = 0 := by decide +kernel
  simp [bar2Base, h]

/-- HBM begins at 0 here: HBM offset 4096 of a device without a sentence, and one whose work area holds it. -/
theorem meets_Bar2Reaches :
    (linked live = true ∧ ErrorFree live ∧ memWf live.mem.bytes = true ∧ live.test.waiting = []) ∧
    meetsSpans (stepWrites live ++ live.work.read) (bar2Base live + 4096) 2 = false ∧
    (∀ op, linkTaken op live = false) ∧ meetsSpans (stepWrites live) (bar2Base live + 4096) 2 = false ∧
    (∀ k, k < 2 → bar2Reaches live (bar2Base live + 4096 + k) = true ∧ memoryDone live (bar2Base live + 4096 + k) = true ∧
      firmwareByte live (bar2Base live + 4096 + k) = none ∧ bar2Writes live (bar2Base live + 4096 + k) = true ∧
      firmwareOwned live (bar2Base live + 4096 + k) = false) ∧
    firmwareOwned (loaded live (sentence [] [] [])) (0x400000 + 1) = true ∧
    linkTaken (.read (blockBase - bar2Base (looping true 4 0)) 8) (looping true 4 0) = true := by
  refine ⟨⟨by decide +kernel, ⟨rfl, rfl⟩, by decide +kernel⟩, by decide +kernel, ?_, by decide +kernel, ?_, by decide +kernel,
    by decide +kernel⟩
  · intro op
    cases op <;> rfl
  · rw [bar2_at_zero]
    decide +kernel

/-- After the exchange of algorithms, with and without a boundary. -/
def talking (b : Bool) : Device :=
  { up with
    boot := { up.boot with spdm := .negotiated, chain := [1#8, 2#8], aliasSeed := [3#8] }
    bnd := { up.bnd with ops := if b then [.advance] else [] } }

theorem meets_SpdmAnswers :
    (spdmServes (talking false) = true ∧ (talking false).boot.spdm ≠ .start ∧ (talking false).boot.spdm ≠ .version ∧
      (talking false).fuses.lifecycle ≠ .scrap ∧ (true || false) = true ∧ 0x10 ∉ spdmCodes) ∧
    ((talking false).boot.spdm = .negotiated ∧ 1 < (talking false).boot.chain.length ∧
      (talking false).boot.chain ≠ [] ∧ (talking false).boot.aliasSeed ≠ [] ∧ inBoundary (talking false) = false ∧
      field (messageBytes [] (measurementsRequest 5 true [])) 36 1 % 16 = 0 ∧
      field (messageBytes (List.replicate 45 1#8) (measurementsRequest 5 true [])) 36 1 % 16 ≠ 0) ∧
    (spdmServes (talking true) = true ∧ (talking true).boot.aliasSeed ≠ [] ∧ inBoundary (talking true) = true) := by
  decide +kernel

/-! ### Queues -/

def emptyQ : QState := QState.empty

/-- Token queue 3 holds a number of words of two-word packets. -/
def holding (n : Nat) (gap : Nat) : Device :=
  { live with
    queues := [(3, { emptyQ with
      words := (List.range n).map (fun k => queueWord (BitVec.ofNat 64 k) (k % 2 == 1) 0), gap := gap })]
    regs := live.regs ++ [(.hifTq 3, 0x24#64)] }

theorem meets_QueueAccepts :
    (powered (holding 2 1) = true ∧ (3 : Fin 1024).val ≠ 128 ∧ [1#64, 2#64].length ≤ queuePktMax (3 : Fin 1024).val ∧
      (queueOf (holding 2 1) 3).port = [] ∧ (queueOf (holding 2 1) 3).cut = false ∧ (queueOf (holding 2 1) 3).swallow = false ∧
      (queueOf (holding 2 1) 3).refusing = false ∧ (queueOf (holding 2 1) 3).begun = 0 ∧
      queueFull (holding 2 1) 3 = false) ∧
    (powered (holding 4000 0) = true ∧ (queueOf (holding 4000 0) 3).port = [] ∧ (queueOf (holding 4000 0) 3).swallow = false ∧
      (queueOf (holding 4000 0) 3).refusing = false ∧ (queueOf (holding 4000 0) 3).begun = 0 ∧
      queueFull (holding 4000 0) 3 = true) := by
  decide +kernel

theorem meets_ConsumerCommands :
    powered (holding 3 0) = true ∧ (queueOf (holding 3 0) 3).port = [] ∧ afterEnd (queueOf (holding 3 0) 3).words = some [queueWord 2#64 false 0] ∧
      afterEnd ({ emptyQ with begun := 1 } : QState).words = none := by
  decide +kernel

theorem meets_TokensDrain :
    powered (holding 4 0) = true ∧ (holding 4 0).cfgLocked = true ∧ (queueOf (holding 4 0) 3).port = [] ∧
      0 < min (packetsOf (queueOf (holding 4 0) 3)).length (tqRoom (holding 4 0) 3) ∧
      batchReady { holding 8 0 with regs := (.queTqCfg 3, 0x1000003#64) :: (holding 8 0).regs } 3 = true ∧
      0 < min (packetsOf (queueOf (holding 8 0) 3)).length (tqRoom (holding 8 0) 3) := by
  decide +kernel

/-! ### The host interface -/

/-- Rings 0 and 1 hold a descriptor each that has not been fetched. -/
def filled : Device :=
  { live with
    regs := live.regs ++ [(.hifSq 1, 0x24#64)]
    hif := { live.hif with sqProd := [(0, 1), (1, 1)] } }

/-- The device with a descriptor as the next one of its ring. -/
def offered (f : Fetched) (d : Device) : Device :=
  { d with hif := { d.hif with sqProd := [(f.ring.val, f.index + 1)], sqCons := [(f.ring.val, f.index)] } }

/-- `Comes` as a test. -/
def comes (d : Device) (f : Fetched) : Bool := fetches d f.ring && f.index = nextIndex d f.ring

/-- A descriptor that is offered and that its receiver keeps to itself. -/
def joining (f : Fetched) (d : Device) : Bool := comes (offered f d) f && tellsNone (offered f d)

theorem meets_DoorbellPagesRead : powered live = true ∧ live.cfgLocked = true ∧ live.twin.retired = false ∧
    live.job.halted = false ∧ live.bnd.ops.head? ≠ some .doorbell ∧ serving live = true ∧ live.pcie.host.cplTimeout ≠ 1#4 ∧
    fetches filled 1 = true ∧ fetches live 63 = false ∧ (9000 ≤ 9001 ∧ 8999 < 9000) := by
  decide +kernel

/-- A load of 512 bytes to HBM on ring 0. -/
def load512 : Fetched := desc [(0, 0x02), (192, 0x10000000), (256, 512)] (some (List.replicate 512 1#8)) none

theorem meets_DescriptorsFetched :
    fetches filled 1 = true ∧
    (let f : Fetched := { ring := 1, index := 0, desc := 0x10#512, blockA := none, blockB := none }
     opcodeOf f ≠ 0x60 ∧ opcodeOf f ≠ 0x01 ∧ opcodeOf f ≠ 0x02) ∧
    (fetches filled 0 = true ∧ load512.ring = 0 ∧ load512.index = Tab.getD filled.hif.sqCons (0 : Fin 64).val 0 ∧
      filled.job.inFlight = false ∧ opcodeOf load512 = 0x02 ∧ descOk filled load512 = true ∧ load512.blockA.isSome = true ∧
      (filled.mem.upsets = [] ∧ filled.mem.armed = none)) ∧
    tellsNone filled = true ∧
    (let d := { filled with role := (member 1).role }
     fetches d 1 = true ∧ tellsNone d = false ∧ inBoundary d = false ∧ d.job.startOrdered = false ∧ mirrors d = false) := by
  decide +kernel

/-- QUERY of group 0 into 64 bytes, and of a group that does not exist. -/
def groupQuery (n : Nat) : Fetched := desc [(0, 0x60), (128, 3), (160, n), (192, 0x1000), (256, 64)] none none

theorem meets_QueryAnswered :
    (let d := offered (groupQuery 0) (midBoundary live)
     comes d (groupQuery 0) = true ∧ opcodeOf (groupQuery 0) = 0x60 ∧ inBoundary d = true) ∧
    comes (offered (groupQuery 0) live) (groupQuery 0) = true ∧ comes (offered (groupQuery 64) live) (groupQuery 64) = true ∧
    opcodeOf (groupQuery 0) = 0x60 ∧ live.bnd.posting = [] ∧ live.twin.state = .unpaired ∧ live.onTaken = false ∧
      inBoundary live = false ∧ (live.mem.upsets = [] ∧ live.mem.armed = none) ∧ cqEnabled live (cqOf (groupQuery 0)) = true ∧
      queueFull live (64 + cqOf (groupQuery 0)) = false ∧ descOk live (groupQuery 0) = true ∧
      (queryAnswer live (groupQuery 0)).isSome = true ∧
      opcodeOf (groupQuery 64) = 0x60 ∧ cqEnabled live (cqOf (groupQuery 64)) = true ∧
      queueFull live (64 + cqOf (groupQuery 64)) = false ∧ queryAnswer live (groupQuery 64) = none := by
  decide +kernel

/-! ### Descriptors -/

def sampler : Sampler :=
  { invTemp := 0#32, topP := 0x3F800000#32, topK := 0, countPrompt := false, coupled := false, dmax := 0, dmin := 0, depth := 0
    rep := 0x3F800000#32, freq := 0#32, pres := 0#32, rngPos := 1, drafted := 0, accepted := 0, stops := [], counts := [] }

/-- Request slot 2, generation 1, of one prompt token. -/
def request (x : ReqState) : Request :=
  { slot := 2, gen := 1, state := x, prefillOnly := false, priority := 0, variant := 0, late := false, exporting := false
    fwPause := false, resumePend := false, deadline := 0, admitStep := 0, promptLen := 1, npos := 0, seed := 0#64, tokensOut := 0
    maxNew := 4, stateAddr := 0, promptAt := 0, tokensAt := 0, lastStep := 0, sampler := sampler, prompt := [7#32], released := [], cq := 0, tq := 0, tag := 0#64
    slotList := 0, skipShared := false, stream := 0#64, outAddr := 0, outLen := 0, placedEver := false, goalReleased := false
    finished := false, draftNpos := 0, heldResumes := [], variantEpoch := 0, lv := 0, counted := 0 }

/-- Ring 1 too, and that request in its slot. -/
def withReq (x : ReqState) : Device :=
  let d := loaded { live with regs := live.regs ++ [(.hifSq 1, 0x24#64)] } (sentence [] [] [])
  { d with role := { d.role with reqs := [(2, request x)], slotGen := [(2, 1)], variants := [(0, variantZero)] } }

/-- A descriptor on ring 1 with the request's handle. -/
def reqDesc (op : Nat) (fields : List (Nat × Nat)) : Fetched :=
  { desc ((0, op) :: (32, handleOfReq (request .queued)) :: fields) none none with ring := 1 }

/-- A prompt of token 7, and parameters that sample with temperature 0. -/
def params : List Byte :=
  bytesOfNat 4 0 ++ bytesOfNat 4 0x3F800000 ++ bytesOfNat 4 0 ++ bytesOfNat 4 0x3F800000 ++ bytesOfNat 112 0

def submit : Fetched :=
  { desc [(0, 0x10), (192, 1), (224, 4)] (some [7#8, 0#8, 0#8, 0#8]) (some params) with ring := 1 }

/-- A device whose boundary stands at action 4 of a descriptor, the last thing of it. -/
def atFour (f : Fetched) (d : Device) : Device := { d with bnd := { d.bnd with ops := [.apply f] } }

/-- A device without a boundary that serves its own role stands at action 4 once one is put there. -/
theorem atFour_stands (f : Fetched) (d : Device)
    (h : (powered d && d.cfgLocked && !d.job.fatal && d.bnd.posting.isEmpty &&
      (d.twin.state = .unpaired || d.twin.state = .paired) && d.twin.taken.isNone && !d.onTaken && d.hif.log.mode ≠ 2) = true) :
    AtActionFour (atFour f d) f = true := by
  simp only [AtActionFour, atFour, decide_true, Bool.and_true]
  exact h

theorem meets_RequestDescriptors :
    ((.reqSubmit submit, 0x10) ∈ [(Instr.reqSubmit submit, 0x10)] ∧ joining submit (withReq .queued) = true ∧
      opcodeOf submit = 0x10) ∧
    (∀ x ∈ [ReqState.queued, .prefill, .paused], ∀ op ∈ [0x11, 0x12, 0x13, 0x14],
      let f := reqDesc op (if op = 0x14 then [(128, 9), (136, 1)] else [])
      AtActionFour (atFour f (withReq x)) f = true ∧ reqOf (atFour f (withReq x)) (handleOf f) = some (request x) ∧
        opcodeOf f = op ∧ descOk (atFour f (withReq x)) f = true) ∧
    (request .queued).slot < 16384 ∧ priorityEdits (reqDesc 0x14 [(128, 9), (136, 1)]) = some [] ∧
    (let d := atFour submit (withReq .decode)
     AtActionFour d submit = true ∧ descOk d submit = true ∧ opcodeOf submit = 0x10 ∧ d.role.held = [] ∧
      freeReqSlot d = some 0 ∧ (parseSubmit submit 0 d).isSome = true) := by
  decide +kernel

/-- A device whose sentence has no lists, at action 4 of that descriptor. -/
def bare : Device :=
  atFour submit (loaded (withReq .decode) { sentence [] [] [] with dirLayers := 0 })

/-- Firmware finds places in the work area for the request, whichever it takes. -/
theorem meets_RequestDescriptors_room (q : Request) (hq : parseSubmit submit 0 bare = some q) :
    AtActionFour bare submit = true ∧ descOk bare submit = true ∧ freeReqSlot bare = some 0 ∧ workHolds bare q = true := by
  have hp : q.promptLen = 1 ∧ q.maxNew = 4 := by
    have h : (parseSubmit submit 0 bare).map (fun q => (q.promptLen, q.maxNew)) = some (1, 4) := by decide +kernel
    simpa [hq] using h
  have h := houseRequest_room q bare 0x1000 (by rw [hp.1, hp.2]; decide +kernel) (by decide +kernel)
    (by rw [hp.1, hp.2]; decide +kernel)
  obtain ⟨r, hr⟩ := Option.isSome_iff_exists.1 h
  refine ⟨by decide +kernel, by decide +kernel, by decide +kernel, ?_⟩
  have hl : r.2.loaded = bare.loaded := by
    simp only [houseRequest, Option.bind_eq_bind, Option.bind_eq_some_iff] at hr
    obtain ⟨a, -, b, -, c, -, hr⟩ := hr
    simp only [Option.some.injEq] at hr
    rw [← hr]
    rfl
  have hd : dirPlaces (setReq r.1 r.2) = [] := by
    have h0 : dirLayers (setReq r.1 r.2) = 0 := by
      simp only [dirLayers, setReq, hl]
      rfl
    simp [dirPlaces, h0]
  simp only [workHolds, admitRequest, hr, Option.bind_eq_bind, Option.bind_some]
  exact houseLists_none r.1 _ hd

/-- Group 5 of the nodes 0 and 1 of node 1, and its new nodes. -/
def defineGroup : Fetched :=
  desc [(0, 0x30), (128, 5), (134, 1), (160, 3), (192, 2), (224, 1), (256, 0x8000), (320, 0xFF0000)] none none
def reformGroup : Fetched := desc [(0, 0x31), (128, 5), (160, 4), (192, 1), (256, 0x8000)] none none

/-- Step waits long enough for that group. -/
def patient (bytes : Memory) (gs : Tab Group) : Device :=
  { live with
    regs := live.regs ++ [(.cfgStepDoneTimeout, 0xFFFFFFFFF#64), (.cfgStepStartTimeout, 0xFFFFFFFFF#64)]
    mem := { live.mem with bytes := bytes }, role := { live.role with groups := gs } }

theorem meets_GroupsDefined :
    (let d := patient [(0x8004, 1#8)] [(0, pairGroup 0)]
     joining defineGroup d = true ∧ joining reformGroup d = true ∧ AtActionFour (atFour defineGroup d) defineGroup = true ∧ d.twin.state = .unpaired ∧
      descOk (atFour defineGroup d) defineGroup = true ∧ (d.mem.upsets = [] ∧ d.mem.armed = none) ∧
      opcodeOf defineGroup = 0x30 ∧ descField defineGroup.desc 24 0 32 = 2 ∧ rangeInMap 0x8000 8 = true ∧
      groupOk d 5 { gen := 3, members := 2, myRank := 1, nodesAt := 0x8000
                    nodes := (pieces 4 2 (readBytes d.mem.bytes 0x8000 8)).map natOfBytes, ctimeout := 0xFF0000 } = true) ∧
    (let d := patient [] [(0, pairGroup 1), (5, { pairGroup 1 with gen := 3 })]
     AtActionFour (atFour reformGroup d) reformGroup = true ∧ descOk (atFour reformGroup d) reformGroup = true ∧ opcodeOf reformGroup = 0x31 ∧
      groupOf d 5 = some { pairGroup 1 with gen := 3 } ∧ descField reformGroup.desc 20 0 32 = 4 ∧
      descField reformGroup.desc 24 0 17 = 1 ∧
      (∀ w ∈ (pieces 8 1 (readBytes d.mem.bytes 0x8000 8)).map natOfBytes, bitsOf w 16 16 = 0 ∧ bitsOf w 0 16 < 2 ∧
        bitsOf w 32 32 < nodeCount d)) := by
  decide +kernel

/-- Four slots of 2^20 bytes at node 2 with credit for two, and a log of 2^20 bytes. -/
def slotsDesc : Fetched :=
  desc [(0, 0x20), (128, 9), (160, 1), (192, 2), (224, 4), (256, 0x100000), (288, 2), (320, 0x9000)] none none
def logDesc' : Fetched := desc [(0, 0x50), (128, 1), (192, 0x1000), (256, 20)] none none

theorem meets_ListsAndLogsInstall :
    joining slotsDesc live = true ∧ joining logDesc' live = true ∧ AtActionFour (atFour slotsDesc live) slotsDesc = true ∧
      descOk (atFour slotsDesc live) slotsDesc = true ∧ opcodeOf slotsDesc = 0x20 ∧
      (Tab.find live.fab.slotLists 9).map (·.gen) ≠ some 1 ∧ descField slotsDesc.desc 24 0 32 < nodeCount live ∧
      descField slotsDesc.desc 28 0 17 = 4 ∧ descField slotsDesc.desc 36 0 17 ≤ 4 ∧
      64 + slotBytes (sentenceDh live) false ≤ descField slotsDesc.desc 32 0 32 ∧
      AtActionFour (atFour logDesc' live) logDesc' = true ∧ descOk (atFour logDesc' live) logDesc' = true ∧ opcodeOf logDesc' = 0x50 ∧ live.hif.log.mode = 0 ∧ descField logDesc'.desc 16 0 2 ≠ 0 := by
  decide +kernel

/-- A model of 512 zero bytes. -/
def modelDesc : Fetched :=
  desc [(0, 0x01), (192, 0x4000), (256, 512), (320, 3), (384, 0x1000)] (some (List.replicate 512 0#8))
    (some (shake256_512 (List.replicate 512 0#8)))

/-- An image of one clause of one VECTOR operation of 16 rows and 1 column, written field by field (R363, R137, R138, R115,
R116). -/
def image : List Byte :=
  bytesOfNat 128 (1 + 2 ^ 32 + 2 ^ 72 + 2 ^ 80 + 2 ^ 96 + 168 * 2 ^ 128 + 128 * 2 ^ 160 + 136 * 2 ^ 256 + 152 * 2 ^ 288 +
      16 * 2 ^ 320 + 0x200000 * 2 ^ 576 + 2 ^ 640 + 2 ^ 656 + 0x20000000 * 2 ^ 704 + 2 ^ 21 * 2 ^ 768) ++
    bytesOfNat 8 0 ++ bytesOfNat 16 (1 + 16 * 2 ^ 32 + 0x10000 * 2 ^ 64) ++ bytesOfNat 16 1 ++
    (bytesOfNat 64 1 ++
      (bytesOfNat 32 3 ++ bytesOfNat 16 0x4000 ++ bytesOfNat 16 0 ++ bytesOfNat 16 0x5000 ++
        (bytesOfNat 8 (3 + 16 * 2 ^ 16) ++
          bytesOfNat 32 (16 * 2 ^ 32 + 2 ^ 128 + 2 ^ 192) ++ bytesOfNat 32 (1 + 4 + 2 ^ 32 + 2 ^ 128 + 2 ^ 192) ++
          bytesOfNat 32 (2 + 28 + 2 ^ 32 + 2 ^ 128 + 2 ^ 160) ++ bytesOfNat 96 0) ++
        bytesOfNat 392 0)) ++
    bytesOfNat 120 0

def imageDesc : Fetched := desc [(0, 0x02), (192, 0x10000000), (256, 1024)] (some image) none

def modelled : Device :=
  { live with loaded := { live.loaded with modelDigest := some (List.replicate 64 0#8) } }

theorem meets_ImagesAndVariantsLoad :
    (joining modelDesc live = true ∧ joining imageDesc modelled = true ∧ descOk live modelDesc = true ∧
      descOk (atFour modelDesc live) modelDesc = true ∧ tableEmpty live = true ∧ descField modelDesc.desc 32 0 48 = 512 ∧
      opcodeOf modelDesc = 0x01 ∧ descField modelDesc.desc 40 0 2 = 3 ∧ (live.mem.upsets = [] ∧ live.mem.armed = none)) ∧
    image.length = 1024 ∧
    (descOk (atFour imageDesc modelled) imageDesc = true ∧ tableEmpty modelled = true ∧ descField imageDesc.desc 32 0 48 = 1024 ∧ opcodeOf imageDesc = 0x02) := by
  decide +kernel

theorem meets_ImagesAndVariantsLoad_image :
    (parseSentence 0x10000000 image).any (fun x => sentenceFits modelled x image) = true := by
  decide +kernel

theorem meets_ImagesAndVariantsLoad_standing : AtActionFour (atFour modelDesc live) modelDesc = true ∧
    AtActionFour (atFour imageDesc modelled) imageDesc = true :=
  ⟨atFour_stands _ _ (by decide +kernel), atFour_stands _ _ (by decide +kernel)⟩

theorem meets_ImagesAndVariantsLoad_blocks : modelDesc.blockA = some (List.replicate 512 0#8) ∧
    modelDesc.blockB = some (shake256_512 (List.replicate 512 0#8)) := ⟨rfl, rfl⟩

/-- Variant 3 with one learned page in HBM. -/
def variantDesc : Fetched := desc [(0, 0x03), (128, 3), (144, 256), (192, 0x8000)] none none

theorem meets_ImagesAndVariantsLoad_variant :
    let d := loaded { live with mem := { live.mem with bytes := [(0x8006, 1#8)] } } (sentence [] [] [])
    joining variantDesc d = true ∧
      shadowTakes (atFour variantDesc d) (dirUses (atFour variantDesc d) (variantPages (atFour variantDesc d) 1
        [{ slot := 0, tier := 1, fp4 := false, shared := false }])) 0 = true ∧ AtActionFour (atFour variantDesc d) variantDesc = true ∧ descOk (atFour variantDesc d) variantDesc = true ∧ opcodeOf variantDesc = 0x03 ∧ d.loaded.modelDigest.isSome = true ∧
      (d.mem.upsets = [] ∧ d.mem.armed = none) ∧ rangeInMap 0x8000 8 = true ∧
      ((pieces 8 1 (readBytes d.mem.bytes 0x8000 8)).map natOfBytes).mapM parseEntry =
        some [{ slot := 0, tier := 1, fp4 := false, shared := false }] ∧
      descField variantDesc.desc 18 0 13 / 256 * (dirPlaces d).length = 1 := by
  decide +kernel

def attachDesc : Fetched := desc [(0, 0x41), (128, 1), (160, 2)] none none
def detachDesc : Fetched := desc [(0, 0x42)] none none
def pairedWith (x : TwinState) (d : Device) : Device := { d with twin := { d.twin with state := x } }

theorem meets_TwinDescriptors :
    (joining attachDesc live = true ∧ joining detachDesc live = true ∧ AtActionFour (atFour attachDesc live) attachDesc = true ∧
      descOk (atFour attachDesc live) attachDesc = true ∧ opcodeOf attachDesc = 0x41 ∧ live.twin.state = .unpaired ∧
      descField attachDesc.desc 16 0 2 = 1 ∧ descField attachDesc.desc 16 2 1 = 0 ∧
      descField attachDesc.desc 20 0 32 < nodeCount live ∧ descField attachDesc.desc 20 0 32 ≠ nodeId live) ∧
    (AtActionFour (atFour detachDesc (pairedWith .paired live)) detachDesc = true ∧
      descOk (atFour detachDesc (pairedWith .paired live)) detachDesc = true ∧
      opcodeOf detachDesc = 0x42 ∧ (pairedWith .paired live).twin.state = .paired) := by
  decide +kernel

/-- Halted after the boundary of step 4; JOB_RESTART names it and a new generation. -/
def restartDesc : Fetched := desc [(0, 0x40), (128, 4), (192, 1)] none none
def haltedAt4 : Device :=
  { live with
    job := { live.job with halted := true, haltGen := 0, lastBoundary := some 4 }
    hif := { live.hif with fetched := [restartDesc] } }

theorem meets_JobRestarts :
    joining restartDesc haltedAt4 = true ∧ serving haltedAt4 = true ∧ haltedAt4.bnd.posting = [] ∧ haltedAt4.job.scrubbed = [] ∧
      haltedAt4.job.lost = [] ∧ haltedAt4.job.halted = true ∧ haltedAt4.hif.fetched = [restartDesc] ∧ haltedAt4.job.inFlight = false ∧ inBoundary haltedAt4 = false ∧
      haltedAt4.twin.state = .unpaired ∧ haltedAt4.twin.taken = none ∧ haltedAt4.onTaken = false ∧ haltedAt4.job.named = [] ∧
      haltedAt4.job.agreement = false ∧ haltedAt4.job.scrubFault = false ∧ haltedAt4.hif.queries = [] ∧
      haltedAt4.boot.reportPending = false ∧ haltedAt4.boot.measWaiting = none ∧ restartDesc.ring.val = 0 ∧
      opcodeOf restartDesc = 0x40 ∧ descOk haltedAt4 restartDesc = true ∧
      descField restartDesc.desc 16 0 48 = haltInfo haltedAt4 ∧ restartOk haltedAt4 restartDesc = true := by
  decide +kernel

/-! ### Steps and tiles -/

theorem meets_StepBegins :
    let d := loaded { live with job := { live.job with wantNoted := true } } (sentence [] [] [])
    mayBegin d = true ∧ d.twin.state = .unpaired ∧ d.twin.taken = none ∧ d.onTaken = false ∧ d.hif.log.mode ≠ 2 ∧
      d.job.scrubFault = false ∧ planOk [] [] (composition (entry (at' d))) = true ∧
      ((composition (entry (at' d))).mem.upsets = [] ∧ (composition (entry (at' d))).mem.armed = none) ∧
      trigTable (composition (entry (at' d))) = [] := by
  decide +kernel

/-- An operation of one row and one column with FP32 operands. -/
def operation (k : OpKind) : OpDesc :=
  let f : Operand := { base := 0x4000, fmt := { code := .fp32, scaled := false }, paged := false, scaleBase := 0 }
  let one := fun (r : LoopRole) (p : Nat) (a b c : Int) =>
    ({ role := r, pos := p, bound := .const 1, strideA := a, strideB := b, strideC := c } : Loop)
  { kind := k, arith := { sat := false, ftz := false }, intout := false, stepout := false, noc := false, link := .none
    afmtA := f.fmt, afmtB := f.fmt, a := f, b := { f with base := 0x5000 }, c := { f with base := 0x6000 }, tm := 16
    loops := [one .m 0 1 0 1, one .n 1 0 1 1, one .k 7 1 1 0], pro := [], epi := [] }

def clause (k : OpKind) : Clause := { posA := 0, posB := 0, cls := .shared, ops := [operation k] }

/-- A step in flight of one such clause; every cell is active. -/
def before (k : OpKind) : Device :=
  loaded { stepping 1 with active := BitVec.allOnes 1536 } (sentence [clause k] [] [])

theorem meets_ClauseIssues :
    mayIssue (before .vector) = true ∧ (clausesOf (before .vector))[(before .vector).work.nextClause]? = some (clause .vector) ∧
      ((before .vector).mem.upsets = [] ∧ (before .vector).mem.armed = none) ∧ (before .vector).work.raced = [] ∧ trigTable (before .vector) = [] ∧
      (let read := (resolveBounds (clause .vector) (entry (at' (before .vector)))).1
       (∀ b ∈ read.flatten, b.2 = true ∧ b.1 ≤ boundMax) ∧
         issueOk (stageOps (issuedOps (clause .vector) (read.map fun bs => bs.map (·.1)))) = true ∧
         ((stageOps (issuedOps (clause .vector) (read.map fun bs => bs.map (·.1)))).flatten.all fun x => !x.op.b.paged) = true) := by
  decide +kernel

/-- The context of block 3, cell 2. -/
def ctx : CtxId := { block := 3, cell := 2, ctx := 0 }

/-- The clause issued, with the tile counters and asking blocks given; the context holds a tile where one is given. -/
def issued (k : OpKind) (cs : Tab TileCounter) (bs : Tab BlockWork) (t : Option Nat) (total : Nat := 1) : Device :=
  let d := before k
  { d with
    regs := d.regs ++ [(.cfgSteal, 0x200000000#64)]
    work := { d.work with
      nextClause := 1, counters := cs, blocks := bs
      issue := some { clause := 0, bounds := [[1, 1, 1]], total := total, completed := [], written := [], wrote := [], encoded := [] }
      contexts := (match t with
        | none => []
        | some i => [{ ctx := ctx, tile := some i, order := 0, msu := none }]) } }

theorem meets_TilesClaimedAndStolen :
    (let d := issued .vector [(3, { next := 4, stop := 5, epoch := 1 })] [] none
     mayClaim ctx d = true ∧ (counterOf d 3).next < (counterOf d 3).stop) ∧
    (let d := issued .vector [(3, { next := 5, stop := 5, epoch := 1 })] [] none
     mayClaim ctx d = true ∧ (counterOf d 3).stop ≤ (counterOf d 3).next ∧ regField d .cfgSteal 32 1 = 0 ∧
      (blockOfWork d 3).asked = false) ∧
    (let d := issued .vector [(20, { next := 0, stop := 9, epoch := 1 })] [(3, { asked := true, done := false })] none
     stepRuns d = true ∧ d.work.issue ≠ none ∧ (blockOfWork d (16 * (0 : Fin 8).val + (3 : Fin 16).val)).asked = true ∧
      regField d .cfgSteal 33 1 = 1 ∧
      victimOf (counterOf d) (regField d .cfgSteal 16 16) ((List.range 128).filter fun x => x / 16 ≠ (0 : Fin 8).val) =
        some 20) := by
  decide +kernel

theorem meets_TilesKeepTheirPlace :
    (∃ t, exec (.tileClaim ctx []) (at' (issued .vector [(3, { next := 4, stop := 5, epoch := 1 })] [] none)) = .next t) ∧
    (let d := issued .vector [(20, { next := 0, stop := 9, epoch := 1 })] [(3, { asked := true, done := false })] none
     (counterOf d (16 * (0 : Fin 8).val + (3 : Fin 16).val)).stop ≤ (counterOf d (16 * (0 : Fin 8).val + (3 : Fin 16).val)).next ∧
      ∃ t, exec (.regionSteal 0 3 []) (at' d) = .next t) :=
  ⟨⟨_, rfl⟩, by decide +kernel, _, rfl⟩

/-- The premises of TilesRun for one kind, in a clause of some tiles. -/
def tilePremises (k : OpKind) (total : Nat) : Bool :=
  let d := issued k [] [] (some 0) total
  let i : Issue := { clause := 0, bounds := [[1, 1, 1]], total := total, completed := [], written := [], wrote := [], encoded := [] }
  let ss := stageOps (issuedOps (clause k) i.bounds)
  let p := tileAt ss 0
  let r := ((evTile d (clause k) ss i 0).run
    (startRun d.mem i.encoded d.freeCtr)).2
  stepRuns d && d.work.issue = some i && (clausesOf d)[i.clause]? = some (clause k) &&
    (d.work.contexts.find? (·.ctx = ctx)).bind (·.tile) = some 0 &&
    ((ss.getD p.stage []).head?.map (·.op.kind)) = some k && tileReady ss i p && msuTakes ss i ctx d && d.work.raced.isEmpty && d.test.residue = none &&
    (trigTable d).isEmpty && r.events.isEmpty && !r.fault

theorem meets_TilesRun : ∀ k ∈ [OpKind.matmul, .vector, .dot, .softmax, .recomp, .softgrad], tilePremises k 1 = true ∧ tilePremises k 2 = true := by
  decide +kernel

/-- CVT BF16 to FP16 into register 2 from register 1, CVTQ to scaled E4M3, CVTD from it (R57, R77). -/
def cvtOf (op src dst scl : Nat) : W64 := BitVec.ofNat 64 (op + src * 2 ^ 8 + dst * 2 ^ 16 + 2 * 2 ^ 32 + 2 ^ 40 + scl * 2 ^ 48)

theorem meets_ConvertsWrite : ([.fin true 0 0, .zero] : List Val).all Val.isZero = true ∧
    veRuns { up with active := BitVec.allOnes 1536 } (5 : Fin 128).val = true ∧
      (parseCvt 0x40 (cvtOf 0x40 0x02 0x03 0)).isSome = true ∧ (parseCvt 0x41 (cvtOf 0x41 0x02 0x14 4)).isSome = true ∧
      (parseCvt 0x42 (cvtOf 0x42 0x14 0x02 4)).isSome = true := by
  decide +kernel

/-- A sample point of two BF16 logits after clause 0, with a list of one entry: request slot 2, row 0, role 1. -/
def point : SamplePoint :=
  { clause := 0, fmt := { code := .bf16, scaled := false }, pitch := 2, logits := 0x9000, list := 0xA000, v := 2, draftOut := 0 }

/-- A step whose clause is over, before and after its sample point is handed out. -/
def sampling (handed : Bool) (jobs : List SampleJob) : Device :=
  let d := loaded (stepping 1) (sentence [clause .vector] [] [point])
  { d with
    mem := { d.mem with bytes := [(0xA000, 1#8), (0xA010, 2#8), (0xA011, 0x40#8), (0xA018, 1#8)] }
    role := { d.role with reqs := [(2, { request .decode with gen := 1 })], slotGen := [(2, 1)] }
    work := { d.work with nextClause := 1, sampled := if handed then [0] else [], jobs := jobs } }

def job : SampleJob := { region := 0, point := 0, row := 0, handle := handleOfReq (request .decode), role := 1, j := 0 }

theorem meets_Sampling :
    (let d := sampling false []
     stepRuns d = true ∧ d.work.raced = [] ∧ (d.mem.upsets = [] ∧ d.mem.armed = none) ∧ (pointsOf d)[(0 : Fin 64).val]? = some point ∧
      clauseDone d point.clause = true ∧ 0 ∉ d.work.sampled ∧ rangeInMap point.list 4 = true ∧
      natOfBytes (readBytes d.mem.bytes point.list 4) = 1 ∧ rangeInMap (point.list + 16) 16 = true) ∧
    (let d := sampling true [job]
     stepRuns d = true ∧ (d.mem.upsets = [] ∧ d.mem.armed = none) ∧
      d.work.jobs.find? (·.region = (0 : Fin 8).val) = some job ∧ (pointsOf d)[job.point]? = some point ∧
      (reqOf d job.handle).isSome = true ∧ job.role ≠ 3 ∧
      rangeInMap (rowAddr point job.row) (point.v * logitBytes point) = true) ∧
    (let d := sampling true []
     stepRuns d = true ∧ clausesOver d = true ∧ d.work.jobs.any (·.region = (7 : Fin 8).val) = false ∧
      7 ∉ d.work.regionsDone) := by
  decide +kernel

/-- The entry of that list becomes the job (R266). -/
theorem test_sample_entry : (after (exec (.samplePoint 0) (at' (sampling false [])))).map (·.dev.work.jobs) = some [job] := by
  decide +kernel

theorem meets_LocalDoneReports :
    let d := { stepping 1 with work := { live.work with regionsDone := [0, 1, 2, 3, 4, 5, 6, 7] } }
    serving d = true ∧ d.job.inFlight = true ∧ d.job.faulted = false ∧ d.job.localDone = false ∧ d.job.halted = false ∧
      d.job.doneSent = false ∧ inBoundary d = false ∧ workDone d = true ∧ d.twin.taken = none ∧ d.onTaken = false ∧
      d.twin.state = .unpaired ∧ isLead d = false ∧ outputPlan d = none := by
  decide +kernel

/-- At the last action of the boundary of a step. -/
def lastAction (n : Nat) : Device :=
  { live with bnd := { live.bnd with ops := [.advance] }, job := { live.job with number := n, inFlight := true } }

theorem meets_BoundaryAdvancesAndHeldSubmitsExpire :
    (∀ n ∈ [0, 2 ^ 48 - 2], powered (lastAction n) = true ∧ (lastAction n).cfgLocked = true ∧
      (lastAction n).bnd.ops = [.advance] ∧ (lastAction n).bnd.posting = [] ∧ (lastAction n).twin.state ≠ .syncing ∧
      (lastAction n).job.fatal = false) ∧
    (lastAction 0).job.number + 1 ≠ 2 ^ 48 - 1 ∧ (lastAction (2 ^ 48 - 2)).job.number + 1 = 2 ^ 48 - 1 ∧
    (serving live = true ∧ inBoundary live = false ∧ live.twin.taken = none) := by
  decide +kernel

/-! ### Steps across a partition -/

/-- A particle that has not acted before (`Fresh` as a test). -/
def fresh (d : Device) (pin : ParticleIn) (p : Particle) : Bool :=
  frameOk d [0] pin.frame && parseParticle pin.frame.payload = some p && !(d.fab.seen.contains (pin.frame.src, p))

theorem meets_StepParticlesAct :
    (let p := stepP 0x04 0 1
     serving (member 0) = true ∧ mirrors (member 0) = false ∧ p.gen = (member 0).job.gen ∧ fresh (member 0) (pinOf 1 p) p = true ∧ p.type = 0x04 ∧
      isLead (member 0) = true ∧ p.step = (member 0).job.number ∧ p.sender < memberCount (member 0)) ∧
    (let p := stepP 0x02 0 1
     let d := stepping 0
     serving d = true ∧ mirrors d = false ∧ p.gen = d.job.gen ∧ fresh d (pinOf 1 p) p = true ∧ p.type = 0x02 ∧ isLead d = true ∧
      d.job.halted = false ∧ d.job.awaitReady = false ∧ d.job.inFlight = true ∧ d.job.localDone = false ∧
      inBoundary d = false ∧ p.status = 0 ∧ p.step = d.job.number ∧ p.sender < memberCount d) ∧
    (let p := stepP 0x01 0 0
     let d := member 1
     serving d = true ∧ mirrors d = false ∧ p.gen = d.job.gen ∧ fresh d (pinOf 0 p) p = true ∧ p.type = 0x01 ∧ isLead d = false ∧
      d.job.halted = false ∧ p.sender = 0 ∧ d.job.inFlight = false ∧ d.job.startOrdered = false ∧ inBoundary d = false ∧
      p.step = d.job.number) := by
  decide +kernel

theorem meets_BadTrafficDiscarded :
    frameOk live [0] { (pinOf 1 (stepP 0x04 0 1)).frame with fcsOk := false } = false ∧
    (let p := stepP 0x04 0 1
     frameOk live [0] (pinOf 1 p).frame = true ∧ parseParticle (pinOf 1 p).frame.payload = some p ∧ p.type = 0x04 ∧
      ((pinOf 1 p).frame.src, p) ∈ [((pinOf 1 p).frame.src, p)]) ∧
    (let f := { (pinOf 1 (stepP 0x04 0 1)).frame with payload := List.replicate 32 0#8 }
     frameOk live [0] f = true ∧ parseParticle f.payload = none) ∧
    (let p := { stepP 0x04 0 1 with gen := 9 }
     serving live = true ∧ fresh live (pinOf 1 p) p = true ∧ p.type = 0x04 ∧ p.gen ≠ live.job.gen) ∧
    frameOk live [1, 2, 3] { frame with fcsOk := false } = false ∧
    (frameOk live [1, 2, 3] { frame with gen := 9 } = true ∧ (0 : Fin 9).val ≠ 8 ∧ mirrors live = false ∧
      staleFrame live { frame with gen := 9 } = true) ∧
    (let d := { live with twin := { live.twin with state := .mirror } }
     serving d = true ∧ mirrors d = true) := by
  decide +kernel

theorem meets_MembersFollowAndWaitsExpire :
    (let p := stepP 0x03 0 0
     let d := stepping 1
     StepAtMember d = true ∧ fresh d (pinOf 0 p) p = true ∧ p.type = 0x03 ∧ p.gen = d.job.gen ∧ p.sender = 0 ∧
      p.step = d.job.number ∧ d.job.named = [] ∧ d.job.agreement = false) ∧
    wantsStep { member 1 with job := { live.job with wantNoted := true } } = true ∧
    (let d := { member 0 with job := { live.job with inFlight := true, localDone := true } }
     fwRuns d = true ∧ d.job.halted = false ∧ isLead d = true ∧ d.job.inFlight = true ∧ d.job.localDone = true ∧
      inBoundary d = false ∧ d.onTaken = false ∧ d.twin.state ≠ .mirror ∧ d.job.named = [] ∧ d.job.agreement = false ∧
      (if d.job.restartFrom = stepBefore d.job.number then d.job.restarts else 0) + 1 ≤ regField d .cfgRestart 0 8) ∧
    (let d := { member 0 with job := { live.job with awaitReady := true } }
     fwRuns d = true ∧ d.job.halted = false ∧ isLead d = true ∧ d.job.awaitReady = true) ∧
    (let d := { member 1 with job := { live.job with inFlight := true, localDone := true, doneSent := true } }
     fwRuns d = true ∧ d.job.halted = false ∧ isLead d = false ∧ d.job.inFlight = true ∧ d.job.doneSent = true ∧
      d.job.startOrdered = false ∧
      inBoundary d = false ∧ d.twin.state ≠ .mirror ∧ mirrors d = false) := by
  decide +kernel

/-! ### Tiers -/

/-- The list of request slot 2, one full page in HBM, and a pool of free HBM behind it. -/
def paging (x : ReqState) : Device :=
  let d := withReq x
  { d with
    loaded := { d.loaded with sentence := some { sentence [] [] [] with
      pools := [{ tier := 1, granules := 0x1000, base := 0x1000000 }] } }
    role := { d.role with lists := [{
      key := { dir := 0x200000, slot := 2, layer := 0, head := 0 }, dh := 32, npos := 256, gen := 3, cap := 8, entriesAt := 0
      nshared := 0, entries := [{ slot := 0x1000000, tier := 1, fp4 := false, shared := false }], lastGain := 0, gains := [] }] } }

def moveOf (fp4 : Bool) : TierCopy :=
  { copyOf { slot := 0x1100000, tier := 1, fp4 := fp4, shared := false } with
    key := { dir := 0x200000, slot := 2, layer := 0, head := 0 }, gen := 3 }

/-- The page's copy to a free slot, and its re-quantisation, in flight. -/
def copyRun (fp4 : Bool) : CopyRun :=
  { requant := fp4, key := (moveOf fp4).key, index := 0, source := { slot := 0x1000000, tier := 1, fp4 := false, shared := false }
    dh := 32, dest := (moveOf fp4).dest, gen := 3 }

theorem meets_CopiesQueueEdits :
    let d := { paging .pausing with role := { (paging .pausing).role with copies := [copyRun false, copyRun true] } }
    serving d = true ∧ d.onTaken = false ∧ (moveOf false).taken = false ∧ d.bnd.ops.head? ≠ some .hold ∧
      (d.mem.upsets = [] ∧ d.mem.armed = none) ∧ runOfCopy d false (moveOf false) = some (copyRun false) ∧
      runOfCopy d true (moveOf true) = some (copyRun true) := by
  decide +kernel

/-! ### Fabric -/

/-- A triggered entry of group 5 over 64 FP32 elements at 0x4000, with its result at 0x8000 and its area at 0xC000. -/
def trig (op : Nat) : TrigEntry :=
  let f : Fmt := { code := .fp32, scaled := false }
  { op := op, group := 5, ored := false, vc := 1, redMax := false, trig := 1, done := 0, doneEn := false, thresh := 1, gate := 0xFFFF
    type := f, dtype := f, src := 0x4000, dst := 0x8000, aux := 0xC000, n := 64, cap := 0, nrows := 0, peer := 0, bpm := 0, routes := 0 }

/-- A step in flight with that entry, run so far as given; group 5 has the members of the partition. -/
def gathering (op : Nat) (r : EntryRun) : Device :=
  let d := loaded (stepping 1) (sentence [] [trig op] [])
  { d with
    fab := { d.fab with entries := [(0, r)] }
    role := { d.role with groups := [(0, pairGroup 1), (5, pairGroup 1)] } }

/-- A data frame of the whole piece of rank 0, of `n + 1` frames. -/
def dataFrameOf (n : Nat) : Frame :=
  { frame with
    len := 4, bytesOnWire := 82, group := 5, nfrag := n, agree := agreeWord (trig 3) 0 0, payload := [1#8, 2#8, 3#8, 4#8], crc := 1 }

def rx (f : Frame) : RxChunk := { rxAdd f (rxNew 0 0x01 f) with arrived := true }

theorem meets_FramesGather :
    (∀ n ∈ [0, 1],
      let d := gathering 3 EntryRun.new
      let f := dataFrameOf n
      serving d = true ∧ mirrors d = false ∧ staleFrame d f = false ∧ trigOf d f.entry = some (trig 3) ∧ groupOf d f.group = some (pairGroup 1) ∧
        (trig 3).group = f.group ∧ (runOf d f.entry).failed = false ∧ f.payload ≠ [] ∧ (d.mem.upsets = [] ∧ d.mem.armed = none) ∧
        rangeInMap (0x8000 + frameSize * f.frag) f.payload.length = true ∧
        (d.fab.receive.filter fun x => x.port = (0 : Fin 8).val && !x.arrived).length < 2048 ∧ d.work.raced = [] ∧
        rankOfNode (pairGroup 1) f.src = some 0 ∧ dataDest (trig 3) 2 1 0 f.phase f.piece f.index = some (.memory 0x8000) ∧
        frameOk d [1, 2, 3] f = true ∧ f.agree = agreeWord (trig 3) (fmtByte (trig 3).type) (pairGroup 1).gen ∧
        d.fab.receive.find? (matchesRx 0x01 f) = none ∧ d.twin.state = .unpaired) ∧
    rxWhole (rxAdd (dataFrameOf 1) (rxNew (0 : Fin 8).val 0x01 (dataFrameOf 1))) = false ∧
    ((dataFrameOf 0).nfrag = 0 ∧ (dataFrameOf 0).frag = 0 ∧ crc32c (dataFrameOf 0).payload ≠ (dataFrameOf 0).crc) ∧
    [rx (dataFrameOf 0)].find? (matchesRx 0x01 (dataFrameOf 0)) = some (rx (dataFrameOf 0)) ∧
    (let d := gathering 1 { EntryRun.new with fired := true, method := .inSwitch }
     (runOf d 0).fired = true ∧ (runOf d 0).method = .inSwitch ∧ staleFrame d (dataFrameOf 1) = false ∧
      resultDest (trig 1) 2 1 0 0 = some (.memory 0x8000) ∧ frameOk d [1] (dataFrameOf 1) = true ∧
      d.fab.receive.find? (matchesRx 0x14 (dataFrameOf 1)) = none ∧
      rxWhole (rxAdd (dataFrameOf 1) (rxNew (0 : Fin 8).val 0x14 (dataFrameOf 1))) = false) := by
  decide +kernel

/-- A particle to node 0 and a chunk to it that have not been acknowledged. -/
def sentParticle : TxParticle := { node := 0, particle := stepP 0x04 0 1, resends := 0 }
def sentChunk : TxChunk :=
  { chunk := { dst := 0, ftype := 0x01, vc := 1, gen := 0, group := 0, rank := 1, entry := 0, flags := 0#7, step := 0, piece := 0
               index := 0, phase := 0, agree := 0#64, bytes := [] }, port := 0, resends := 0, waiting := false, again := false }

def sent : Device :=
  let d := stepping 1
  { d with fab := { d.fab with up := 0xFF#8, particles := [(6, sentParticle)], chunks := [(7, sentChunk)], nextId := 8 } }

/-- A chunk of a record of the twin under generation 0 that has not been acknowledged, as part 3. -/
def sentRecord : TwinSent := { id := 9, kind := 7, chunk := { sentChunk.chunk with vc := 3, piece := 3 }, resends := 0 }
def sentTwin : Device := { live with twin := { live.twin with unacked := [sentRecord] } }

theorem meets_AcksEndTransport :
    (serving sent = true ∧ mirrors sent = false ∧ serving sentTwin = true ∧ mirrors sentTwin = false) ∧
    (let f := { frame with vc := 0, crc := crc32c (particleBytes (stepP 0x04 0 1)) }
     frameOk sent [0, 1, 2, 3] f = true ∧ f.vc = 0 ∧
      sent.fab.particles.find? (fun e => matchesParticle f e.2) = some (6, sentParticle)) ∧
    (frameOk sent [0, 1, 2, 3] frame = true ∧ frame.vc ≠ 0 ∧ answersOwn sent frame = true ∧
      findChunk sent (0 : Fin 8).val frame = some (7, sentChunk) ∧
      ∀ e ∈ sent.fab.chunks, e.2.waiting = false ∧ e.2.again = false) ∧
    (frameOk sentTwin [0, 1, 2, 3] { frame with piece := 3 } = true ∧ frame.gen = sentTwin.twin.attachGen ∧
      sentTwin.job.localDone = false) := by
  decide +kernel

theorem meets_ResendsLeave :
    (serving sent = true ∧ mirrors sent = false ∧ Tab.find sent.fab.chunks 7 = some sentChunk ∧
      sentChunk.chunk.vc ∈ [1, 2, 3] ∧ sentChunk.chunk.bytes.length ≤ 65536 ∧ sentChunk.port < 8 ∧
      (∀ v ∈ [1, 2, 3], 9216 ≤ quantum sent v) ∧ ∀ e ∈ sent.fab.chunks, e.2.waiting = false ∧ e.2.again = false) ∧
    (frameOk sent [1, 2, 3] frame = true ∧ answersOwn sent frame = true ∧
      findChunk sent (0 : Fin 8).val frame = some (7, sentChunk) ∧ sentChunk.resends < regField sent .fabRetry 24 4) ∧
    (let f := { frame with piece := 3 }
     serving sentTwin = true ∧ mirrors sentTwin = false ∧ frameOk sentTwin [1, 2, 3] f = true ∧
      f.gen = sentTwin.twin.attachGen ∧ twinNamed sentTwin f = some sentRecord ∧ Tab.find sentTwin.fab.chunks 9 = none ∧
      sentTwin.twin.unacked.find? (fun v => v.id = 9) = some sentRecord ∧
      sentRecord.resends < regField sentTwin .fabRetry 24 4) ∧
    Tab.find sent.fab.particles 6 = some sentParticle := by
  decide +kernel

/-- A resend of a chunk of no bytes is one frame on the chunk's port, and its count rises (R290, R292, R328). -/
theorem test_resend : (after (exec (.transportRetryTimeout 7) (at' sent))).map (fun t =>
      (t.dev.out.length, (Tab.find t.dev.fab.chunks 7).map (·.resends), t.dev.errs.resends)) = some (1, some 1, 1) := by
  decide +kernel

theorem meets_PortsChange :
    (fwRuns live = true ∧ live.test.busy = false) ∧
    (powered sent = true ∧ sent.job.fatal = false ∧ sent.fab.up.getLsbD (7 : Fin 8).val = true ∧ sent.fab.entries = [] ∧
      trigTable sent = []) ∧
    (powered live = true ∧ live.job.fatal = false ∧ live.twin.state = .unpaired ∧ live.job.inFlight = false) ∧
    (serving (pairedWith .paired live) = true ∧ (pairedWith .paired live).twin.state = .paired ∧
      (pairedWith .paired live).job.inFlight = false) := by
  decide +kernel

/-- An all-reduce at rank 1: the fold of rank 0 is done, its own piece comes next. -/
def folding : EntryRun := { EntryRun.new with fired := true, method := .direct, folded := [(0, 1)] }
def folding0 : EntryRun := { EntryRun.new with fired := true, method := .direct, arrived := [(0, 0, 1, 0)] }
def asking : EntryRun := { EntryRun.new with fired := true, method := .asking, answers := [(3, true)] }

theorem meets_ReductionsProceed :
    (let d := gathering 1 folding0
     serving d = true ∧ (trigTable d = [trig 1] ∧ (runOf d 0).fired = true ∧ (runOf d 0).failed = false ∧
      (runOf d 0).complete = false) ∧ d.job.faulted = false ∧ groupOf d (trig 1).group = some (pairGroup 1) ∧
      d.job.inFlight = true ∧ isReduction (trig 1).op = true ∧ (runOf d 0).method = .direct ∧ 0 + 1 < (pairGroup 1).members ∧
      0 < chunkCount (bytesFor (trig 1).type (pieceLen (trig 1).n 2 1)) ∧ (0, 0, (pairGroup 1).myRank, 0) ∈ (runOf d 0).arrived ∧
      Tab.getD (runOf d 0).folded 0 0 = 0 ∧
      (foldChunk 0 (trig 1) (pairGroup 1) 0 0 (entry (at' d))).job = d.job) ∧
    (let d := gathering 1 asking
     (∀ e ∈ d.fab.chunks, e.2.waiting = false ∧ e.2.again = false) ∧
     let f := { frame with group := 5, len := 8, bytesOnWire := 86, payload := List.replicate 8 0#8 }
     serving d = true ∧ mirrors d = false ∧ d.job.faulted = false ∧ f.entry = 0 ∧ f.group = (trig 1).group ∧ (runOf d 0).method = .asking ∧ (runOf d 0).answers.length < 7 ∧
      (runOf d 0).answers.any (·.1 = (2 : Fin 8).val) = false ∧ frameOk d [1] f = true ∧ f.len = 8 ∧ staleFrame d f = false ∧
      allZero f.payload = true ∧
      (let g := { f with payload := 4#8 :: List.replicate 7 0#8 }
       frameOk d [1] g = true ∧ field g.payload 0 1 = 4 ∧ allZero (g.payload.drop 1) = true)) := by
  decide +kernel

theorem meets_CollectivesFail :
    (let d := gathering 1 folding
     StepAtMember d = true ∧ trigOf d (0 : Fin 4096).val = some (trig 1) ∧ (runOf d 0).failed = false ∧ (runOf d 0).fired = true ∧
      (runOf d 0).complete = false ∧ (runOf d 0).method ≠ .asking ∧
      (let p := { stepP 0x10 0 0 with status := 2, group := 5 }
       fresh d (pinOf 0 p) p = true ∧ p.type = 0x10 ∧ p.step = d.job.number ∧ p.entry = (0 : Fin 4096).val ∧ p.group = (trig 1).group ∧
        (groupOf d p.group).map (·.gen) = some p.gen)) ∧
    (let x := { sentChunk with resends := 7 }
     let d := gathering 1 folding
     let e := { d with fab := { d.fab with chunks := [(7, x)] } }
     StepAtMember e = true ∧ trigOf e (0 : Fin 4096).val = some (trig 1) ∧ (runOf e 0).failed = false ∧
      Tab.find e.fab.chunks 7 = some x ∧ x.chunk.entry = (0 : Fin 4096).val ∧ x.waiting = false ∧ x.chunk.ftype = 0x01 ∧
      regField e .fabRetry 24 4 ≤ x.resends) := by
  decide +kernel

/-! ### Shipping -/

def exportPage (seq : Option Nat) : ExportPage :=
  { since := 0, key := { dir := 0x200000, slot := 2, layer := 0, head := 0 }, index := 0
    entry := { slot := 0x1000000, tier := 1, fp4 := false, shared := false }, count := 256, seq := seq, chunksLeft := 0 }

/-- An export of the request, to list 9 with the credit given. -/
def shipping (credit : Nat) : Device :=
  let d := paging .draining
  { d with
    job := { d.job with number := 1 }
    role := { d.role with ships := [{
      handle := handleOfReq (request .draining), cq := 0, tag := 0#64, list := 9, gen := 1, stream := 0#64, skipShared := false
      cut := true, pages := [exportPage none], started := 0, delivered := 0, failure := none, closed := false
      settled := false }] }
    fab := { d.fab with up := 1#8, slotLists := [(9, {
      gen := 1, node := 2, slots := 4, slotBytes := 0x100000, addrs := 0x9000, credit := credit, seq := 1 })] } }

theorem meets_ExportsProceed :
    (let d := shipping 2
     let h := handleOfReq (request .draining)
     serving d = true ∧ d.onTaken = false ∧ d.twin.state = .unpaired ∧
      (d.mem.upsets = [] ∧ d.mem.armed = none) ∧ nextPage d = some (h, exportPage none) ∧
      (shipOf d h).any (fun x => (Tab.find d.fab.slotLists x.list).any fun l => l.gen = x.gen ∧ l.seq < l.credit) = true ∧
      ((shipsOf d).flatMap fun y => y.pages.filter underWay).length < 512) ∧
    (let d := shipping 1
     let h := handleOfReq (request .draining)
     let p := { stepP 0x20 2 0 with status := 9, gen := 1 }
     fresh d (pinOf 2 p) p = true ∧ p.type = 0x20 ∧
      (Tab.find d.fab.slotLists p.status).any (fun l => (pinOf 2 p).frame.src = l.node ∧ p.gen = l.gen ∧ l.credit < p.step) = true ∧
      (shipOf d h).any (fun x => waitsForCredit d x && !x.closed && x.failure.isNone) = true) := by
  decide +kernel

/-! ### The twin -/

def emptyShadow : Shadow := { role := emptyRole, base := 0, step := none, results := [], records := [] }

/-- A twin in a state; a mirror where no primary is named. -/
def twinned (x : TwinState) (mode : Nat) (d : Device) : Device :=
  { d with twin := { d.twin with state := x, mode := mode, shadow := some emptyShadow, unacked := [sentRecord] } }

theorem meets_TwinRecordsActAndWaitsExpire :
    (serving (twinned .attaching 1 live) = true ∧ (twinned .attaching 1 live).twin.state = .attaching ∧
      (twinned .attaching 1 live).twin.mode ≠ 2 ∧ (twinned .attaching 1 live).job.inFlight = false ∧ 9 ≠ live.twin.attachGen) ∧
    (serving (twinned .syncing 1 live) = true ∧ (twinned .syncing 1 live).twin.state = .syncing ∧
      (twinned .syncing 1 live).twin.mode = 1 ∧ (twinned .syncing 1 live).twin.synced = false ∧
      bytesOfUses (roleUses { twinned .syncing 1 live with role := emptyRole } emptyRole).eraseDups ≤
        shadowSize (twinned .syncing 1 live)) ∧
    (serving (twinned .paired 1 live) = true ∧ (twinned .paired 1 live).twin.state = .paired ∧
      (twinned .paired 1 live).twin.mode = 1 ∧ (twinned .paired 1 live).twin.shadow = some emptyShadow ∧
      (twinned .paired 1 live).twin.unacked ≠ [] ∧ (twinned .paired 1 live).job.inFlight = false) ∧
    (serving (twinned .mirror 2 live) = true ∧ (twinned .mirror 2 live).twin.state = .mirror ∧
      (twinned .mirror 2 live).twin.mode = 2 ∧ (twinned .mirror 2 live).twin.primary = false ∧
      (twinned .mirror 2 live).twin.parked = none ∧ inBoundary (twinned .mirror 2 live) = false ∧
      (twinned .mirror 2 live).job.inFlight = false) ∧
    (serving (twinned .mirror 2 (stepping 1)) = true ∧ (twinned .mirror 2 (stepping 1)).job.inFlight = true ∧
      (twinned .mirror 2 (stepping 1)).twin.parked = none ∧
      frame.step = (stepping 1).job.number ∧ frame.gen ≤ (stepping 1).job.gen) ∧
    (let d := pairedWith .attaching live
     serving d = true ∧ d.twin.peerHello = none ∧ d.twin.left = 0 ∧ inBoundary d = false ∧ d.bnd.posting = [] ∧ d.onTaken = false ∧
      cqEnabled d d.twin.cq = true ∧ queueFull d (64 + d.twin.cq) = false) := by
  decide +kernel

/-! ### Faults -/

theorem meets_ErrorsReportAndWatchdogsStop :
    (let d := { issued .vector [] [] (some 0) with active := BitVec.allOnes 1536 }
     StepAtMember d = true ∧ (queueOf d 128).gap = 0 ∧ queueFull d 128 = false ∧ (queueOf d 128).cut = false ∧
      siteInUse d (.cell 127 11) = true ∧ siteInUse d (.sampler 7) = true ∧ tileRuns ctx d = true ∧
      (∀ i ∈ d.power.throttled, ∀ r, i ≠ .rm r) ∧
      d.job.inFlight = true ∧ d.test.busy = false) ∧
    (let d := { issued .vector [] [] (some 0) with test := { live.test with busy := true, target := 4, index := 23 } }
     StepAtMember d = true ∧ d.test.index = (23 : Fin 24).val) ∧
    fwRuns live = true := by
  decide +kernel

theorem meets_ScrubsAdvance : ∀ site ∈ [ScrubSite.block 127, .hub, .hbm 3],
    let d := { live with regs := live.regs ++ [(.cfgScrub, 0x100010001#64)] }
    scrubRuns d site = true ∧ (d.mem.upsets = [] ∧ d.mem.armed = none) ∧ memWf d.mem.bytes = true := by
  decide +kernel

/-! ### The manual's worked values -/

/-- One lane of a plain conversion, from format byte to format byte. -/
def lane (src dst arith : Nat) (x : BitVec 32) : Option (BitVec 32 × BitVec 7) :=
  (parseCvt 0x40 (BitVec.ofNat 64 (0x40 + src * 2 ^ 8 + dst * 2 ^ 16 + arith * 2 ^ 24))).map fun c => cvtLane c x

/-- Rows of the manual's table of worked conversions (R65 to R69). -/
theorem test_cvt_worked :
    lane 0x00 0x01 0 0x3F808000#32 = some (0x3F80#32, 0#7) ∧ lane 0x00 0x01 0 0x3F818000#32 = some (0x3F82#32, 0#7) ∧
      lane 0x00 0x02 0 0x477FEF00#32 = some (0x7BFF#32, 0#7) ∧ lane 0x00 0x02 0 0x477FF000#32 = some (0x7C00#32, flagOvf) ∧
      lane 0x00 0x02 1 0x477FF000#32 = some (0x7BFF#32, flagOvf) ∧ lane 0x00 0x02 2 0x35800000#32 = some (0#32, flagFtz) ∧
      lane 0x00 0x03 0 0x43E80000#32 = some (0x7E#32, flagOvf) ∧ lane 0x00 0x05 0 0x40200000#32 = some (0x4#32, 0#7) ∧
      lane 0x06 0x05 0 5#32 = some (0x6#32, 0#7) ∧ lane 0x00 0x05 0 0x7FC00000#32 = some (0#32, flagInvalid) := by
  decide +kernel

/-- The manual's worked block: 1000, −3, 0.0001, 76 and zeros to scaled E4M3 (R72). -/
theorem test_cvtq_worked :
    let v := fun (x : BitVec 32) => (readPart (plainFmt .fp32) { sat := false, ftz := false } x.toNat).1
    let b := encodeBlock .e4m3 ([v 0x447A0000#32, v 0xC0400000#32, v 0x38D1B717#32, v 0x42980000#32] ++ List.replicate 28 (v 0#32))
    b.1 = 0x81 ∧ b.2.1.take 5 = [0x78, 0xB4, 0x00, 0x5A, 0x00] ∧ b.2.2.ufl = 1 := by
  decide +kernel

/-- The manual's key at place 104, dimension 100 of Dh = 160 (R190). -/
theorem test_place_worked :
    (placeOf 160 false 104 0 100).1 = 16740 ∧ (placeOf 160 true 104 0 100).1 = 8370 ∧ (placeOf 160 false 104 1 100).1 = 57700 ∧
      (placeOf 160 true 104 1 100).1 = 28850 ∧ slotBytes 160 false = 84480 ∧ slotBytes 160 true = 43520 := by
  decide

/-- Commands take effect through the queue: a CLEAR in front of a PORT_UP. -/
theorem test_step_takes_front :
    (after (step (State.mk { live with errs := { live.errs with corr := 9 } } [.errCorrCntClear, .twinPortUp]))).map
      (fun t => (t.dev.errs.corr, t.pending)) = some (0, [.twinPortUp]) := by
  decide +kernel

/-- A BAR2 write into the firmware work area is undefined behaviour (R534). -/
theorem test_work_area_write :
    exec (.bar2Access (.write 0x400000 [1#8])) (at' (loaded live (sentence [] [] []))) = .fault .undefinedHostWrite := by
  have h : bar2Base (loaded live (sentence [] [] [])) = 0 := by
    have h : regField (loaded live (sentence [] [] [])) .hifBar2Window 30 18 = 0 := by decide +kernel
    simp [bar2Base, h]
  have l : linked (loaded live (sentence [] [] [])) = true := by decide +kernel
  have o : firmwareOwned (loaded live (sentence [] [] [])) 0x400000 = true := by decide +kernel
  simp [exec, execBar2Access, at', h, l, o]
end Sys2Proof.Tests
end

section
/-!
PROOF. The convert instructions (R77, R78) and the block of zeros (R73): what each instruction does to the device when it
runs, and that a command meets the device with the registers and the engines as the state holds them.
-/
namespace Sys2Proof.Machine

/-! ### A block of zeros -/

/-- A zero of either sign is finite. -/
theorem nonFinite_of_isZero : ∀ v : Val, v.isZero = true → v.nonFinite = false
  | .fin .., _ => rfl

/-- Zeros take the second branch of the encoder: none of them is an infinity or NaN (R73, R74). -/
theorem encodeBlock_zeros (f : FCode) (vs : List Val) (zeros : vs.all Val.isZero = true) :
    encodeBlock f vs = (0x7F, List.replicate 32 0, noneRaised) := by
  have finite : vs.any Val.nonFinite = false :=
    List.any_eq_false.2 fun v hv => by simp [nonFinite_of_isZero v (List.all_eq_true.1 zeros v hv)]
  simp only [encodeBlock, finite, zeros, Bool.false_eq_true, if_false, if_true]

/-! ### The device as a command finds it -/

@[simp] theorem veRuns_entry (s : State) (g : Nat) : veRuns (entry s) g = veRuns s.dev g := rfl
@[simp] theorem veReg_entry (s : State) (g r : Nat) : veReg (entry s) g r = veReg s.dev g r := rfl
@[simp] theorem veScale_entry (s : State) (g r : Nat) : veScale (entry s) g r = veScale s.dev g r := rfl

theorem exec_cvt (g : Fin 128) (insn : W64) (s : State) :
    exec (.cvt g insn) s = .next { s with dev := devCvt g insn (entry s) } := rfl

theorem exec_cvtq (g : Fin 128) (insn : W64) (s : State) :
    exec (.cvtq g insn) s = .next { s with dev := devCvtq g insn (entry s) } := rfl

theorem exec_cvtd (g : Fin 128) (insn : W64) (s : State) :
    exec (.cvtd g insn) s = .next { s with dev := devCvtd g insn (entry s) } := rfl

/-! ### The three opcodes on a device that runs them -/

section
variable {g : Fin 128} {x : W64} {c : CvtInsn} {d : Device}

theorem devCvt_of_runs (runs : veRuns d g.val = true) (parsed : parseCvt 0x40 x = some c) :
    devCvt g x d = raiseCounts (cvtAll c (veReg d g.val c.srcReg)).2
      (setVeReg g.val c.dstReg (cvtAll c (veReg d g.val c.srcReg)).1 d) := by
  simp [devCvt, parsed, runs]

theorem devCvtq_of_runs (runs : veRuns d g.val = true) (parsed : parseCvt 0x41 x = some c) :
    devCvtq g x d = raiseCounts (cvtqAll c (veReg d g.val c.srcReg)).2.2
      (setVeScale g.val c.scl (cvtqAll c (veReg d g.val c.srcReg)).2.1
        (setVeReg g.val c.dstReg (cvtqAll c (veReg d g.val c.srcReg)).1 d)) := by
  simp [devCvtq, parsed, runs]

theorem devCvtd_of_runs (runs : veRuns d g.val = true) (parsed : parseCvt 0x42 x = some c) :
    devCvtd g x d = raiseCounts (cvtdAll c (veScale d g.val c.scl) (veReg d g.val c.srcReg)).2
      (setVeReg g.val c.dstReg (cvtdAll c (veScale d g.val c.scl) (veReg d g.val c.srcReg)).1 d) := by
  simp [devCvtd, parsed, runs]

end

/-! ### The obligation -/

/-- Settles O43: each opcode is its equation on a running device, taken at the device as the command finds it; a block of
zeros by `encodeBlock_zeros`. -/
theorem convertsWrite : Obligations.ConvertsWrite := by
  refine ⟨encodeBlock_zeros, fun s g insn c runs => ?_⟩
  have here : veRuns (entry s) g.val = true := by rwa [veRuns_entry]
  refine ⟨fun parsed => ?cvt, fun parsed => ?cvtq, fun parsed => ?cvtd⟩
  case cvt =>
    rw [exec_cvt, devCvt_of_runs here parsed, veReg_entry]
    rfl
  case cvtq =>
    rw [exec_cvtq, devCvtq_of_runs here parsed, veReg_entry]
    rfl
  case cvtd =>
    rw [exec_cvtd, devCvtd_of_runs here parsed, veReg_entry, veScale_entry]
    rfl

end Sys2Proof.Machine
end

section
/-!
PROOF. Packets at a queue whose producer holds words back (R380, R384): the premises of O26 let those words be a packet without its
END. The words that come next continue that packet; where they make it longer than PKTMAX they do not arrive.
-/
namespace Sys2Proof.Machine

/-! ### Words that do not arrive -/

theorem exec_queuePacket (q : Fin 1024) (ws : List QIn) (s : State) :
    exec (.queuePacket q ws) s = .next { s with dev := devQueuePacket q ws (entry s) } := rfl

/-- Words by which a packet exceeds PKTMAX leave the device as it is (R380; notes/assumptions 111). -/
theorem devQueuePacket_of_overlong {q : Fin 1024} {ws : List QIn} {d : Device}
    (long : overlong (queuePktMax q.val) (openWords (queueOf d q.val)) ws = true) : devQueuePacket q ws d = d := by
  simp [devQueuePacket, canArrive, long]

/-! ### A queue behind which an open packet waits -/

/-- Completion queue 64 at its LIMIT of 16 slabs, with the first word of a longer packet held back: no word of that packet has
come, so `begun` is 0. -/
def fullBeforeOpenPacket : QState :=
  { QState.empty with
    words := List.replicate 128 (queueWord 0#64 true 0)
    port := [{ data := 0#64, last := false, bad := false }] }

/-- The device at power-on with that queue. -/
def openPacketWaits : State :=
  { dev := { deviceAtPowerOn with queues := [(64, fullBeforeOpenPacket)] }, pending := [] }

theorem queueOf_openPacketWaits : queueOf openPacketWaits.dev 64 = fullBeforeOpenPacket := rfl

/-- A packet of PKTMAX words comes to that queue. -/
def pktMaxWords : List W64 := List.replicate 4 0#64

/-- Its words as the producer hands them over, END on the last. -/
def pktMaxPacket : List QIn :=
  (pktMaxWords.zip (List.range pktMaxWords.length)).map fun p =>
    { data := p.1, last := p.2 + 1 == pktMaxWords.length, bad := false }

/-- With the word that waits, the packet would have five words, one more than PKTMAX. -/
theorem overlong_pktMaxPacket :
    overlong (queuePktMax 64) (openWords fullBeforeOpenPacket) pktMaxPacket = true := by decide

/-- The command leaves the state as it is: nothing joins the words held back. -/
theorem exec_pktMaxPacket : exec (.queuePacket 64 pktMaxPacket) openPacketWaits = .next openPacketWaits := by
  rw [exec_queuePacket, devQueuePacket_of_overlong (q := 64) (d := entry openPacketWaits) overlong_pktMaxPacket]
  rfl

/-! ### The obligation -/

/-- Refutes O26: the clause for words that the producer holds back fails where they end inside a packet. `begun` counts only the
words that have come, so it is 0 there, and the packet of PKTMAX words, which the statement has waiting behind the word held
back, makes the open packet too long and does not arrive. A run has such a state at a queue of 129 to 1,023, whose producer
hands over single words; PKTMAX is firmware's there and unknown (R381), so the state here is at queue 64, whose PKTMAX is a
number and whose producer, in a run, hands over whole packets alone. The statement asks for `x.begun = 0` where it needs
`openWords x = 0`, which counts the words held back too. -/
theorem not_queueAccepts : ¬ Obligations.QueueAccepts := by
  unfold Obligations.QueueAccepts
  intro h
  obtain ⟨-, t, ran, -, -, -, waits, -, -⟩ :=
    h openPacketWaits 64 pktMaxWords (by decide) (by decide) (by decide) rfl rfl rfl
  have unchanged : openPacketWaits = t := Host.Outcome.next.inj (exec_pktMaxPacket.symm.trans ran)
  subst unchanged
  have joined : fullBeforeOpenPacket = { fullBeforeOpenPacket with port := fullBeforeOpenPacket.port ++ pktMaxPacket } :=
    waits (List.cons_ne_nil _ _)
  have longer : 1 = 5 := congrArg (fun x : QState => x.port.length) joined
  omega

end Sys2Proof.Machine
end

section
/-!
PROOF. The arithmetic of SC-1 (R444): the bytes with exclusive or as their sum and `gfMul` as their product are a field, and the
powers of alpha at the 35 symbols differ.
-/
namespace Sys2Proof.Machine

/-! ### Sums -/

theorem xor_cancel_middle (x r y : Byte) : (x ^^^ r) ^^^ (r ^^^ y) = x ^^^ y := by
  rw [BitVec.xor_assoc, ← BitVec.xor_assoc r, BitVec.xor_self, BitVec.zero_xor]

theorem xor_exchange {x y z u : Byte} (h : x ^^^ y = z ^^^ u) : x ^^^ z = y ^^^ u := by
  rw [← BitVec.xor_eq_zero_iff] at h ⊢
  rw [← h]
  ac_rfl

theorem gfDouble_zero : gfDouble 0#8 = 0#8 := rfl

theorem gfDouble_xor (a b : Byte) : gfDouble (a ^^^ b) = gfDouble a ^^^ gfDouble b := by
  cases ha : a.msb <;> cases hb : b.msb <;>
    simp only [gfDouble, BitVec.msb_xor, ha, hb, BitVec.shiftLeft_xor_distrib, bne_self_eq_false, Bool.false_bne, Bool.bne_false,
      Bool.false_eq_true, if_true, if_false]
  · exact BitVec.xor_assoc ..
  · ac_rfl
  · rw [BitVec.xor_comm (b <<< 1), xor_cancel_middle]

/-! ### Products -/

theorem one_gfMul (b : Byte) : gfMul 1#8 b = b := by revert b; decide +kernel

/-- An additive map that commutes with doubling commutes with every product: a product is a sum of doubles. -/
theorem map_gfMul (f : Byte → Byte) (zero : f 0#8 = 0#8) (add : ∀ a b, f (a ^^^ b) = f a ^^^ f b)
    (double : ∀ a, f (gfDouble a) = gfDouble (f a)) (a b : Byte) : f (gfMul a b) = gfMul (f a) b := by
  have bits (n : Nat) : ∀ a b, f (gfMulBits n a b) = gfMulBits n (f a) b := by
    induction n with
    | zero => exact fun _ _ => zero
    | succ n ih => intro a b; simp only [gfMulBits, add, ih, double, apply_ite f, zero]
  exact bits 8 a b

theorem xor_gfMul (a b c : Byte) : gfMul (a ^^^ b) c = gfMul a c ^^^ gfMul b c := by
  have bits (n : Nat) : ∀ a b c, gfMulBits n (a ^^^ b) c = gfMulBits n a c ^^^ gfMulBits n b c := by
    induction n with
    | zero => exact fun _ _ _ => (BitVec.xor_self ..).symm
    | succ n ih =>
      intro a b c
      simp only [gfMulBits, gfDouble_xor, ih]
      split
      · ac_rfl
      · simp only [BitVec.zero_xor]
  exact bits 8 a b c

theorem zero_gfMul (b : Byte) : gfMul 0#8 b = 0#8 := by
  have h := xor_gfMul 0#8 0#8 b
  rwa [BitVec.xor_self, BitVec.xor_self] at h

theorem gfDouble_gfMul (a b : Byte) : gfDouble (gfMul a b) = gfMul (gfDouble a) b :=
  map_gfMul gfDouble gfDouble_zero gfDouble_xor (fun _ => rfl) a b

theorem gfMul_comm (a b : Byte) : gfMul a b = gfMul b a := by
  have h := map_gfMul (gfMul · b) (zero_gfMul b) (xor_gfMul · · b) (fun a => (gfDouble_gfMul a b).symm) 1#8 a
  simpa only [one_gfMul] using h

theorem gfMul_right_comm (a b c : Byte) : gfMul (gfMul a b) c = gfMul (gfMul a c) b :=
  map_gfMul (gfMul · c) (zero_gfMul c) (xor_gfMul · · c) (fun a => (gfDouble_gfMul a c).symm) a b

theorem gfMul_assoc (a b c : Byte) : gfMul (gfMul a b) c = gfMul a (gfMul b c) := by
  rw [gfMul_comm a, gfMul_right_comm, gfMul_comm]

theorem gfMul_one (a : Byte) : gfMul a 1#8 = a := by rw [gfMul_comm, one_gfMul]

theorem gfMul_zero (a : Byte) : gfMul a 0#8 = 0#8 := by rw [gfMul_comm, zero_gfMul]

theorem gfMul_xor (a b c : Byte) : gfMul a (b ^^^ c) = gfMul a b ^^^ gfMul a c := by
  simp only [gfMul_comm a, xor_gfMul]

/-! ### Inverses -/

/-- The product of the first `n` repeated squares of `a`. -/
def gfSquares : Nat → Byte → Byte
  | 0, _ => 1#8
  | n + 1, a => gfMul (gfMul a a) (gfSquares n (gfMul a a))

/-- The inverse of a byte other than 0 is its power 254 = 2 + 4 + ... + 128. -/
theorem gfMul_gfSquares {a : Byte} (nonzero : a ≠ 0#8) : gfMul a (gfSquares 7 a) = 1#8 := by
  revert a; decide +kernel

theorem gfMul_left_cancel {a b c : Byte} (nonzero : a ≠ 0#8) (h : gfMul a b = gfMul a c) : b = c := by
  have undo (x : Byte) : gfMul (gfMul a x) (gfSquares 7 a) = x := by
    rw [gfMul_right_comm, gfMul_gfSquares nonzero, one_gfMul]
  rw [← undo b, h, undo]

theorem eq_zero_of_gfMul {a b : Byte} (nonzero : a ≠ 0#8) (h : gfMul a b = 0#8) : b = 0#8 :=
  gfMul_left_cancel nonzero (h.trans (gfMul_zero a).symm)

/-! ### Powers of alpha -/

theorem alphaPow_zero : alphaPow 0 = 1#8 := rfl

theorem alphaPow_add (m n : Nat) : alphaPow (m + n) = gfMul (alphaPow m) (alphaPow n) := by
  induction n with
  | zero => rw [alphaPow_zero, gfMul_one, Nat.add_zero]
  | succ n ih =>
    rw [Nat.add_succ, alphaPow, alphaPow, ih, gfMul_comm (alphaPow m) (alphaPow n), gfDouble_gfMul, gfMul_comm]

/-- The locators of the 35 symbols differ. -/
theorem alphaPow_inj : ∀ i, i < 35 → ∀ k, k < 35 → alphaPow i = alphaPow k → i = k := by decide +kernel

end Sys2Proof.Machine
end

section
/-!
PROOF. The decoder of SC-1 (R445): what its search for a locator finds, when it corrects a symbol, and that no correction fits
an error in two symbols.
-/
namespace Sys2Proof.Machine

/-! ### Syndromes -/

theorem syndrome_single (j p : Nat) (v : Byte) : syndrome j [(p, v)] = gfMul v (alphaPow (j * (34 - p))) :=
  BitVec.zero_xor

theorem syndrome_pair (j p q : Nat) (v w : Byte) :
    syndrome j [(p, v), (q, w)] = gfMul v (alphaPow (j * (34 - p))) ^^^ gfMul w (alphaPow (j * (34 - q))) :=
  congrArg (· ^^^ _) BitVec.zero_xor

/-- The factors of a symbol in the three syndromes: 1, its locator, and the square of its locator. -/
theorem gfMul_alphaPow_two_mul (v : Byte) (i : Nat) :
    gfMul v (alphaPow (2 * i)) = gfMul (gfMul v (alphaPow i)) (alphaPow i) := by
  rw [Nat.two_mul, alphaPow_add, gfMul_assoc]

theorem gfMul_alphaPow_zero_mul (v : Byte) (i : Nat) : gfMul v (alphaPow (0 * i)) = v := by
  rw [Nat.zero_mul, alphaPow_zero, gfMul_one]

theorem forall_lt_three {P : Nat → Prop} : (∀ j, j < 3 → P j) ↔ P 0 ∧ P 1 ∧ P 2 := by
  constructor
  · exact fun h => ⟨h 0 (by decide), h 1 (by decide), h 2 (by decide)⟩
  · rintro ⟨h0, h1, h2⟩ j lt
    match j, lt with
    | 0, _ => exact h0
    | 1, _ => exact h1
    | 2, _ => exact h2

/-- The syndromes are those of the value `v` at the symbol with locator `x`. -/
def Locates (e : List (Nat × Byte)) (x v : Byte) : Prop :=
  syndrome 0 e = v ∧ syndrome 1 e = gfMul v x ∧ syndrome 2 e = gfMul (gfMul v x) x

theorem locates_iff_syndromes (e : List (Nat × Byte)) (p : Nat) (v : Byte) :
    Locates e (alphaPow (34 - p)) v ↔ ∀ j, j < 3 → syndrome j e = syndrome j [(p, v)] := by
  simp only [forall_lt_three, syndrome_single, Locates, gfMul_alphaPow_zero_mul, Nat.one_mul, gfMul_alphaPow_two_mul]

/-! ### The search -/

/-- Exponent `i` fits the syndromes. -/
def Fits (s0 s1 s2 : Byte) (i : Nat) : Prop :=
  gfMul s0 (alphaPow i) = s1 ∧ gfMul s1 (alphaPow i) = s2

theorem fits_zero_iff (s0 s1 s2 : Byte) : Fits s0 s1 s2 0 ↔ s1 = s0 ∧ s2 = s1 := by
  rw [Fits, alphaPow_zero, gfMul_one, gfMul_one, eq_comm (a := s0), eq_comm (a := s1) (b := s2)]

/-- At most one exponent fits. -/
theorem Fits.unique {s0 s1 s2 : Byte} (nonzero : s0 ≠ 0#8) {i k : Nat} (hi : i < 35) (hk : k < 35) (fi : Fits s0 s1 s2 i)
    (fk : Fits s0 s1 s2 k) : i = k :=
  alphaPow_inj i hi k hk (gfMul_left_cancel nonzero (fi.1.trans fk.1.symm))

/-- The search finds the exponent that fits. -/
theorem locate_eq_some_iff {s0 : Byte} (nonzero : s0 ≠ 0#8) (s1 s2 : Byte) {n : Nat} (bound : n < 35) (i : Nat) :
    locate s0 s1 s2 n = some i ↔ i ≤ n ∧ Fits s0 s1 s2 i := by
  induction n with
  | zero =>
    rw [locate, Nat.le_zero]
    split
    next fits =>
      constructor
      · rintro ⟨⟩
        exact ⟨rfl, (fits_zero_iff ..).2 fits⟩
      · exact fun ⟨zero, _⟩ => zero ▸ rfl
    next fails =>
      refine iff_of_false (nomatch ·) ?_
      rintro ⟨rfl, fits⟩
      exact fails ((fits_zero_iff ..).1 fits)
  | succ n ih =>
    rw [locate]
    split
    next fits =>
      constructor
      · rintro ⟨⟩
        exact ⟨Nat.le_refl _, fits⟩
      · rintro ⟨le, fi⟩
        rw [Fits.unique nonzero (Nat.lt_of_le_of_lt le bound) bound fi fits]
    next fails =>
      rw [ih (Nat.lt_of_succ_lt bound), Nat.le_succ_iff]
      constructor
      · exact fun ⟨le, fits⟩ => ⟨.inl le, fits⟩
      · rintro ⟨le | rfl, fits⟩
        · exact ⟨le, fits⟩
        · exact absurd fits fails

/-! ### The three outcomes -/

theorem findWord_eq_clean_iff (e : List (Nat × Byte)) : findWord e = .clean ↔ ∀ j, j < 3 → syndrome j e = 0#8 := by
  rw [forall_lt_three]
  simp only [findWord]
  split
  next zero => exact iff_of_true rfl zero
  next nonzero =>
    refine iff_of_false ?_ nonzero
    split
    · exact WordFind.noConfusion
    · split <;> exact WordFind.noConfusion

theorem findWord_ne_corrected_of_zero {e : List (Nat × Byte)} (h : syndrome 0 e = 0#8) (p : Nat) (v : Byte) :
    findWord e ≠ .corrected p v := by
  simp only [findWord, h, true_and, if_true]
  split <;> exact WordFind.noConfusion

theorem findWord_eq_corrected_iff_locate {e : List (Nat × Byte)} (h : syndrome 0 e ≠ 0#8) (p : Nat) (v : Byte) :
    findWord e = .corrected p v ↔
      ∃ i, locate (syndrome 0 e) (syndrome 1 e) (syndrome 2 e) 34 = some i ∧ 34 - i = p ∧ syndrome 0 e = v := by
  simp only [findWord, h, false_and, if_false]
  cases locate (syndrome 0 e) (syndrome 1 e) (syndrome 2 e) 34 with
  | none => exact iff_of_false WordFind.noConfusion fun ⟨_, found, _⟩ => nomatch found
  | some i =>
    constructor
    · rintro ⟨⟩
      exact ⟨i, rfl, rfl, rfl⟩
    · rintro ⟨_, ⟨⟩, rfl, rfl⟩
      rfl

theorem findWord_eq_corrected_iff_locates (e : List (Nat × Byte)) (p : Nat) (v : Byte) :
    findWord e = .corrected p v ↔ p < 35 ∧ v ≠ 0#8 ∧ Locates e (alphaPow (34 - p)) v := by
  by_cases zero : syndrome 0 e = 0#8
  case pos =>
    exact iff_of_false (findWord_ne_corrected_of_zero zero p v) fun ⟨_, nonzero, at0, _⟩ => nonzero (at0 ▸ zero)
  case neg =>
    rw [findWord_eq_corrected_iff_locate zero]
    simp only [locate_eq_some_iff zero _ _ (by decide : 34 < 35)]
    constructor
    · rintro ⟨i, ⟨le, h1, h2⟩, rfl, rfl⟩
      rw [Locates, Nat.sub_sub_self le, h1, h2]
      exact ⟨by omega, zero, rfl, rfl, rfl⟩
    · rintro ⟨lt, -, rfl, h1, h2⟩
      exact ⟨34 - p, ⟨Nat.sub_le .., h1.symm, by rw [h1, h2]⟩, Nat.sub_sub_self (Nat.le_of_lt_succ lt), rfl⟩

theorem findWord_eq_corrected_iff (e : List (Nat × Byte)) (p : Nat) (v : Byte) :
    findWord e = .corrected p v ↔ p < 35 ∧ v ≠ 0#8 ∧ ∀ j, j < 3 → syndrome j e = syndrome j [(p, v)] := by
  rw [findWord_eq_corrected_iff_locates, locates_iff_syndromes]

/-- One wrong symbol is found where it is. -/
theorem findWord_single {p : Nat} {v : Byte} (lt : p < 35) (nonzero : v ≠ 0#8) : findWord [(p, v)] = .corrected p v :=
  (findWord_eq_corrected_iff _ p v).2 ⟨lt, nonzero, fun _ _ => rfl⟩

/-! ### Two wrong symbols -/

/-- v (x + z)^2 = v x^2 + v z^2: the mixed terms cancel. -/
theorem gfMul_xor_xor (v x z : Byte) :
    gfMul (gfMul v (x ^^^ z)) (x ^^^ z) = gfMul (gfMul v x) x ^^^ gfMul (gfMul v z) z := by
  rw [gfMul_xor, gfMul_xor, xor_gfMul, xor_gfMul, gfMul_right_comm v z x, xor_cancel_middle]

/-- Values v at locator x and w at locator y that have the syndromes of one value at locator z: v (x + z) and w (y + z) are one
byte, and its products with x and with y agree. So it is 0, and z is both x and y. -/
theorem eq_of_pair_locates {x y z v w : Byte} (hv : v ≠ 0#8) (hw : w ≠ 0#8)
    (one : gfMul v x ^^^ gfMul w y = gfMul (v ^^^ w) z)
    (two : gfMul (gfMul v x) x ^^^ gfMul (gfMul w y) y = gfMul (gfMul (v ^^^ w) z) z) : x = y := by
  rw [xor_gfMul] at one
  rw [xor_gfMul, xor_gfMul] at two
  have shared : gfMul v (x ^^^ z) = gfMul w (y ^^^ z) := by
    rw [gfMul_xor, gfMul_xor]
    exact xor_exchange one
  have agree : gfMul (gfMul v (x ^^^ z)) (x ^^^ z) = gfMul (gfMul v (x ^^^ z)) (y ^^^ z) := by
    rw [gfMul_xor_xor, shared, gfMul_xor_xor]
    exact xor_exchange two
  by_cases vanishes : gfMul v (x ^^^ z) = 0#8
  case pos =>
    have xz : x = z := BitVec.xor_eq_zero_iff.1 (eq_zero_of_gfMul hv vanishes)
    have yz : y = z := BitVec.xor_eq_zero_iff.1 (eq_zero_of_gfMul hw (shared ▸ vanishes))
    exact xz.trans yz.symm
  case neg => exact (BitVec.xor_left_inj z).1 (gfMul_left_cancel vanishes agree)

/-- Two wrong symbols are neither missed nor taken for one. -/
theorem findWord_pair {p q : Nat} {v w : Byte} (hp : p < 35) (hq : q < 35) (distinct : p ≠ q) (hv : v ≠ 0#8)
    (hw : w ≠ 0#8) : findWord [(p, v), (q, w)] = .uncorrectable := by
  have apart : alphaPow (34 - p) ≠ alphaPow (34 - q) := fun same => by
    have := alphaPow_inj (34 - p) (by omega) (34 - q) (by omega) same
    omega
  cases found : findWord [(p, v), (q, w)] with
  | uncorrectable => rfl
  | clean =>
    have zero := (findWord_eq_clean_iff _).1 found
    simp only [forall_lt_three, syndrome_pair, BitVec.xor_eq_zero_iff, gfMul_alphaPow_zero_mul, Nat.one_mul] at zero
    obtain ⟨rfl, at1, -⟩ := zero
    exact absurd (gfMul_left_cancel hv at1) apart
  | corrected r u =>
    obtain ⟨-, -, located⟩ := (findWord_eq_corrected_iff_locates _ r u).1 found
    simp only [Locates, syndrome_pair, gfMul_alphaPow_zero_mul, Nat.one_mul, gfMul_alphaPow_two_mul] at located
    obtain ⟨rfl, at1, at2⟩ := located
    exact absurd (eq_of_pair_locates hv hw at1 at2) apart

end Sys2Proof.Machine
end

section
/-!
PROOF. A read that meets one word with an error (R445, R448): a word put back with the bytes that it holds is the memory as it was.
-/
namespace Sys2Proof.Machine

/-! ### Bytes put back where they were read -/

/-- A memory that starts at an address has an entry for it in front, or all its entries lie past it. -/
theorem front_or_past {m : Memory} {a : Nat} (rising : m.Pairwise (fun x y => x.1 < y.1)) (above : ∀ e ∈ m, a ≤ e.1) :
    (∃ b r, m = (a, b) :: r) ∨ ∀ e ∈ m, a + 1 ≤ e.1 := by
  cases m with
  | nil => exact .inr fun _ he => nomatch he
  | cons f r =>
    obtain ⟨k, b⟩ := f
    have past := (List.pairwise_cons.1 rising).1
    rcases Nat.eq_or_lt_of_le (above _ List.mem_cons_self) with rfl | lt
    · exact .inl ⟨b, r, rfl⟩
    · exact .inr (List.forall_mem_cons.2 ⟨lt, fun e he => Nat.lt_trans lt (past e he)⟩)

theorem readFrom_at (r : Memory) (a n : Nat) (b : Byte) :
    readBytes.readFrom ((a, b) :: r) a (n + 1) = b :: readBytes.readFrom r (a + 1) n := by
  simp [readBytes.readFrom]

theorem readFrom_below {m : Memory} {a : Nat} (above : ∀ e ∈ m, a + 1 ≤ e.1) (n : Nat) :
    readBytes.readFrom m a (n + 1) = 0#8 :: readBytes.readFrom m (a + 1) n := by
  cases m with
  | nil => cases n <;> rfl
  | cons e r => simp [readBytes.readFrom, Nat.ne_of_gt (above e List.mem_cons_self)]

theorem dropWhile_lt_of_above {m : Memory} {a : Nat} (above : ∀ e ∈ m, a ≤ e.1) : m.dropWhile (fun e => e.1 < a) = m := by
  cases m with
  | nil => rfl
  | cons e r => exact List.dropWhile_cons_of_neg (by simpa using above e List.mem_cons_self)

/-- The bytes read from the front of a memory, listed again, and what lies past them make up the memory. -/
theorem listed_readFrom_append (m : Memory) (a n : Nat) (rising : m.Pairwise (fun x y => x.1 < y.1))
    (nonzero : ∀ e ∈ m, e.2 ≠ 0#8) (above : ∀ e ∈ m, a ≤ e.1) :
    writeBytes.listed a (readBytes.readFrom m a n) ++ m.dropWhile (fun e => e.1 < a + n) = m := by
  induction n generalizing m a with
  | zero => exact dropWhile_lt_of_above above
  | succ n ih =>
    have next : a + (n + 1) = a + 1 + n := by omega
    rcases front_or_past rising above with ⟨b, r, rfl⟩ | past
    · obtain ⟨past, rising⟩ := List.pairwise_cons.1 rising
      obtain ⟨hb, nonzero⟩ := List.forall_mem_cons.1 nonzero
      rw [readFrom_at, writeBytes.listed, if_neg hb, List.dropWhile_cons_of_pos (by simp), next, List.cons_append,
        ih r (a + 1) rising nonzero past]
    · rw [readFrom_below past, writeBytes.listed, if_pos rfl, next, ih m (a + 1) rising nonzero past]

theorem dropWhile_lt_dropWhile_lt (m : Memory) {a b : Nat} (le : a ≤ b) :
    (m.dropWhile (fun e => e.1 < a)).dropWhile (fun e => e.1 < b) = m.dropWhile (fun e => e.1 < b) := by
  induction m with
  | nil => rfl
  | cons e r ih =>
    by_cases below : e.1 < a
    · simpa [List.dropWhile, below, Nat.lt_of_lt_of_le below le] using ih
    · simp [List.dropWhile, below]

theorem writeBytes_readBytes (m : Memory) (a n : Nat) (wf : memWf m = true) : writeBytes m a (readBytes m a n) = m := by
  obtain ⟨rising, nonzero⟩ := (memWf_iff m).1 wf
  have sub := List.dropWhile_sublist (l := m) (fun e : Nat × Byte => decide (e.1 < a))
  have high := listed_readFrom_append _ a n (rising.sublist sub) (fun e he => nonzero e (sub.subset he))
    (dropWhile_bound m a rising)
  rw [dropWhile_lt_dropWhile_lt m (Nat.le_add_right a n)] at high
  rw [writeBytes, readBytes_length, List.append_assoc, readBytes, high, List.takeWhile_append_dropWhile]

/-! ### A word with one wrong symbol -/

theorem applySymbols_single (bs : List Byte) (p : Nat) (v : Byte) :
    applySymbols bs [(p, v)] = bs.set p (bs.getD p 0#8 ^^^ v) := rfl

/-- An error applied twice is gone. -/
theorem applySymbols_twice (bs : List Byte) (p : Nat) (v : Byte) :
    applySymbols (applySymbols bs [(p, v)]) [(p, v)] = bs := by
  rw [applySymbols_single, applySymbols_single, List.set_set]
  by_cases inside : p < bs.length
  case pos =>
    rw [List.getD_eq_getElem?_getD, List.getElem?_set_self inside, Option.getD_some, BitVec.xor_assoc, BitVec.xor_self,
      BitVec.xor_zero, List.getD_eq_getElem?_getD, List.getElem?_eq_getElem inside, Option.getD_some, List.set_getElem_self]
  case neg => exact List.set_eq_of_length_le (Nat.le_of_not_lt inside)

theorem readWord_single (m : Mem) (w : Nat) {p : Nat} {v : Byte} (lt : p < 35) (nonzero : v ≠ 0#8) :
    readWord m w [(p, v)] [] = (readBytes m.bytes w 32, [.corrected w]) := by
  have unstacked : p ≠ stackCorrected ∧ p ≠ stackUncorrected := by unfold stackCorrected stackUncorrected; omega
  by_cases data : p < 32
  · simp [readWord, lt, unstacked, findWord_single lt nonzero, data, applySymbols_twice]
  · simp [readWord, lt, unstacked, findWord_single lt nonzero, data, applySymbols]

theorem readWord_uncorrectable (m : Mem) (w : Nat) {e : List (Nat × Byte)} (symbols : ∀ x ∈ e, x.1 < 35)
    (found : findWord e = .uncorrectable) : readWord m w e [] = (readBytes m.bytes w 32, [.uncorrectable w false]) := by
  have seen : e.filter (·.1 < 35) = e := List.filter_eq_self.2 fun x hx => decide_eq_true (symbols x hx)
  have unstacked (k : Nat) (past : 35 ≤ k) : e.any (·.1 = k) = false :=
    List.any_eq_false.2 fun x hx => by simpa using Nat.ne_of_lt (Nat.lt_of_lt_of_le (symbols x hx) past)
  simp [readWord, seen, found, unstacked stackCorrected (by decide), unstacked stackUncorrected (by decide)]

/-- Without an armed injection, a read of a range that meets the one word with an error resolves that word. -/
theorem touchRange_one_word {m : Mem} {w a n : Nat} {e : List (Nat × Byte)} (unarmed : m.armed = none)
    (upset : m.upsets = [(w, e)]) (meets : overlapsWord w a n = true) :
    touchRange m a n =
      (readBytes (resolveWord m w e []).1.bytes a n, (resolveWord m w e []).1, (resolveWord m w e []).2) := by
  simp [touchRange, metInjection, unarmed, touchedWords, upset, meets, resolveWords, flipsAt, seenBytes]

/-- One wrong symbol: the read writes the word back, and every byte of memory is as written (R448). -/
theorem resolveWord_single {m : Mem} {w p : Nat} {v : Byte} (wf : memWf m.bytes = true) (upset : m.upsets = [(w, [(p, v)])])
    (lt : p < 35) (nonzero : v ≠ 0#8) :
    resolveWord m w [(p, v)] [] = ({ m with upsets := [] }, [.corrected w]) := by
  simp [resolveWord, readWord_single m w lt nonzero, anyUncorrectable, putWord, writeBytes_readBytes m.bytes w 32 wf, upset,
    Tab.drop]

/-- An uncorrectable word stays. -/
theorem resolveWord_uncorrectable {m : Mem} {w : Nat} {e : List (Nat × Byte)} (upset : m.upsets = [(w, e)])
    (symbols : ∀ x ∈ e, x.1 < 35) (found : findWord e = .uncorrectable) :
    resolveWord m w e [] = (m, [.uncorrectable w false]) := by
  have kept : e.filter (·.1 ≠ stackCorrected) = e :=
    List.filter_eq_self.2 fun x hx => by
      have := symbols x hx
      simp only [stackCorrected]
      exact decide_eq_true (by omega)
  have same : m.upsets.map (fun x => if x.1 = w then (w, x.2.filter (·.1 ≠ stackCorrected)) else x) = m.upsets := by
    simp only [upset, List.map_cons, List.map_nil, if_true, kept]
  simp only [resolveWord, readWord_uncorrectable m w symbols found, same]
  rfl

/-! ### The obligation -/

/-- Settles O7: the outcomes are those of the decoder, two wrong symbols by `findWord_pair`, and a read of a range resolves the
word that it meets. -/
theorem readOutcomes : Obligations.ReadOutcomes := by
  refine ⟨findWord_eq_clean_iff, findWord_eq_corrected_iff, fun p q v w => findWord_pair, ?read⟩
  case read =>
    rintro m w a n e wf - unarmed upset symbols meets
    rw [touchRange_one_word unarmed upset meets]
    constructor
    · rintro p v nonzero rfl
      rw [resolveWord_single wf upset (symbols (p, v) List.mem_cons_self) nonzero]
    · intro found
      rw [resolveWord_uncorrectable upset symbols found]

end Sys2Proof.Machine
end

section
/-!
PROOF. Steps, the queue of commands, and the state after reset.
-/
namespace Sys2Proof.Machine

/-- Settles O1: the two branches of `step`. -/
theorem stepTakesFront : Obligations.StepTakesFront := by
  refine ⟨fun c rest s front => ?_, fun s idle => ?_⟩
  · simp only [step, front]
  · simp only [step, idle]

/-- Whatever a lifted effect does to the device, the queue stays. -/
theorem pending_of_lift {f : Device → Device} {s t : State} (ran : lift f s = .next t) : t.pending = s.pending :=
  (lift_next f s t ran).2

/-- BAR2_ACCESS alone can stop the model; where it does not, it is a lifted effect like every other command. -/
theorem lift_of_execBar2Access {op : Bar2Op} {found : Found} {s t : State} (ran : execBar2Access op s found = .next t) :
    lift (devBar2Access op found) s = .next t := by
  cases op with
  | read => exact ran
  | write off bs =>
    simp only [execBar2Access] at ran
    split at ran
    · cases ran
    · exact ran

/-- Settles O2: every command is a lifted effect on the device. -/
theorem commandsKeepQueue : Obligations.CommandsKeepQueue := by
  intro c s t ran
  cases c
  case bar2Access => exact pending_of_lift (lift_of_execBar2Access ran)
  case ack => simp only [exec, execAck] at ran; exact pending_of_lift ran
  case thermalLimitCleared => simp only [exec, execThermalLimitCleared] at ran; exact pending_of_lift ran
  all_goals exact pending_of_lift ran

/-- Settles O3: the reset state is written out. -/
theorem resetStateAndWords : Obligations.ResetStateAndWords := by
  refine ⟨?_, ?_⟩
  · refine ⟨rfl, ?_, rfl, rfl, rfl, rfl, rfl⟩
    unfold AfterReset
    simp only [State.reset, deviceAtPowerOn, deviceAfter, bootAfter]
    decide
  · refine ⟨?_, ?_⟩ <;> decide

/-- Settles O4: memory is empty, and nothing burns. -/
theorem invariantsAtReset : Obligations.InvariantsAtReset := ⟨⟨rfl, rfl, rfl⟩, trivial⟩

end Sys2Proof.Machine
end

section
/-!
PROOF. Bytes of memory (R441, R447): a memory in canonical form lists each byte that is not 0, so a write is read back by what it
lists; and what a write leaves of a word with an error.
-/
namespace Sys2Proof.Machine

/-! ### A byte read is the byte listed -/

theorem readByte_of_unlisted {m : Memory} {b : Nat} (unlisted : ∀ v, (b, v) ∉ m) : readByte m b = 0#8 := by
  induction m with
  | nil => rfl
  | cons e r ih =>
    obtain ⟨k, v⟩ := e
    have ne : k ≠ b := fun h => unlisted v (h ▸ List.mem_cons_self)
    simp only [readByte, ne, if_false, ih fun v hv => unlisted v (List.mem_cons_of_mem _ hv), ite_self]

theorem readByte_of_listed {m : Memory} {b : Nat} {v : Byte} (rising : m.Pairwise (fun x y => x.1 < y.1)) (listed : (b, v) ∈ m) :
    readByte m b = v := by
  induction m with
  | nil => cases listed
  | cons e r ih =>
    obtain ⟨past, rising⟩ := List.pairwise_cons.1 rising
    rcases List.mem_cons.1 listed with rfl | later
    · simp only [readByte, if_true]
    · have lt : e.1 < b := past _ later
      simp only [readByte, Nat.ne_of_lt lt, Nat.lt_asymm lt, if_false, ih rising later]

/-- A memory in canonical form lists the bytes that are not 0, and no other. -/
theorem mem_iff_readByte {m : Memory} (wf : memWf m = true) (b : Nat) (v : Byte) :
    (b, v) ∈ m ↔ readByte m b = v ∧ v ≠ 0#8 := by
  obtain ⟨rising, nonzero⟩ := (memWf_iff m).1 wf
  constructor
  · exact fun listed => ⟨readByte_of_listed rising listed, nonzero _ listed⟩
  · rintro ⟨rfl, ne⟩
    refine Classical.byContradiction fun unlisted => ?_
    refine ne (readByte_of_unlisted fun v listed => unlisted ?_)
    rwa [readByte_of_listed rising listed]

/-- Two memories that list the same bytes read the same. -/
theorem readByte_congr {m n : Memory} (hm : memWf m = true) (hn : memWf n = true) {b : Nat}
    (same : ∀ v, (b, v) ∈ m ↔ (b, v) ∈ n) : readByte m b = readByte n b := by
  have key : ∀ v, v ≠ 0#8 → (readByte m b = v ↔ readByte n b = v) := fun v ne => by
    simpa [mem_iff_readByte hm, mem_iff_readByte hn, ne] using same v
  by_cases zero : readByte n b = 0#8
  · refine Classical.byContradiction fun differ => ?_
    exact differ ((key _ (zero ▸ differ)).1 rfl).symm
  · exact (key _ zero).2 rfl

/-! ### What a write lists -/

theorem mem_listed (a : Nat) (bs : List Byte) (b : Nat) (v : Byte) :
    (b, v) ∈ writeBytes.listed a bs ↔ (a ≤ b ∧ b < a + bs.length) ∧ bs.getD (b - a) 0#8 = v ∧ v ≠ 0#8 := by
  induction bs generalizing a with
  | nil => exact iff_of_false List.not_mem_nil fun ⟨⟨above, below⟩, _⟩ => Nat.not_lt.2 above below
  | cons x r ih =>
    rcases Nat.lt_trichotomy a b with lt | rfl | gt
    · have shift : b - a = (b - (a + 1)) + 1 := by omega
      have bound : a ≤ b ∧ b < a + (x :: r).length ↔ a + 1 ≤ b ∧ b < a + 1 + r.length := by
        rw [List.length_cons]; omega
      rw [writeBytes.listed, bound, shift, List.getD_cons_succ, ← ih]
      split <;> simp [Nat.ne_of_gt lt]
    · have later : (a, v) ∉ writeBytes.listed (a + 1) r := by rw [ih]; omega
      have here : a ≤ a ∧ a < a + (x :: r).length := by rw [List.length_cons]; omega
      rw [writeBytes.listed, Nat.sub_self, List.getD_cons_zero]
      split
      next zero =>
        refine iff_of_false later fun h => ?_
        exact h.2.2 (h.2.1 ▸ zero)
      next nonzero =>
        simp only [List.mem_cons, later, or_false, Prod.mk.injEq, true_and, here, and_self]
        exact ⟨fun h => ⟨h.symm, h ▸ nonzero⟩, fun h => h.1.symm⟩
    · have later : (b, v) ∉ writeBytes.listed (a + 1) r := by rw [ih]; omega
      rw [writeBytes.listed]
      split <;> simp [later, Nat.ne_of_lt gt, Nat.not_le_of_lt gt]

theorem mem_takeWhile_lt_iff {m : Memory} (rising : m.Pairwise (fun x y => x.1 < y.1)) (n b : Nat) (v : Byte) :
    (b, v) ∈ m.takeWhile (fun e => e.1 < n) ↔ (b, v) ∈ m ∧ b < n := by
  constructor
  · exact fun h => ⟨(List.takeWhile_sublist _).subset h, mem_takeWhile_lt m n _ h⟩
  · rintro ⟨h, lt⟩
    rw [← List.takeWhile_append_dropWhile (l := m) (p := fun e => decide (e.1 < n)), List.mem_append] at h
    refine h.resolve_right fun high => ?_
    exact absurd (dropWhile_bound m n rising _ high) (Nat.not_le_of_lt lt)

theorem mem_dropWhile_lt_iff {m : Memory} (rising : m.Pairwise (fun x y => x.1 < y.1)) (n b : Nat) (v : Byte) :
    (b, v) ∈ m.dropWhile (fun e => e.1 < n) ↔ (b, v) ∈ m ∧ n ≤ b := by
  constructor
  · exact fun h => ⟨(List.dropWhile_sublist _).subset h, dropWhile_bound m n rising _ h⟩
  · rintro ⟨h, le⟩
    rw [← List.takeWhile_append_dropWhile (l := m) (p := fun e => decide (e.1 < n)), List.mem_append] at h
    refine h.resolve_left fun low => ?_
    exact absurd (mem_takeWhile_lt m n _ low) (Nat.not_lt_of_le le)

/-- Settles O6: inside the range a write lists what it was given, outside it what was listed before. -/
theorem writeThenRead : Obligations.WriteThenRead := by
  intro m a bs b wf
  have wf' := memWf_writeBytes m a bs wf
  obtain ⟨rising, nonzero⟩ := (memWf_iff m).1 wf
  have lists : ∀ v, (b, v) ∈ writeBytes m a bs ↔
      ((b, v) ∈ m ∧ b < a) ∨ ((a ≤ b ∧ b < a + bs.length) ∧ bs.getD (b - a) 0#8 = v ∧ v ≠ 0#8) ∨
        ((b, v) ∈ m ∧ a + bs.length ≤ b) := fun v => by
    simp only [writeBytes, List.mem_append, mem_listed, mem_takeWhile_lt_iff rising, mem_dropWhile_lt_iff rising, or_assoc]
  split
  next inside =>
    have here : ∀ v, (b, v) ∈ writeBytes m a bs ↔ bs.getD (b - a) 0#8 = v ∧ v ≠ 0#8 := fun v => by
      rw [lists]
      simp only [inside, Nat.not_lt_of_le inside.1, Nat.not_le_of_lt inside.2, and_self, and_false, true_and, false_or, or_false]
    by_cases zero : bs.getD (b - a) 0#8 = 0#8
    · rw [zero]
      refine readByte_of_unlisted fun v listed => ?_
      obtain ⟨rfl, ne⟩ := (here v).1 listed
      exact ne zero
    · exact ((mem_iff_readByte wf' b _).1 ((here _).2 ⟨rfl, zero⟩)).1
  next outside =>
    refine readByte_congr wf' wf fun v => ?_
    rw [lists]
    rcases Nat.lt_or_ge b a with lt | ge
    · simp only [outside, lt, Nat.not_le_of_lt (Nat.lt_of_lt_of_le lt (Nat.le_add_right a _)), and_true, and_false, false_and,
        or_false]
    · have past : a + bs.length ≤ b := Nat.le_of_not_lt fun lt => outside ⟨ge, lt⟩
      simp only [outside, Nat.not_lt_of_le ge, past, and_true, and_false, false_and, false_or]

/-! ### A write that meets one word with an error (R447) -/

section
variable {m : Mem} {w a : Nat} {e : List (Nat × Byte)} {bs : List Byte}

/-- A write that covers the word with the only error writes its bytes, and no error is left. -/
theorem writeRange_covering (unarmed : m.armed = none) (upset : m.upsets = [(w, e)]) (low : a ≤ w)
    (high : w + 32 ≤ a + bs.length) :
    writeRange m a bs = ({ m with bytes := writeBytes m.bytes a bs, upsets := [] }, []) := by
  simp [writeRange, metInjection, unarmed, touchedWords, upset, resolveWords, mergeInjected, low, high]

/-- A narrower write reads the word first and writes its bytes to what that leaves; an uncorrectable word is put back. -/
theorem writeRange_narrower (unarmed : m.armed = none) (upset : m.upsets = [(w, e)]) (meets : overlapsWord w a bs.length = true)
    (narrow : ¬ (a ≤ w ∧ w + 32 ≤ a + bs.length)) :
    writeRange m a bs =
      (let r := resolveWord m w e []
       ({ r.1 with
          bytes := (r.2.filterMap fun x => match x with
            | .uncorrectable w _ => some (w, readBytes r.1.bytes w 32)
            | .corrected _ | .stackCorrected _ => none).foldl (fun acc x => writeBytes acc x.1 x.2)
              (writeBytes r.1.bytes a bs) }, r.2)) := by
  obtain ⟨bytes, upsets, spill, armed⟩ := m
  obtain rfl : armed = none := unarmed
  obtain rfl : upsets = [(w, e)] := upset
  have kept : (!decide (a ≤ w) || !decide (w + 32 ≤ a + bs.length)) = true := by
    simpa only [← Bool.not_and, ← Bool.decide_and, Bool.not_eq_true', decide_eq_false_iff_not] using narrow
  simp [writeRange, metInjection, touchedWords, meets, kept, resolveWords, mergeInjected, flipsAt] <;> rfl

end

/-- Settles O8: the three ways by which a write leaves a word with an error. -/
theorem writesMerge : Obligations.WritesMerge := by
  intro m w a e bs wf aligned unarmed upset symbols meets
  refine ⟨fun low high => writeRange_covering unarmed upset low high, fun narrow => ⟨?_, fun found => ?_⟩⟩
  · rintro p v nonzero rfl
    rw [writeRange_narrower unarmed upset meets narrow, resolveWord_single wf upset (symbols (p, v) List.mem_cons_self) nonzero]
    rfl
  · rw [writeRange_narrower unarmed upset meets narrow, resolveWord_uncorrectable upset symbols found]
    refine ⟨rfl, rfl, fun b => ?_⟩
    have written := memWf_writeBytes m.bytes a bs wf
    simp only [List.filterMap_cons, List.filterMap_nil, List.foldl_cons, List.foldl_nil]
    rw [writeThenRead _ w _ b written, readBytes_length, writeThenRead m.bytes a bs b wf]
    split
    next inside =>
      rw [readBytes_eq m.bytes w 32 wf, List.getD_eq_getElem?_getD, List.getElem?_map,
        List.getElem?_range (by omega), Option.map_some, Option.getD_some, Nat.add_sub_of_le inside.1]
    next => rfl

end Sys2Proof.Machine
end

section
/-!
PROOF. What every operation of the device keeps, but for resets, burns and register writes: the relation, and the rules for the
shapes that the model's definitions have.
-/
namespace Sys2Proof.Machine

/-- Device memory, the spill area and the cells' own storage are in canonical form. -/
def Canonical (d : Device) : Prop :=
  memWf d.mem.bytes = true ∧ memWf d.mem.spill = true ∧ memWf d.cellStore = true

/-- From `d₀` to `d` no setup word and no fuse has changed, no burn has begun or ended, CFG_LOCK has not been taken back, no
cell has become active, and memory has kept its canonical form. -/
structure Keeps (d₀ d : Device) : Prop where
  regs : d.regs = d₀.regs
  fuses : d.fuses = d₀.fuses
  burn : d.boot.burn = d₀.boot.burn
  locked : d₀.cfgLocked = true → d.cfgLocked = true
  active : ∀ k, d.active.getLsbD k = true → d₀.active.getLsbD k = true
  canonical : Canonical d₀ → Canonical d

namespace Keeps

theorem refl (d : Device) : Keeps d d := ⟨rfl, rfl, rfl, id, fun _ => id, id⟩

theorem trans {a b c : Device} (h : Keeps a b) (k : Keeps b c) : Keeps a c :=
  ⟨k.regs.trans h.regs, k.fuses.trans h.fuses, k.burn.trans h.burn, k.locked ∘ h.locked, fun i => h.active i ∘ k.active i,
    k.canonical ∘ h.canonical⟩

variable {d₀ d : Device}

/-- Any field may change but those that the relation speaks of; memory may change within its canonical form. -/
theorem memory (h : Keeps d₀ d) {out freeCtr power pcie boot cfgHeld errs stats hif queues slabs job work cellStore veRegs veScales bnd
    role onTaken tree poolD poolLast poolNext mem scrub withdrawn spilling slotHold loaded fab twin test}
    (bytes : memWf d.mem.bytes = true → memWf mem.bytes = true) (spill : memWf d.mem.spill = true → memWf mem.spill = true)
    (cells : memWf d.cellStore = true → memWf cellStore = true := by exact id) (burn : boot.burn = d.boot.burn := by rfl) :
    Keeps d₀ { d with
      out := out, freeCtr := freeCtr, power := power, pcie := pcie, boot := boot, cfgHeld := cfgHeld, errs := errs, stats := stats
      hif := hif, queues := queues, slabs := slabs, job := job, work := work, cellStore := cellStore, veRegs := veRegs
      veScales := veScales, bnd := bnd, role := role, onTaken := onTaken, tree := tree, poolD := poolD, poolLast := poolLast
      poolNext := poolNext, mem := mem, scrub := scrub, withdrawn := withdrawn, spilling := spilling, slotHold := slotHold
      loaded := loaded, fab := fab, twin := twin, test := test } :=
  ⟨h.regs, h.fuses, burn.trans h.burn, h.locked, h.active, fun wf =>
    ⟨bytes (h.canonical wf).1, spill (h.canonical wf).2.1, cells (h.canonical wf).2.2⟩⟩

/-- Any field may change but those that the relation speaks of. -/
theorem update (h : Keeps d₀ d) {out freeCtr power pcie boot cfgHeld errs stats hif queues slabs job work veRegs veScales bnd role onTaken
    tree poolD poolLast poolNext scrub withdrawn spilling slotHold loaded fab twin test} (burn : boot.burn = d.boot.burn := by rfl) :
    Keeps d₀ { d with
      out := out, freeCtr := freeCtr, power := power, pcie := pcie, boot := boot, cfgHeld := cfgHeld, errs := errs, stats := stats
      hif := hif, queues := queues, slabs := slabs, job := job, work := work, veRegs := veRegs, veScales := veScales, bnd := bnd
      role := role, onTaken := onTaken, tree := tree, poolD := poolD, poolLast := poolLast, poolNext := poolNext, scrub := scrub
      withdrawn := withdrawn, spilling := spilling, slotHold := slotHold, loaded := loaded, fab := fab, twin := twin, test := test } :=
  h.memory id id id burn

/-- A read of device memory (R445). -/
theorem touch (h : Keeps d₀ d) {a n : Nat} {out freeCtr power pcie boot cfgHeld errs stats hif queues slabs job work veRegs veScales bnd
    role onTaken tree poolD poolLast poolNext scrub withdrawn spilling slotHold loaded fab twin test}
    (burn : boot.burn = d.boot.burn := by rfl) :
    Keeps d₀ { d with
      mem := (touchRange d.mem a n).2.1
      out := out, freeCtr := freeCtr, power := power, pcie := pcie, boot := boot, cfgHeld := cfgHeld, errs := errs, stats := stats
      hif := hif, queues := queues, slabs := slabs, job := job, work := work, veRegs := veRegs, veScales := veScales, bnd := bnd
      role := role, onTaken := onTaken, tree := tree, poolD := poolD, poolLast := poolLast, poolNext := poolNext, scrub := scrub
      withdrawn := withdrawn, spilling := spilling, slotHold := slotHold, loaded := loaded, fab := fab, twin := twin, test := test } :=
  h.memory (memWf_touchRange _ _ _) (fun wf => (touchRange_spill ..).symm ▸ wf) id burn

/-- A write of device memory (R447). -/
theorem write (h : Keeps d₀ d) {a : Nat} {bs : List Byte} {out freeCtr power pcie boot cfgHeld errs stats hif queues slabs job work veRegs
    veScales bnd role onTaken tree poolD poolLast poolNext scrub withdrawn spilling slotHold loaded fab twin test}
    (burn : boot.burn = d.boot.burn := by rfl) :
    Keeps d₀ { d with
      mem := (writeRange d.mem a bs).1
      out := out, freeCtr := freeCtr, power := power, pcie := pcie, boot := boot, cfgHeld := cfgHeld, errs := errs, stats := stats
      hif := hif, queues := queues, slabs := slabs, job := job, work := work, veRegs := veRegs, veScales := veScales, bnd := bnd
      role := role, onTaken := onTaken, tree := tree, poolD := poolD, poolLast := poolLast, poolNext := poolNext, scrub := scrub
      withdrawn := withdrawn, spilling := spilling, slotHold := slotHold, loaded := loaded, fab := fab, twin := twin, test := test } :=
  h.memory (memWf_writeRange _ _ _) (fun wf => (writeRange_spill ..).symm ▸ wf) id burn

/-! ### Branches and folds -/

theorem ite {c : Prop} [Decidable c] {x y : Device} (hx : Keeps d₀ x) (hy : Keeps d₀ y) : Keeps d₀ (if c then x else y) := by
  split
  · exact hx
  · exact hy

/-- The second branch goes on from the first. -/
theorem ite_of_left {c : Prop} [Decidable c] {x y : Device} (hx : Keeps d₀ x) (hy : Keeps d₀ x → Keeps d₀ y) :
    Keeps d₀ (if c then x else y) := ite hx (hy hx)

/-- The first branch goes on from the second. -/
theorem ite_of_right {c : Prop} [Decidable c] {x y : Device} (hx : Keeps d₀ y → Keeps d₀ x) (hy : Keeps d₀ y) :
    Keeps d₀ (if c then x else y) := ite (hx hy) hy

/-- A fold over states from which a device is seen. -/
theorem foldl_view {α β : Type} (view : β → Device) {f : β → α → β} {xs : List α} {i : β}
    (step : ∀ s x, Keeps d₀ (view s) → Keeps d₀ (view (f s x))) (h : Keeps d₀ (view i)) : Keeps d₀ (view (xs.foldl f i)) :=
  List.foldlRecOn xs f (motive := fun s => Keeps d₀ (view s)) h fun s hs x _ => step s x hs

theorem foldl {α : Type} {f : Device → α → Device} {xs : List α} (step : ∀ d x, Keeps d₀ d → Keeps d₀ (f d x)) (h : Keeps d₀ d) :
    Keeps d₀ (xs.foldl f d) := foldl_view id step h

/-- A fold that carries something beside the device. -/
theorem foldl_snd {α β : Type} {f : β × Device → α → β × Device} {xs : List α} {i : β × Device}
    (step : ∀ p x, Keeps d₀ p.2 → Keeps d₀ (f p x).2) (h : Keeps d₀ i.2) : Keeps d₀ (xs.foldl f i).2 := foldl_view (fun p : β × Device => p.2) step h

theorem foldl_snd_snd {α β γ : Type} {f : β × γ × Device → α → β × γ × Device} {xs : List α} {i : β × γ × Device}
    (step : ∀ p x, Keeps d₀ p.2.2 → Keeps d₀ (f p x).2.2) (h : Keeps d₀ i.2.2) : Keeps d₀ (xs.foldl f i).2.2 :=
  foldl_view (fun p : β × γ × Device => p.2.2) step h

/-! ### Operations that may not answer -/

theorem none : ∀ x ∈ (Option.none : Option Device), Keeps d₀ x := fun x found => absurd found (Option.not_mem_none x)

theorem some (h : Keeps d₀ d) : ∀ x ∈ Option.some d, Keeps d₀ x := by
  rintro x ⟨⟩
  exact h

theorem iteSome {c : Prop} [Decidable c] {x y : Option Device} (hx : ∀ e ∈ x, Keeps d₀ e) (hy : ∀ e ∈ y, Keeps d₀ e) :
    ∀ e ∈ (if c then x else y), Keeps d₀ e := by
  split
  · exact hx
  · exact hy

theorem map {α : Type} {o : Option α} {f : α → Device} (hf : ∀ a, Keeps d₀ (f a)) : ∀ e ∈ o.map f, Keeps d₀ e := by
  intro e found
  obtain ⟨a, -, rfl⟩ := Option.map_eq_some_iff.1 found
  exact hf a

theorem bind {o : Option Device} {f : Device → Option Device} (ho : ∀ e ∈ o, Keeps d₀ e)
    (hf : ∀ e, Keeps d₀ e → ∀ x ∈ f e, Keeps d₀ x) : ∀ x ∈ o.bind f, Keeps d₀ x := by
  intro x found
  obtain ⟨e, he, hx⟩ := Option.bind_eq_some_iff.1 found
  exact hf e (ho e he) x hx

theorem mapSome {o : Option Device} {f : Device → Device} (ho : ∀ e ∈ o, Keeps d₀ e) (hf : ∀ e, Keeps d₀ e → Keeps d₀ (f e)) :
    ∀ x ∈ o.map f, Keeps d₀ x := by
  intro x found
  obtain ⟨e, he, rfl⟩ := Option.map_eq_some_iff.1 found
  exact hf e (ho e he)

theorem foldlSome {α : Type} {f : α → Device → Option Device} {xs : List α} {o : Option Device}
    (step : ∀ e x, Keeps d₀ e → ∀ y ∈ f x e, Keeps d₀ y) (ho : ∀ e ∈ o, Keeps d₀ e) :
    ∀ y ∈ xs.foldl (fun acc x => acc.bind (f x)) o, Keeps d₀ y :=
  List.foldlRecOn xs _ (motive := fun o => ∀ e ∈ o, Keeps d₀ e) ho fun _ hs x _ => bind hs fun e => step e x

theorem getD_view {β : Type} (view : β → Device) {o : Option β} {s : β} (ho : ∀ e ∈ o, Keeps d₀ (view e)) (hs : Keeps d₀ (view s)) :
    Keeps d₀ (view (o.getD s)) := by
  cases o with
  | none => exact hs
  | some e => exact ho e rfl

theorem getD {o : Option Device} (ho : ∀ e ∈ o, Keeps d₀ e) (h : Keeps d₀ d) : Keeps d₀ (o.getD d) := getD_view id ho h

end Keeps

/-- Writes one after another keep the canonical form. -/
theorem memWf_foldl_writeRange {α : Type} (xs : List α) (at' : α → Nat) (bs : α → List Byte) (m : Mem) (wf : memWf m.bytes = true) :
    memWf (xs.foldl (fun m x => (writeRange m (at' x) (bs x)).1) m).bytes = true :=
  List.foldlRecOn xs _ (motive := fun m : Mem => memWf m.bytes = true) wf fun _ hm _ _ => memWf_writeRange _ _ _ hm

theorem foldl_writeRange_spill {α : Type} (xs : List α) (at' : α → Nat) (bs : α → List Byte) (m : Mem) :
    (xs.foldl (fun m x => (writeRange m (at' x) (bs x)).1) m).spill = m.spill :=
  List.foldlRecOn xs _ (motive := fun n : Mem => n.spill = m.spill) rfl fun _ hn _ _ => (writeRange_spill ..).trans hn

end Sys2Proof.Machine
end

section
/-!
PROOF. The work of a tile keeps memory in canonical form: the rules for work over its record, and what each part of a tile does.
-/
namespace Sys2Proof.Machine

/-- Memory and the spill area of a record of work are in canonical form. -/
def RunWf (r : Run) : Prop := memWf r.mem.bytes = true ∧ memWf r.mem.spill = true

/-- Work that keeps memory in canonical form. -/
def Tidy {α : Type} (x : Ev α) : Prop := ∀ r, RunWf r → RunWf (x.run r).2

namespace Tidy
variable {α β : Type}

theorem pure (v : α) : Tidy (pure v : Ev α) := fun _ h => h

theorem bind {x : Ev α} {f : α → Ev β} (hx : Tidy x) (hf : ∀ v, Tidy (f v)) : Tidy (x >>= f) :=
  fun r h => hf _ _ (hx r h)

theorem map {x : Ev α} {f : α → β} (hx : Tidy x) : Tidy (f <$> x) := hx

/-- What follows a look at the record may use that the record is as it should be. -/
theorem get_bind {f : Run → Ev β} (hf : ∀ r, RunWf r → Tidy (f r)) : Tidy (get >>= f) := fun r h => hf r h r h

theorem set {r : Run} (h : RunWf r) : Tidy (set r : Ev PUnit) := fun _ _ => h

theorem modify {f : Run → Run} (h : ∀ r, RunWf r → RunWf (f r)) : Tidy (modify f : Ev PUnit) := h

theorem ite {c : Prop} [Decidable c] {x y : Ev α} (hx : Tidy x) (hy : Tidy y) : Tidy (if c then x else y) := by
  split
  · exact hx
  · exact hy

theorem forM {xs : List α} {f : α → Ev PUnit} (h : ∀ v, Tidy (f v)) : Tidy (xs.forM f) := by
  induction xs with
  | nil => exact pure _
  | cons v t ih => exact bind (h v) fun _ => ih

theorem foldlM {xs : List α} {f : β → α → Ev β} {i : β} (h : ∀ s v, Tidy (f s v)) : Tidy (xs.foldlM f i) := by
  induction xs generalizing i with
  | nil => exact pure _
  | cons v t ih => exact bind (h i v) fun _ => ih

theorem mapM {xs : List α} {f : α → Ev β} (h : ∀ v, Tidy (f v)) : Tidy (xs.mapM f) := by
  induction xs with
  | nil => rw [List.mapM_nil]; exact pure _
  | cons v t ih => rw [List.mapM_cons]; exact bind (h v) fun _ => bind ih fun _ => pure _

end Tidy
end Sys2Proof.Machine
end

section
/-!
PROOF. What each operation of a tile's evaluation keeps: by its own shape, through the rules of `Tidy`.
-/
namespace Sys2Proof.Machine

theorem tidy_evFault : Tidy evFault :=
  .modify (fun _ h => h)

theorem tidy_evCheck {c : Bool} : Tidy (evCheck c) :=
  .ite (.pure _) tidy_evFault

theorem tidy_evRaise {x : Raised} : Tidy (evRaise x) :=
  .modify (fun _ h => h)

theorem tidy_evFlags {f : BitVec 7} : Tidy (evFlags f) :=
  tidy_evRaise

theorem tidy_evOnce {α : Type} {key : Nat × Nat × Nat} {x : Ev α} (hx : Tidy x) : Tidy (evOnce key x) := by
  refine .get_bind fun before _ => .bind hx fun v => .bind (.modify fun r h => ?_) fun _ => .pure v
  split <;> exact h

theorem tidy_evFlagged {α : Type} {x : α × BitVec 7} : Tidy (evFlagged x) :=
  .bind tidy_evFlags (fun _ => .pure _)

theorem tidy_evFreeBytes {n : Nat} : Tidy (evFreeBytes n) :=
  .get_bind (fun _ h => (.bind (.set h) (fun _ => .pure _)))

theorem tidy_evReadOpen {open' : List (Nat × Nat)} {a : Int} {n : Nat} : Tidy (evReadOpen open' a n) :=
  .ite (.bind tidy_evFault fun _ => .pure _)
    (.get_bind fun _ h => .bind (.set ⟨memWf_touchRange _ _ _ h.1, (touchRange_spill ..).symm ▸ h.2⟩) fun _ => .pure _)

theorem tidy_evRead {a : Int} {n : Nat} : Tidy (evRead a n) := .get_bind fun _ _ => tidy_evReadOpen

theorem tidy_evReadA {a : Int} {n : Nat} : Tidy (evReadA a n) := .get_bind fun _ _ => tidy_evReadOpen

theorem tidy_evNat {a : Int} {n : Nat} : Tidy (evNat a n) :=
  .bind tidy_evRead (fun _ => .pure _)

theorem tidy_evNatBy {rd : Reader} {a : Int} {n : Nat} (hrd : ∀ (a : Int) (a_1 : Nat), Tidy (rd a a_1)) :
    Tidy (evNatBy rd a n) :=
  .bind (hrd _ _) (fun _ => .pure _)

theorem tidy_evWrite {a : Int} {bs : List Byte} : Tidy (evWrite a bs) :=
  .get_bind fun _ h => .ite (.pure _) (.ite tidy_evFault
    (.set ⟨memWf_writeRange _ _ _ h.1, (writeRange_spill ..).symm ▸ h.2⟩))

theorem tidy_evByteC {p : Int × Byte} : Tidy (evByteC p) :=
  .get_bind (fun _ h => (.ite (.bind (.set h) (fun _ => .pure _)) (.bind (.set h) (fun _ => .pure _))))

theorem tidy_evWriteApart {a : Int} {bs : List Byte} : Tidy (evWriteApart a bs) :=
  .bind (.modify (fun _ h => h)) (fun _ => (.get_bind (fun _ h => (.ite (.bind (.set h) (fun _ =>
    tidy_evWrite)) tidy_evWrite))))

theorem tidy_evWrite32 {a : Int} {v : BitVec 32} : Tidy (evWrite32 a v) :=
  tidy_evWriteApart

theorem tidy_evReadF32By {rd : Reader} {ar : Arith} {a : Int} (hrd : ∀ (a : Int) (a_1 : Nat), Tidy (rd a a_1)) :
    Tidy (evReadF32By rd ar a) :=
  .bind (tidy_evNatBy (fun _ _ => (hrd _ _))) (fun _ => tidy_evFlagged)

theorem tidy_evReadF32 {ar : Arith} {a : Int} : Tidy (evReadF32 ar a) :=
  tidy_evReadF32By (fun _ _ => tidy_evRead)

theorem tidy_evInput {ar : Arith} {v : Val} : Tidy (evInput ar v) := by
  unfold evInput
  split
  · exact .ite (.bind tidy_evFlags (fun _ => .pure _)) (.pure _)
  · exact .pure _

theorem tidy_evBits {rd : Reader} {w base : Nat} {x : Int} (hrd : ∀ (a : Int) (a_1 : Nat), Tidy (rd a a_1)) :
    Tidy (evBits rd w base x) :=
  .ite (.bind (tidy_evNatBy (fun _ _ => (hrd _ _))) (fun _ => .pure _)) (tidy_evNatBy (fun _ _ => (hrd _ _)))

theorem tidy_evSide {rd : Reader} {f : Fmt} {ar : Arith} {base : Nat} {x : Int}
    (hrd : ∀ (a : Int) (a_1 : Nat), Tidy (rd a a_1)) : Tidy (evSide rd f ar base x) :=
  .bind (tidy_evBits (fun _ _ => (hrd _ _))) (fun _ => tidy_evFlagged)

theorem tidy_evElem {rd : Reader} {o : Operand} {ar : Arith} {x : Int} (hrd : ∀ (a : Int) (a_1 : Nat), Tidy (rd a a_1)) :
    Tidy (evElem rd o ar x) :=
  .bind (tidy_evBits (fun _ _ => (hrd _ _))) (fun _ => (.ite (.bind (tidy_evNatBy (fun _ _ => (hrd _ _))) (fun _ => (by
  split
  · exact .pure _
  · exact .pure _))) (.bind tidy_evFlagged (fun _ => .pure _))))

theorem tidy_evSet {a : Nat} : Tidy (evSet a) :=
  .bind tidy_evRead (fun _ => (by
  split
  · exact .pure _
  · exact .bind tidy_evFault (fun _ => .pure _)))

theorem tidy_evSeq {s : PageSet} {i : Nat} : Tidy (evSeq s i) :=
  .ite (.pure _) (.bind tidy_evNat (fun _ => (.ite (.pure _) (.ite (.pure _) (.bind tidy_evFault (fun _ => .pure _))))))

theorem tidy_evListFor {s : PageSet} {o : Nat} : Tidy (evListFor s o) :=
  .bind tidy_evSeq (fun _ => .pure _)

theorem tidy_evSlot {e : PageEntry} {off n : Nat} : Tidy (evSlot e off n) :=
  .ite (.get_bind (fun _ _ => .pure _)) tidy_evRead

theorem tidy_evEntry {l : PageList} {i : Nat} : Tidy (evEntry l i) :=
  .bind tidy_evRead (fun _ => .pure _)

theorem tidy_evKey {fmt : Fmt} {dh part : Nat} {l : PageList} {key dim : Nat} : Tidy (evKey fmt dh part l key dim) := by
  unfold evKey
  split
  · exact .bind tidy_evFault fun _ => .pure _
  · refine .ite (.bind tidy_evFault fun _ => .pure _)
      (.bind tidy_evEntry fun _ => .bind tidy_evSlot fun _ => .bind tidy_evSlot fun _ => ?_)
    split <;> dsimp only <;> split <;> exact .pure _

theorem tidy_evPos {base i : Nat} : Tidy (evPos base i) :=
  tidy_evNat

theorem tidy_evEnter {e : TileEnv} : Tidy (evEnter e) :=
  .modify (fun _ h => h)

theorem tidy_proSide {e : TileEnv} {m : Modifier} {k : Nat} {x : Int} : Tidy (proSide e m k x) := by
  unfold proSide
  split
  · exact tidy_evSide (fun _ _ => tidy_evRead)
  · exact tidy_evInput
  · exact tidy_evSide (fun _ _ => tidy_evRead)

theorem tidy_evRound {a : Arith} {v : Val × BitVec 7} : Tidy (evRound a v) :=
  .bind tidy_evFlags (fun _ => (.bind tidy_evFlagged (fun _ => .pure _)))

theorem tidy_evFreeF32 : Tidy (evFreeF32 ) :=
  .get_bind (fun _ h => (.bind (.set h) (fun _ => .pure _)))

theorem tidy_evRotate {a : Arith} {m : Modifier} {pos : Nat} {vs : List Val} : Tidy (evRotate a m pos vs) :=
  .mapM (fun _ => (.ite (.pure _) (.ite tidy_evFreeF32 (.bind tidy_evReadF32 (fun _ => (.bind tidy_evReadF32 (fun _ =>
    tidy_evRound)))))))

theorem tidy_ite_reader {c : Prop} [Decidable c] {rd rd' : Reader} (h : ∀ a n, Tidy (rd a n)) (h' : ∀ a n, Tidy (rd' a n))
    (a : Int)
    (n : Nat) : Tidy ((if c then rd else rd') a n) := by
  split
  · exact h a n
  · exact h' a n

theorem tidy_evNorm {a : Arith} {open' : List (Nat × Nat)} {m : Modifier} {rho : Nat} {vs : List Val} :
    Tidy (evNorm a open' m rho vs) :=
  .bind (tidy_evReadF32By (tidy_ite_reader (fun _ _ => tidy_evRead) fun _ _ => tidy_evReadOpen)) fun _ =>
    .bind tidy_evInput fun _ => .bind tidy_evRound fun _ => .bind tidy_evInput fun _ => .bind tidy_evRound fun _ =>
      .bind tidy_evRound fun _ => .mapM fun _ => tidy_evRound

theorem tidy_evPrologue {e : TileEnv} {target index pos : Nat} {xs : List Int} {vs : List Val} :
    Tidy (evPrologue e target index pos xs vs) :=
  .foldlM (fun _ _ => (by
  split
  · exact tidy_evRotate
  · exact tidy_evNorm
  · exact .mapM (fun _ => (.bind tidy_proSide (fun _ => tidy_evRound)))))

theorem tidy_evEncodeVec {f : Fmt} {a : Arith} {vs : List Val} : Tidy (evEncodeVec f a vs) :=
  .ite (.bind (.mapM (fun _ => (.bind tidy_evRaise (fun _ => .pure _)))) (fun _ => .pure _)) (.mapM (fun _ =>
    (.bind tidy_evFlagged (fun _ => .pure _))))

theorem tidy_evRowA {e : TileEnv} {o m kk : Nat} : Tidy (evRowA e o m kk) :=
  .bind (.mapM (fun _ => (tidy_evElem (fun _ _ => tidy_evReadA)))) (fun _ => (.ite (.ite (.bind tidy_evPos (fun _ =>
    (.bind tidy_evPrologue (fun _ => (tidy_evOnce tidy_evEncodeVec))))) (.bind (.pure _) (fun _ => (.bind tidy_evPrologue
    (fun _ => (tidy_evOnce tidy_evEncodeVec)))))) (.pure _)))

theorem tidy_evPagedCol {e : TileEnv} {s : PageSet} {l : PageList} {n kk : Nat} : Tidy (evPagedCol e s l n kk) :=
  .mapM (fun _ => (.ite (.bind tidy_evKey (fun _ => .pure _)) tidy_evKey))

theorem tidy_evColB {e : TileEnv} {paged : Option (PageSet × PageList)} {o n kk : Nat} : Tidy (evColB e paged o n kk) :=
  .bind (by
  split
  · exact tidy_evPagedCol
  · exact .mapM (fun _ => (tidy_evElem (fun _ _ => tidy_evRead)))) (fun _ => (.ite (.ite (.bind tidy_evPos (fun _ =>
      (.bind tidy_evPrologue (fun _ => (tidy_evOnce tidy_evEncodeVec))))) (.bind (.pure _) (fun _ => (.bind tidy_evPrologue
      (fun _ => (tidy_evOnce tidy_evEncodeVec)))))) (.pure _)))

theorem tidy_evPagedList {e : TileEnv} {o : Nat} : Tidy (evPagedList e o) :=
  .ite (.bind tidy_evSet (fun _ => (.bind tidy_evListFor (fun _ => (by
  split
  · exact .bind tidy_evRead (fun _ => .pure _)
  · exact .pure _))))) (.pure _)

theorem tidy_evAccumulator {e : TileEnv} {row col bits : Nat} : Tidy (evAccumulator e row col bits) :=
  .ite (.pure _) (.modify (fun _ h => h))

theorem tidy_evProduct {e : TileEnv} {t : TilePlace} : Tidy (evProduct e t) :=
  .bind tidy_evPagedList (fun _ => (.bind (.mapM (fun _ => tidy_evColB)) (fun _ => (.mapM (fun _ => (.bind tidy_evRowA
    (fun _ => (.bind (.mapM (fun _ => (by
  split
  · exact .ite (.bind tidy_evAccumulator (fun _ => (.bind tidy_evFlagged (fun _ => (.ite (.pure _) (.bind tidy_evFlagged
      (fun _ => .pure _))))))) (.bind tidy_evFlagged (fun _ => (.bind tidy_evAccumulator (fun _ => .pure _))))))) (fun _ =>
      .pure _)))))))))

theorem tidy_evVectorIn {e : TileEnv} {t : TilePlace} : Tidy (evVectorIn e t) :=
  .mapM (fun _ => (.bind (.mapM (fun _ => (.bind (tidy_evElem (fun _ _ => tidy_evReadA)) (fun _ => .pure _)))) (fun _ =>
    .pure _)))

theorem tidy_evDistBias {m : Modifier} {a : Arith} {pr pc : Nat} : Tidy (evDistBias m a pr pc) :=
  .ite (.pure _) (.ite tidy_evReadF32 (.pure _))

theorem tidy_epiSide {e : TileEnv} {m : Modifier} {o row col : Nat} {f : Val} : Tidy (epiSide e m o row col f) := by
  have side {b : Nat} {x : Int} : Tidy (evSide evRead ((fmtOf m.fmt).getD (plainFmt .fp32)) e.op.arith b x) :=
    tidy_evSide fun _ _ => tidy_evRead
  unfold epiSide
  split
  · exact tidy_evInput
  · exact side
  · exact side
  · exact tidy_evSide (tidy_ite_reader (fun _ _ => tidy_evReadOpen) fun _ _ => tidy_evRead)
  · exact tidy_evInput

theorem tidy_evSlotElem {e : TileEnv} {m : Modifier} {o row col pr pc : Nat} {f v : Val} :
    Tidy (evSlotElem e m o row col pr pc f v) := by
  unfold evSlotElem
  split
  · exact .ite (.bind tidy_evInput (fun _ => tidy_evRound)) (.bind (.pure _) (fun _ => tidy_evRound))
  · exact .bind tidy_evDistBias (fun _ => tidy_evRound)
  · exact .bind tidy_epiSide (fun _ => tidy_evRound)
  · exact .bind tidy_epiSide (fun _ => tidy_evRound)

theorem tidy_evArithSlot {e : TileEnv} {m : Modifier} {t : TilePlace} {fuse g : Grid} : Tidy (evArithSlot e m t fuse g) :=
  .mapM (fun _ => (.ite (.bind tidy_evPos (fun _ => (.bind (.mapM (fun _ => (.ite (.bind tidy_evPos (fun _ =>
    tidy_evSlotElem)) (.bind (.pure _) (fun _ => tidy_evSlotElem))))) (fun _ => .pure _)))) (.bind (.pure _) (fun _ => (.bind
    (.mapM (fun _ => (.ite (.bind tidy_evPos (fun _ => tidy_evSlotElem)) (.bind (.pure _) (fun _ => tidy_evSlotElem)))))
    (fun _ => .pure _))))))

theorem tidy_statFold {a : Arith} {param : Nat} {p v : Val} : Tidy (statFold a param p v) := by
  unfold statFold
  split
  · exact tidy_evRound
  · exact tidy_evRound
  · exact .pure _
  · exact .pure _

theorem tidy_statCombine {a : Arith} {param : Nat} {f p : Val} : Tidy (statCombine a param f p) :=
  .ite tidy_evRound (.pure _)

theorem tidy_evStatBits {v : Val} : Tidy (evStatBits v) := by
  unfold evStatBits
  split
  · exact .ite (.pure _) (.get_bind (fun _ h => (.bind (.set h) (fun _ => .pure _))))
  · exact .pure _

theorem tidy_evRowOut {e : TileEnv} {o row : Nat} {bs : List (Int × Byte)} : Tidy (evRowOut e o row bs) :=
  .get_bind (fun _ _ => (.ite (.bind tidy_evFreeBytes (fun _ => .pure _)) (.pure _)))

theorem tidy_evRowRed {e : TileEnv} {m : Modifier} {t : TilePlace} {g : Grid} : Tidy (evRowRed e m t g) :=
  .forM (fun _ => (.get_bind (fun _ _ => (.forM (fun _ => (.bind (.foldlM (fun _ _ => tidy_statFold)) (fun _ => (.ite
    (.bind tidy_evFreeF32 (fun _ => (.bind tidy_evStatBits (fun _ => tidy_evWrite32)))) (.bind (.pure _) (fun _ =>
    (.bind tidy_evStatBits (fun _ => tidy_evWrite32))))))))))))

theorem tidy_evColRed {e : TileEnv} {m : Modifier} {t : TilePlace} {g : Grid} : Tidy (evColRed e m t g) :=
  .forM (fun _ => (.forM (fun _ => (.ite (.pure _) (.bind (.foldlM (fun _ _ => tidy_statFold)) (fun _ =>
    (.bind tidy_evStatBits (fun _ => tidy_evWrite32))))))))

theorem tidy_evCBlock {e : TileEnv} {c0 : Nat} {vs : List Val} : Tidy (evCBlock e c0 vs) :=
  .bind tidy_evRaise (fun _ => .pure _)

theorem tidy_evConvertRow {e : TileEnv} {n0 : Nat} {r : Nat × List Val} : Tidy (evConvertRow e n0 r) :=
  .ite (.bind (.mapM (fun _ => (.ite (.pure _) (.bind tidy_evCBlock (fun _ => .pure _))))) (fun _ => .pure _)) (.bind (.mapM
    (fun _ => (.ite (.pure _) (.ite (.pure _) (.bind tidy_evFlagged (fun _ => .pure _)))))) (fun _ => .pure _))

theorem tidy_evWriteScattered {bs : List (Int × Byte)} : Tidy (evWriteScattered bs) :=
  .bind (.mapM (fun _ => tidy_evByteC)) (fun _ => (.forM (fun _ => tidy_evWrite)))

theorem tidy_evHand {e : TileEnv} {o entry : Nat} {rows : List CRow} : Tidy (evHand e o entry rows) := by
  unfold evHand
  split
  · exact tidy_evFault
  · exact .forM (fun _ => (.bind tidy_evRowOut (fun _ => (.ite (.modify (fun _ h => h)) tidy_evFault))))

theorem tidy_evWriteSlot {en : PageEntry} {off : Nat} {bs : List Byte} : Tidy (evScatter.evWriteSlot en off bs) := by
  refine .ite (.modify fun r h => ?_) (.bind tidy_evWriteApart fun _ => .modify fun _ h => h)
  split
  · exact h
  · exact ⟨h.1, memWf_writeBytes _ _ _ h.2⟩

theorem tidy_evScatter {e : TileEnv} {m : Modifier} {t : TilePlace} {g : Grid} : Tidy (evScatter e m t g) :=
  .bind tidy_evSet (fun _ => (.bind tidy_evCheck (fun _ => (.forM (fun _ => (.bind tidy_evPos (fun _ => (.bind tidy_evNat
    (fun _ => (.ite (.pure _) (.bind tidy_evSeq (fun _ => (by
  split
  · exact .pure _
  · exact .forM (fun _ => (.bind tidy_evRead (fun _ => (.ite (.ite (.modify (fun _ h => h)) (.pure _)) (by
    split
    · exact tidy_evFault
    · exact .bind tidy_evEntry (fun _ => (.bind tidy_evRaise (fun _ => (.get_bind (fun _ h => (.ite (.bind tidy_evFreeBytes
        (fun _ => (.bind tidy_evWriteSlot (fun _ => (.bind tidy_evFreeBytes (fun _ => (.bind tidy_evWriteSlot (fun _ =>
        (.modify (fun _ h => h)))))))))) (.bind tidy_evWriteSlot (fun _ => (.bind tidy_evWriteSlot (fun _ => (.modify
        (fun _ h => h))))))))))))))))))))))))))))))

theorem tidy_evConvert {e : TileEnv} {t : TilePlace} {s : EpiState} : Tidy (evConvert e t s) :=
  .bind (.mapM (fun _ => tidy_evConvertRow)) (fun _ => .pure _)

theorem tidy_evEpiSlot {e : TileEnv} {t : TilePlace} {fuse : Grid} {s : EpiState} {m : Modifier} :
    Tidy (evEpiSlot e t fuse s m) := by
  unfold evEpiSlot
  split
  · exact tidy_evConvert
  · exact .bind tidy_evRowRed (fun _ => .pure _)
  · exact .bind tidy_evColRed (fun _ => .pure _)
  · exact .bind tidy_evScatter (fun _ => .pure _)
  · exact .bind tidy_evHand (fun _ => .pure _)
  · exact .bind tidy_evArithSlot (fun _ => .pure _)

theorem tidy_evNote {stepout : Bool} {bs : List (Int × Byte)} : Tidy (evNote stepout bs) :=
  .ite (.modify (fun _ h => h)) (.pure _)

theorem tidy_evEpilogue {e : TileEnv} {t : TilePlace} {fuse g : Grid} : Tidy (evEpilogue e t fuse g) :=
  .bind (.foldlM (fun _ _ => tidy_evEpiSlot)) (fun _ => (.bind (by
  split
  · exact .pure _
  · exact .bind tidy_evConvert (fun _ => .pure _)) (fun _ => (.ite (.pure _) (.bind (.forM (fun _ => (.bind tidy_evRowOut
      (fun _ => (.bind tidy_evWriteScattered (fun _ => tidy_evNote)))))) (fun _ => .pure _))))))

theorem tidy_evOpTile {e : TileEnv} {t : TilePlace} {fuse : Grid} : Tidy (evOpTile e t fuse) :=
  .bind tidy_evEnter (fun _ => (.ite (.bind tidy_evVectorIn (fun _ => tidy_evEpilogue)) (.bind tidy_evProduct (fun _ =>
    tidy_evEpilogue))))

theorem tidy_evFuseBuffer {e : TileEnv} {t : TilePlace} {g : Grid} : Tidy (evFuseBuffer e t g) :=
  .modify (fun _ h => h)

theorem tidy_evStageTile {es : List TileEnv} {t : TilePlace} {fuse : Grid} : Tidy (evStageTile es t fuse) := by
  induction es generalizing fuse with
  | nil => exact .pure _
  | cons e r ih => exact .bind tidy_evOpTile fun _ => .ite ih (.bind tidy_evFuseBuffer fun _ => ih)

theorem tidy_evCloseRows {e : TileEnv} {m : Modifier} {o m0 m1 : Nat} : Tidy (evCloseRows e m o m0 m1) :=
  .forM (fun _ => (.bind (.foldlM (fun _ _ => (.bind tidy_evNat (fun _ => tidy_statCombine)))) (fun _ => tidy_evWrite32)))

theorem tidy_evCloseCols {e : TileEnv} {m : Modifier} {o n0 n1 : Nat} : Tidy (evCloseCols e m o n0 n1) :=
  .bind tidy_evPagedList (fun _ => (.forM (fun _ => (.bind (.foldlM (fun _ _ => (.bind tidy_evNat (fun _ =>
    tidy_statCombine)))) (fun _ => tidy_evWrite32)))))

theorem tidy_evIsPad {e : TileEnv} {o m : Nat} : Tidy (evIsPad e o m) :=
  .ite (.pure _) (.bind tidy_evPos (fun _ => .pure _))

theorem tidy_evPresent {e : TileEnv} {o : Nat} : Tidy (evPresent e o) :=
  .ite (.pure _) (.bind tidy_evNat (fun _ => .pure _))

theorem tidy_evScores {e : TileEnv} {o m n : Nat} : Tidy (evScores e o m n) :=
  .mapM fun _ => .bind (tidy_evNatBy fun _ _ => tidy_evReadA) fun _ =>
    .ite tidy_evFlagged (.bind (.map tidy_evFreeBytes) fun _ => tidy_evFlagged)

theorem tidy_evForget {c : Bool} {before : Raised} : Tidy (evForget c before) := by
  refine .modify fun r h => ?_
  split <;> exact h

theorem tidy_evReadStats {e : TileEnv} {o m : Nat} : Tidy (evReadStats e o m) :=
  .bind (tidy_evReadF32By (fun _ _ => tidy_evReadOpen)) (fun _ => (.bind (tidy_evReadF32By (fun _ _ => tidy_evReadOpen))
    (fun _ => .pure _)))

theorem tidy_evExpOf {a : Arith} {m s : Val} : Tidy (evExpOf a m s) :=
  .bind tidy_evRound (fun _ => tidy_evRound)

theorem tidy_evSoftmaxRow {a : Arith} {pad : Bool} {ss : List Val} : Tidy (evSoftmaxRow a pad ss) :=
  .ite (.ite (.pure _) (.bind (.modify (fun _ h => h)) (fun _ => .pure _))) (.ite (.bind (.modify (fun _ h => h)) (fun _ =>
    .pure _)) (.bind (.mapM (fun _ => tidy_evExpOf)) (fun _ => (.bind (.mapM (fun _ => (.foldlM (fun _ _ => tidy_evRound))))
    (fun _ => (.bind (.foldlM (fun _ _ => tidy_evRound)) (fun _ => (.bind (.mapM (fun _ => tidy_evRound)) (fun _ =>
    .pure _)))))))))

theorem tidy_evProb {a : Arith} {m l s : Val} : Tidy (evProb a m l s) :=
  .bind tidy_evExpOf (fun _ => tidy_evRound)

theorem tidy_evRecompRow {a : Arith} {pad : Bool} {m l : Val} {ss : List Val} : Tidy (evRecompRow a pad m l ss) :=
  .ite (.pure _) (.mapM (fun _ => tidy_evProb))

theorem tidy_evWriteProbs {e : TileEnv} {o m : Nat} {ps : List Val} : Tidy (evWriteProbs e o m ps) :=
  .bind tidy_evConvertRow (fun _ => (.ite (.pure _) (.bind tidy_evWriteScattered (fun _ => tidy_evNote))))

theorem tidy_evSoftmax {e : TileEnv} {o m : Nat} : Tidy (evSoftmax e o m) :=
  .bind tidy_evEnter (fun _ => (.bind tidy_evIsPad (fun _ => (.bind tidy_evPresent (fun _ => (.get_bind (fun _ _ =>
    (.bind tidy_evScores (fun _ => (.bind tidy_evForget (fun _ => (.bind tidy_evSoftmaxRow (fun _ => (.bind tidy_evWriteProbs
    (fun _ => tidy_evWriteApart)))))))))))))))

theorem tidy_evRecomp {e : TileEnv} {o m : Nat} : Tidy (evRecomp e o m) :=
  .bind tidy_evEnter (fun _ => (.bind tidy_evIsPad (fun _ => (.bind tidy_evPresent (fun _ => (.get_bind (fun _ _ =>
    (.bind tidy_evScores (fun _ => (.bind tidy_evReadStats (fun _ => (.bind tidy_evForget (fun _ => (.bind tidy_evRecompRow
    (fun _ => tidy_evWriteProbs)))))))))))))))

theorem tidy_evSoftgrad {e : TileEnv} {o m : Nat} : Tidy (evSoftgrad e o m) :=
  .bind tidy_evEnter (fun _ => (.bind tidy_evIsPad (fun _ => (.bind tidy_evPresent (fun _ => (.get_bind (fun _ _ =>
    (.bind tidy_evScores (fun _ => (.bind tidy_evReadStats (fun _ => (.bind tidy_evReadF32 (fun _ => (.bind (.mapM (fun _ =>
    tidy_evReadF32)) (fun _ => (.bind tidy_evForget (fun _ => (.bind (.ite (.pure _) (.mapM (fun _ => (.bind tidy_evProb
    (fun _ => (.bind tidy_evRound (fun _ => tidy_evRound))))))) (fun _ => tidy_evWriteProbs)))))))))))))))))))

theorem tidy_evRowGroup {f : TileEnv → Nat → Nat → Ev Unit} {e : TileEnv} {o mt r : Nat}
    (hf : ∀ (a : TileEnv) (a_1 a_2 : Nat), Tidy (f a a_1 a_2)) : Tidy (evRowGroup f e o mt r) :=
  .forM (fun _ => (hf _ _ _))

theorem tidy_evCloseOp {e : TileEnv} {x : IssuedOp} {ss : List (List IssuedOp)} {i : Issue} {t : TileAt} :
    Tidy (evCloseOp e x ss i t) :=
  .forM (fun _ => (.ite (.ite tidy_evCloseRows (.pure _)) (.ite (.ite tidy_evCloseCols (.pure _)) (.pure _))))

theorem tidy_evTile {d : Device} {c : Clause} {ss : List (List IssuedOp)} {i : Issue} {k : Nat} : Tidy (evTile d c ss i k) := by
  have close {ops : List IssuedOp} {i' : Issue} {t : TileAt} :
      Tidy (ops.forM fun y => do
        evEnter (envOf d c i y)
        evCloseOp (envOf d c i y) y ss i' t) := .forM fun _ => .bind tidy_evEnter fun _ => tidy_evCloseOp
  unfold evTile
  dsimp only
  split
  · exact .pure _
  · split
    · exact .bind (tidy_evRowGroup fun _ _ _ => tidy_evSoftmax) fun _ => close
    · exact .bind (tidy_evRowGroup fun _ _ _ => tidy_evRecomp) fun _ => close
    · exact .bind (tidy_evRowGroup fun _ _ _ => tidy_evSoftgrad) fun _ => close
    · exact .bind tidy_evStageTile fun _ => close

end Sys2Proof.Machine
end

section
/-!
PROOF. What each operation of the device keeps: by its own shape, through the rules of `Keeps` and the lemmas about the
operations that it uses.
-/
namespace Sys2Proof.Machine

-- Hundreds of these proofs would otherwise wait side by side, each with a stack of its own, for what stands above them.
set_option Elab.async false

variable {d₀ d : Device}

theorem keeps_emit {e : Emission} (h : Keeps d₀ d) : Keeps d₀ (emit e d) :=
  .update h

theorem keeps_emitAll {es : List Emission} (h : Keeps d₀ d) : Keeps d₀ (emitAll es d) :=
  .update h

theorem keeps_whenD {c : Bool} {f : Device → Device} (kf : ∀ (a : Device), Keeps d₀ a → Keeps d₀ (f a)) (h : Keeps d₀ d) :
    Keeps d₀ (whenD c f d) :=
  .ite (kf _ h) h

theorem keeps_takeFree (h : Keeps d₀ d) : Keeps d₀ (takeFree d).2 :=
  .update h

theorem keeps_setQueue {q : Nat} {x : QState} (h : Keeps d₀ d) : Keeps d₀ (setQueue q x d) :=
  .update h

theorem keeps_pushPacket {q : Nat} {ws : List W64} (h : Keeps d₀ d) : Keeps d₀ (pushPacket q ws d) :=
  .ite (by
  split
  · exact keeps_setQueue h
  · exact keeps_setQueue h
  · exact h) (keeps_setQueue h)

theorem keeps_msix {v : Nat} (h : Keeps d₀ d) : Keeps d₀ (msix v d) :=
  .ite h (.ite (.update h) (keeps_emit h))

theorem keeps_sendPending (h : Keeps d₀ d) : Keeps d₀ (sendPending d) :=
  .foldl (fun _ _ h => (.ite (keeps_msix (.update h)) h)) h

theorem keeps_postEvent {k : EventKind} {level block cell step info : Nat} (h : Keeps d₀ d) :
    Keeps d₀ (postEvent k level block cell step info d) :=
  .ite_of_right (fun k => (keeps_msix k)) (keeps_pushPacket h)

theorem keeps_deviceEvent {k : EventKind} {step info : Nat} (h : Keeps d₀ d) : Keeps d₀ (deviceEvent k step info d) :=
  keeps_postEvent h

theorem keeps_countStale (h : Keeps d₀ d) : Keeps d₀ (countStale d) :=
  .update h

theorem keeps_countCorrected {level block info : Nat} (h : Keeps d₀ d) : Keeps d₀ (countCorrected level block info d) :=
  keeps_postEvent (.update h)

theorem keeps_noteCorrected {a : Nat} (h : Keeps d₀ d) : Keeps d₀ (noteCorrected a d) :=
  keeps_countCorrected (.update h)

theorem keeps_noteUncorrectable {a source : Nat} {stack : Bool} (h : Keeps d₀ d) :
    Keeps d₀ (noteUncorrectable a source stack d) :=
  .update h

theorem keeps_countOdecc {a : Nat} (h : Keeps d₀ d) : Keeps d₀ (countOdecc a d) :=
  .ite (.update h) h

theorem keeps_eachEvent {bad : Nat → Bool → Device → Device} {es : List MemEvent}
    (kbad : ∀ (a : Nat) (a_1 : Bool) (a_2 : Device),
  Keeps d₀ a_2 → Keeps d₀ (bad a a_1 a_2)) (h : Keeps d₀ d) : Keeps d₀ (eachEvent bad es d) :=
  .foldl (fun _ _ h => (by
  split
  · exact keeps_noteCorrected h
  · exact keeps_countOdecc h
  · exact kbad _ _ _ h)) h

theorem keeps_noteFound {found : Found} (h : Keeps d₀ d) : Keeps d₀ (noteFound found d) :=
  .ite h (.foldl (fun _ _ h => .ite h (h.memory id id)) h)

theorem keeps_writeReport (h : Keeps d₀ d) : Keeps d₀ (writeReport d) :=
  keeps_emit h

theorem keeps_spdmError {code data : Nat} (h : Keeps d₀ d) : Keeps d₀ (spdmError code data d) :=
  keeps_emit h

theorem keeps_nonceBytes {n : Nat} (h : Keeps d₀ d) : Keeps d₀ (nonceBytes n d).2 := by
  induction n generalizing d with
  | zero => exact h
  | succ n ih => exact ih (keeps_takeFree h)

theorem keeps_answerMeasurements {index : Nat} {signed : Bool} {msg : List Byte} (h : Keeps d₀ d) :
    Keeps d₀ (answerMeasurements index signed msg d) :=
  .ite (keeps_spdmError h) (keeps_emit (.update (keeps_nonceBytes h)))

theorem keeps_serveWaiting (h : Keeps d₀ d) : Keeps d₀ (serveWaiting d) := by
  unfold serveWaiting
  dsimp only
  split
  · exact keeps_answerMeasurements (.update (.ite (keeps_writeReport (.update h)) h))
  · exact .ite (keeps_writeReport (.update h)) h

theorem keeps_swapRoles (h : Keeps d₀ d) : Keeps d₀ (swapRoles d) := by
  unfold swapRoles
  dsimp only
  split
  · exact h
  · exact .update h

theorem keeps_ownTurn {f : Device → Device} (kf : ∀ (a : Device), Keeps d₀ a → Keeps d₀ (f a)) (h : Keeps d₀ d) :
    Keeps d₀ (ownTurn f d) :=
  .ite (keeps_swapRoles (kf _ (keeps_swapRoles h))) (kf _ h)

theorem keeps_toOwn (h : Keeps d₀ d) : Keeps d₀ (toOwn d) :=
  .ite (keeps_swapRoles h) h

theorem keeps_flushList {l : List (Nat × List W64)} (h : Keeps d₀ d) : Keeps d₀ (flushList l d) := by
  induction l generalizing d with
  | nil => exact .update h
  | cons p t ih => exact .ite (.update h) (ih (keeps_pushPacket h))

theorem keeps_flushPosting (h : Keeps d₀ d) : Keeps d₀ (flushPosting d) :=
  keeps_flushList h

theorem keeps_postPacket {q : Nat} {ws : List W64} (h : Keeps d₀ d) : Keeps d₀ (postPacket q ws d) :=
  .update h

theorem keeps_noteReleased {q : Nat} {ws : List W64} (h : Keeps d₀ d) : Keeps d₀ (noteReleased q ws d) :=
  .ite h (.update h)

theorem keeps_complete {cq code opcode kind xstatus handle : Nat} {tag : W64} {step result : Nat} (h : Keeps d₀ d) :
    Keeps d₀ (complete cq code opcode kind xstatus handle tag step result d) :=
  .ite (keeps_postPacket h) (keeps_flushPosting (keeps_postPacket (keeps_noteReleased h)))

theorem keeps_completeDesc {f : Fetched} {code handle step result : Nat} (h : Keeps d₀ d) :
    Keeps d₀ (completeDesc f code handle step result d) :=
  keeps_complete h

theorem keeps_completeReq {q : Request} {code xstatus step result : Nat} (h : Keeps d₀ d) :
    Keeps d₀ (completeReq q code xstatus step result d) :=
  keeps_complete h

theorem keeps_inTurn {taken : Bool} {f : Device → Device} (kf : ∀ (a : Device), Keeps d₀ a → Keeps d₀ (f a)) (h : Keeps d₀ d) :
    Keeps d₀ (inTurn taken f d) :=
  .ite (kf _ h) (keeps_swapRoles (kf _ (keeps_swapRoles h)))

theorem keeps_fatalAt {level block info : Nat} (h : Keeps d₀ d) : Keeps d₀ (fatalAt level block info d) :=
  .ite h (keeps_serveWaiting (.update (.ite (keeps_complete (.ite (.foldl (fun _ _ h => (keeps_inTurn (fun _ =>
    keeps_completeDesc) h)) (keeps_postEvent h)) (keeps_inTurn (fun _ => keeps_complete) (.foldl (fun _ _ h => (keeps_inTurn
    (fun _ => keeps_completeDesc) h)) (keeps_postEvent h))))) (.ite (.foldl (fun _ _ h => (keeps_inTurn (fun _ =>
    keeps_completeDesc) h)) (keeps_postEvent h)) (keeps_inTurn (fun _ => keeps_complete) (.foldl (fun _ _ h => (keeps_inTurn
    (fun _ => keeps_completeDesc) h)) (keeps_postEvent h)))))))

theorem keeps_goFatal {info : Nat} (h : Keeps d₀ d) : Keeps d₀ (goFatal info d) :=
  keeps_fatalAt h

theorem keeps_statusWrite {off v : Nat} (h : Keeps d₀ d) : Keeps d₀ (statusWrite off v d) :=
  keeps_emitAll h

theorem keeps_holdBack {q : Nat} {ws : List QIn} (h : Keeps d₀ d) : Keeps d₀ (holdBack q ws d) :=
  .ite h (keeps_setQueue h)

theorem keeps_acceptWords {q : Nat} {ws : List QIn} (h : Keeps d₀ d) : Keeps d₀ (acceptWords q ws d) := by
  induction ws generalizing d with
  | nil => exact h
  | cons w t ih =>
    unfold acceptWords
    split
    · exact ih (keeps_setQueue h)
    · exact keeps_holdBack h

theorem keeps_refill {q : Nat} (h : Keeps d₀ d) : Keeps d₀ (refill q d) :=
  .ite h (keeps_acceptWords (keeps_setQueue h))

theorem keeps_eventMessage {before : Nat} {ws : List QIn} (h : Keeps d₀ d) : Keeps d₀ (eventMessage before ws d) :=
  keeps_whenD (fun _ => keeps_msix) h

theorem keeps_devQueuePacket {q : Fin 1024} {ws : List QIn} (h : Keeps d₀ d) : Keeps d₀ (devQueuePacket q ws d) :=
  .ite h (.ite (keeps_holdBack h) (.ite_of_right (fun k => (keeps_eventMessage k)) (keeps_acceptWords h)))

theorem keeps_poolRead {q : Nat} {rd : PoolRead} (h : Keeps d₀ d) : Keeps d₀ (poolRead q rd d) :=
  .ite (keeps_goFatal (.foldl (fun _ _ => keeps_countCorrected) (.update (keeps_setQueue h)))) (.foldl (fun _ _ =>
    keeps_countCorrected) (.update (keeps_setQueue h)))

theorem keeps_tokenRecord {p : List QWord} {markers : List Nat} (h : Keeps d₀ d) : Keeps d₀ (tokenRecord p markers d).2.2 := by
  unfold tokenRecord
  dsimp only
  split
  · exact keeps_takeFree h
  · split
    · exact h
    · exact h

theorem keeps_ringDone {off prod vec : Nat} (h : Keeps d₀ d) : Keeps d₀ (ringDone off prod vec d) :=
  keeps_whenD (fun _ => keeps_msix) (keeps_statusWrite h)

theorem keeps_writeTokens {n : Nat} {ps : List (List QWord)} (h : Keeps d₀ d) : Keeps d₀ (writeTokens n ps d) := by
  induction ps generalizing d with
  | nil => exact h
  | cons p t ih => exact ih (keeps_ringDone (.update (keeps_emit (keeps_setQueue (keeps_tokenRecord h)))))

theorem keeps_drainTokens {n : Nat} (h : Keeps d₀ d) : Keeps d₀ (drainTokens n d) :=
  keeps_refill (keeps_writeTokens h)

theorem keeps_writeCompletions {n : Nat} {ps : List (List QWord)} (h : Keeps d₀ d) : Keeps d₀ (writeCompletions n ps d) := by
  induction ps generalizing d with
  | nil => exact h
  | cons p t ih =>
    exact ih (.ite_of_right keeps_goFatal (.ite_of_right keeps_msix (keeps_ringDone (.update (keeps_emit (keeps_setQueue h))))))

theorem keeps_drainCompletions {n : Nat} (h : Keeps d₀ d) : Keeps d₀ (drainCompletions n d) :=
  keeps_refill (keeps_writeCompletions h)

theorem keeps_devDrain {q : Fin 128} {rd : PoolRead} (h : Keeps d₀ d) : Keeps d₀ (devDrain q rd d) :=
  .ite h (.ite (keeps_drainTokens (keeps_poolRead h)) (keeps_drainCompletions (keeps_poolRead h)))

theorem keeps_devUnreadTimeout {q : Fin 129} {rd : PoolRead} (h : Keeps d₀ d) : Keeps d₀ (devUnreadTimeout q rd d) :=
  .ite h (.ite (keeps_whenD (fun _ h => (keeps_drainTokens (keeps_poolRead h))) h) (.ite (keeps_msix h) h))

theorem keeps_popQueue {q : Nat} (h : Keeps d₀ d) : Keeps d₀ (popQueue q d) :=
  keeps_refill (keeps_setQueue h)

theorem keeps_dropRestQueue {q : Nat} (h : Keeps d₀ d) : Keeps d₀ (dropRestQueue q d) := by
  unfold dropRestQueue
  dsimp only
  split
  · exact keeps_refill (keeps_setQueue h)
  · exact .ite (keeps_refill (keeps_setQueue h)) h

theorem keeps_flushQueue {q : Nat} (h : Keeps d₀ d) : Keeps d₀ (flushQueue q d) :=
  keeps_refill (keeps_setQueue h)

theorem keeps_devPop {q : Fin 1024} {rd : PoolRead} (h : Keeps d₀ d) : Keeps d₀ (devPop q rd d) :=
  keeps_whenD (fun _ h => (keeps_popQueue (keeps_poolRead h))) h

theorem keeps_sendParticle {node : Nat} {p : Particle} (h : Keeps d₀ d) : Keeps d₀ (sendParticle node p d) :=
  .ite h (keeps_emit (.update h))

theorem keeps_sendMembers {p : Particle} (h : Keeps d₀ d) : Keeps d₀ (sendMembers p d) :=
  .foldl (fun _ _ => keeps_sendParticle) h

theorem keeps_discardFrame (h : Keeps d₀ d) : Keeps d₀ (discardFrame d) :=
  .update h

theorem keeps_ackParticle {pin : ParticleIn} (h : Keeps d₀ d) : Keeps d₀ (ackParticle pin d) :=
  keeps_emit h

theorem keeps_receiveParticle {type : Nat} {pin : ParticleIn} {current : Device → Particle → Bool}
    {act : Particle → Device → Device} (kact : ∀ (a : Particle) (a_1 : Device),
  Keeps d₀ a_1 → Keeps d₀ (act a a_1)) (h : Keeps d₀ d) : Keeps d₀ (receiveParticle type pin current act d) :=
  .ite h (.ite (keeps_discardFrame h) (by
  split
  · exact keeps_countStale h
  · exact .ite (keeps_countStale h) (.ite_of_left (keeps_ackParticle h) (fun k => (.ite (kact _ _ (.update k))
      (keeps_countStale h))))))

theorem keeps_devParticleRetryTimeout {id : Nat} (h : Keeps d₀ d) : Keeps d₀ (devParticleRetryTimeout id d) := by
  unfold devParticleRetryTimeout
  dsimp only
  split
  · exact h
  · exact .ite h (.ite (keeps_emit (.update h)) (.update h))

theorem keeps_takeChunk {id : Nat} {t : TxChunk} (h : Keeps d₀ d) : Keeps d₀ (takeChunk id t d) :=
  .update h

theorem keeps_serveLoop {fuel port : Nat} {r : PortRun} (h : Keeps d₀ d) : Keeps d₀ (serveLoop fuel port r d) := by
  rw [serveLoop_served fuel port r d]
  exact .update h

theorem keeps_servePort {port : Nat} (h : Keeps d₀ d) : Keeps d₀ (servePort d port) :=
  .ite h (keeps_serveLoop h)

theorem keeps_serve (h : Keeps d₀ d) : Keeps d₀ (serve d) :=
  .ite h (.foldl (fun _ _ => keeps_servePort) h)

theorem keeps_noteChunk {c : Chunk} (h : Keeps d₀ d) : Keeps d₀ (noteChunk c d) :=
  .ite (.update h) h

theorem keeps_sendOn {port : Nat} {c : Chunk} (h : Keeps d₀ d) : Keeps d₀ (sendOn port c d) :=
  .ite_of_left (keeps_noteChunk h) (fun k => (.update k))

theorem keeps_sendChunk {port : Nat} {c : Chunk} (h : Keeps d₀ d) : Keeps d₀ (sendChunk port c d) :=
  keeps_sendOn h

theorem keeps_takeOut {gone : TxChunk → Bool} (h : Keeps d₀ d) : Keeps d₀ (takeOut gone d) :=
  .update h

theorem keeps_dropChunks {gone : TxChunk → Bool} (h : Keeps d₀ d) : Keeps d₀ (dropChunks gone d) :=
  keeps_serve (keeps_takeOut h)

theorem keeps_dropChunk {id : Nat} (h : Keeps d₀ d) : Keeps d₀ (dropChunk id d) :=
  .update h

theorem keeps_markAgain {id port : Nat} (h : Keeps d₀ d) : Keeps d₀ (markAgain id port d) := by
  unfold markAgain
  dsimp only
  split
  · exact h
  · exact .update h

theorem keeps_resendChunk {id port : Nat} (h : Keeps d₀ d) : Keeps d₀ (resendChunk id port d) :=
  keeps_serve (keeps_markAgain h)

theorem keeps_discardStep (h : Keeps d₀ d) : Keeps d₀ (discardStep d) := by
  unfold discardStep
  exact keeps_takeOut (.update (keeps_toOwn h))

theorem keeps_adoptGen {g : Nat} (h : Keeps d₀ d) : Keeps d₀ (adoptGen g d) :=
  .update h

theorem active_of_getLsbD_fence {cells : List (Nat × Nat)} {v : BitVec 1536} {k : Nat}
    (on : (cells.foldl (fun a p => a &&& ~~~(cellBit p.1 p.2)) v).getLsbD k = true) : v.getLsbD k = true := by
  induction cells generalizing v with
  | nil => exact on
  | cons p t ih =>
    have step := ih on
    rw [BitVec.getLsbD_and, Bool.and_eq_true] at step
    exact step.1

theorem keeps_applyFence {site : ErrorSite} (h : Keeps d₀ d) : Keeps d₀ (applyFence site d) := by
  unfold applyFence
  split
  · exact h
  · refine .ite h (.ite (keeps_goFatal h) (keeps_postEvent ?_))
    exact ⟨h.regs, h.fuses, h.burn, h.locked, fun k on => h.active k (active_of_getLsbD_fence on), h.canonical⟩

theorem keeps_applyFences (h : Keeps d₀ d) : Keeps d₀ (applyFences d) :=
  .foldl (fun _ _ => keeps_applyFence) (.update h)

theorem keeps_haltMember (h : Keeps d₀ d) : Keeps d₀ (haltMember d) :=
  .update (keeps_deviceEvent h)

theorem keeps_itemTwo {gen : Nat} (h : Keeps d₀ d) : Keeps d₀ (itemTwo gen d).2 := by
  unfold itemTwo
  dsimp only
  split
  · exact keeps_applyFences (keeps_adoptGen (keeps_discardStep h))
  · split
    · exact keeps_haltMember (keeps_applyFences (keeps_adoptGen (keeps_discardStep h)))
    · exact keeps_deviceEvent (.update (keeps_applyFences (keeps_adoptGen (keeps_discardStep h))))

theorem keeps_sendReady (h : Keeps d₀ d) : Keeps d₀ (sendReady d) :=
  .foldl (fun _ _ => keeps_sendParticle) h

theorem keeps_tryReady (h : Keeps d₀ d) : Keeps d₀ (tryReady d) :=
  .ite (keeps_sendMembers (.update h)) h

theorem keeps_restartBegin (h : Keeps d₀ d) : Keeps d₀ (restartBegin d) :=
  .ite (keeps_serve (keeps_haltMember (.ite h (keeps_discardStep h)))) (.ite (keeps_serve (keeps_tryReady (.update
    (keeps_itemTwo (.update (keeps_sendMembers h)))))) (keeps_serve (keeps_itemTwo (.update (keeps_sendMembers h)))))

theorem keeps_reportFault (h : Keeps d₀ d) : Keeps d₀ (reportFault d) :=
  .ite h (keeps_sendParticle (.update h))

theorem keeps_faultNow (h : Keeps d₀ d) : Keeps d₀ (faultNow d) :=
  .ite h (.ite h (.ite (keeps_restartBegin (.update (keeps_toOwn h))) (keeps_reportFault (.update (keeps_toOwn h)))))

theorem keeps_faultStep (h : Keeps d₀ d) : Keeps d₀ (faultStep d) :=
  .ite (.update h) (keeps_faultNow h)

theorem keeps_stepError {level block cell info : Nat} {named : List ErrorSite} (h : Keeps d₀ d) :
    Keeps d₀ (stepError level block cell info named d) :=
  keeps_faultStep (.update (keeps_postEvent h))

theorem keeps_stepFault {info : Nat} (h : Keeps d₀ d) : Keeps d₀ (stepFault info d) :=
  keeps_stepError h

theorem keeps_agreementError {entry : Nat} (h : Keeps d₀ d) : Keeps d₀ (agreementError entry d) :=
  keeps_faultStep (.update (keeps_deviceEvent h))

theorem keeps_noteLost {w : Nat} (h : Keeps d₀ d) : Keeps d₀ (noteLost w d) :=
  .update h

theorem keeps_stepBad {w : Nat} {stack : Bool} (h : Keeps d₀ d) : Keeps d₀ (stepBad w stack d) :=
  .ite (keeps_goFatal (.ite (.update h) (keeps_noteUncorrectable h))) (keeps_postEvent (keeps_noteLost (.ite (.update h)
    (keeps_noteUncorrectable h))))

theorem keeps_stepEvents {es : List MemEvent} (h : Keeps d₀ d) : Keeps d₀ (stepEvents es d) :=
  .ite (keeps_faultStep (keeps_eachEvent (fun _ _ _ => keeps_stepBad) h)) (keeps_eachEvent (fun _ _ _ => keeps_stepBad) h)

theorem keeps_unitRead {a n : Nat} (h : Keeps d₀ d) : Keeps d₀ (unitRead a n d).2.2 := h.touch

theorem keeps_freeSpans {ss : List (Nat × Nat)} (h : Keeps d₀ d) : Keeps d₀ (freeSpans ss d) :=
  .foldl (fun _ _ h => h.memory (memWf_writeBytes _ _ _) id) h

theorem keeps_freeEntry {e : Nat} {r : EntryRun} (h : Keeps d₀ d) : Keeps d₀ (freeEntry e r d) :=
  .update h

theorem keeps_freeChunk {id : Nat} {t : TxChunk} (h : Keeps d₀ d) : Keeps d₀ (freeChunk id t d) :=
  .ite h (.update h)

theorem keeps_freeFabric (h : Keeps d₀ d) : Keeps d₀ (freeFabric d) :=
  .update (.foldl (fun _ _ => keeps_freeChunk) (.foldl (fun _ _ => keeps_freeEntry) h))

theorem keeps_freeResults (h : Keeps d₀ d) : Keeps d₀ (freeResults d) :=
  .update (keeps_freeFabric (keeps_freeSpans h))

theorem keeps_noteRaced {a n : Nat} (h : Keeps d₀ d) : Keeps d₀ (noteRaced a n d) :=
  .ite h (.ite (keeps_freeResults (.update h)) (.update h))

theorem keeps_noteRead {a n : Nat} (h : Keeps d₀ d) : Keeps d₀ (noteRead a n d) :=
  .ite h (.update h)

theorem keeps_freeRaced {a n : Nat} (h : Keeps d₀ d) : Keeps d₀ (freeRaced a n d) :=
  keeps_freeSpans h

theorem keeps_racedBytes {a : Nat} {bs : List Byte} (h : Keeps d₀ d) : Keeps d₀ (racedBytes a bs d).2 := by
  unfold racedBytes
  split
  · exact .update h
  · exact h

theorem keeps_workRead {a n : Nat} (h : Keeps d₀ d) : Keeps d₀ (workRead a n d).2 := by
  unfold workRead
  dsimp only
  split
  · exact keeps_stepFault h
  · exact keeps_racedBytes (keeps_freeRaced (keeps_noteRead (keeps_stepEvents (keeps_unitRead h))))

theorem keeps_readAll {rs : List (Nat × Nat)} (h : Keeps d₀ d) : Keeps d₀ (readAll rs d).2 :=
  .foldl_snd (fun _ _ => keeps_racedBytes) (.foldl (fun _ _ h => (keeps_freeRaced (keeps_noteRead h))) (keeps_stepEvents
    (.foldl_snd_snd (fun _ _ => keeps_unitRead) h)))

theorem keeps_noteWrote {a n : Nat} (h : Keeps d₀ d) : Keeps d₀ (noteWrote a n d) :=
  .update h

theorem racedBytes_mem {a : Nat} {bs : List Byte} : (racedBytes a bs d).2.mem = d.mem := by
  unfold racedBytes
  split <;> rfl

theorem keeps_workWrite {a : Nat} {bs : List Byte} (h : Keeps d₀ d) : Keeps d₀ (workWrite a bs d) := by
  have raced : Keeps d₀ (noteWrote a bs.length (racedBytes a bs d).2) := keeps_noteWrote (keeps_racedBytes h)
  have same : (noteWrote a bs.length (racedBytes a bs d).2).mem = d.mem := racedBytes_mem
  refine .ite (keeps_stepFault h) (keeps_stepEvents (raced.memory (fun wf => ?_) fun wf => ?_))
  · exact memWf_writeRange _ _ _ (same ▸ wf)
  · rw [writeRange_spill]
    exact same ▸ wf

theorem keeps_devResidueMismatch {site : ErrorSite} (h : Keeps d₀ d) : Keeps d₀ (devResidueMismatch site d) :=
  .ite h (by
  split
  · exact keeps_fatalAt h
  · exact keeps_stepError h)

theorem keeps_devLinkRetryTimeout {link : Fin 24} {exhausted : Bool} (h : Keeps d₀ d) :
    Keeps d₀ (devLinkRetryTimeout link exhausted d) :=
  .ite h (.ite (keeps_stepError h) (keeps_countCorrected h))

theorem keeps_devStepDoneTimeout (h : Keeps d₀ d) : Keeps d₀ (devStepDoneTimeout d) :=
  .ite h (keeps_stepFault h)

theorem keeps_devReadyWaitTimeout (h : Keeps d₀ d) : Keeps d₀ (devReadyWaitTimeout d) :=
  .ite h (keeps_haltMember h)

theorem keeps_devStepStartTimeout (h : Keeps d₀ d) : Keeps d₀ (devStepStartTimeout d) :=
  .ite h (keeps_haltMember (keeps_sendParticle (keeps_deviceEvent h)))

theorem keeps_sendTwin {r : TwinRec} (h : Keeps d₀ d) : Keeps d₀ (sendTwin r d) :=
  keeps_emit (.update h)

theorem keeps_resendTwin {u : TwinSent} (h : Keeps d₀ d) : Keeps d₀ (resendTwin u d) :=
  keeps_emitAll (.update h)

theorem keeps_devPortUp {port : Fin 8} (h : Keeps d₀ d) : Keeps d₀ (devPortUp port d) :=
  .ite h (.update h)

theorem keeps_moveChunks {port : Nat} (h : Keeps d₀ d) : Keeps d₀ (moveChunks port d) :=
  .foldl (fun _ _ h => (by
  split
  · exact .ite (.update h) (keeps_markAgain h)
  · exact h)) h

theorem keeps_sendTwinAnswer {ftype : Nat} {f : Frame} (h : Keeps d₀ d) : Keeps d₀ (sendTwinAnswer ftype f d) :=
  keeps_emit h

theorem keeps_twinData {f : Frame} (h : Keeps d₀ d) : Keeps d₀ (twinData f d) :=
  .ite (keeps_countStale h) (.ite (keeps_sendTwinAnswer h) (.ite (keeps_discardFrame h) (.ite (.update h) (.ite
    (keeps_sendTwinAnswer (.update h)) (keeps_sendTwinAnswer (.update h))))))

theorem keeps_sendAnswer {ftype port : Nat} {f : Frame} (h : Keeps d₀ d) : Keeps d₀ (sendAnswer ftype port f d) :=
  .ite h (keeps_emit h)

theorem keeps_setRun {e : Nat} {r : EntryRun} (h : Keeps d₀ d) : Keeps d₀ (setRun e r d) :=
  .update h

theorem keeps_sourceBytes {e : Nat} {t : TrigEntry} {noc : Bool} {off n : Nat} (h : Keeps d₀ d) :
    Keeps d₀ (sourceBytes d e t noc off n).2 := by
  unfold sourceBytes
  dsimp only
  split
  · exact .update h
  · exact keeps_workRead h

theorem keeps_sendPart {e : Nat} {t : TrigEntry} {g : Group} {noc : Bool} {p : Part} (h : Keeps d₀ d) :
    Keeps d₀ (sendPart e t g noc d p) :=
  .ite h (keeps_sendChunk (keeps_setRun (keeps_sourceBytes h)))

theorem keeps_failCollective {e reason : Nat} {tell : Bool} (h : Keeps d₀ d) : Keeps d₀ (failCollective e reason tell d) := by
  unfold failCollective
  dsimp only
  split
  · exact h
  · exact .ite h (.ite (keeps_agreementError (keeps_takeOut (by
    split
    · exact .foldl (fun _ _ => keeps_sendParticle) (keeps_setRun h)
    · exact keeps_setRun h))) (keeps_stepFault (keeps_takeOut (by
    split
    · exact .foldl (fun _ _ => keeps_sendParticle) (keeps_setRun h)
    · exact keeps_setRun h))))

theorem keeps_failNow {e reason : Nat} {tell : Bool} (h : Keeps d₀ d) : Keeps d₀ (failNow e reason tell d) :=
  keeps_serve (keeps_failCollective h)

theorem keeps_freeBytes {n : Nat} (h : Keeps d₀ d) : Keeps d₀ (freeBytes n d).2 :=
  .update h

theorem keeps_raiseStep {f : BitVec 7} (h : Keeps d₀ d) : Keeps d₀ (raiseStep f d) :=
  .update h

theorem keeps_sendResults {e : Nat} {t : TrigEntry} {g : Group} (h : Keeps d₀ d) : Keeps d₀ (sendResults e t g d) :=
  .foldl (fun _ _ h => (.ite h (.foldl (fun _ _ h => (keeps_sendChunk (keeps_setRun h))) (keeps_workRead h)))) h

theorem keeps_foldChunk {e : Nat} {t : TrigEntry} {g : Group} {rank c : Nat} (h : Keeps d₀ d) :
    Keeps d₀ (foldChunk e t g rank c d) :=
  .ite (keeps_sendResults (keeps_raiseStep (keeps_setRun (.ite_of_right (fun k => (keeps_workWrite k)) (keeps_workWrite (by
  split
  · split
    · exact keeps_sourceBytes h
    · exact keeps_workRead h
  · exact keeps_workRead (by
    split
    · exact keeps_sourceBytes h
    · exact keeps_workRead h))))))) (keeps_raiseStep (keeps_setRun (.ite_of_right (fun k => (keeps_workWrite k))
        (keeps_workWrite (by
  split
  · split
    · exact keeps_sourceBytes h
    · exact keeps_workRead h
  · exact keeps_workRead (by
    split
    · exact keeps_sourceBytes h
    · exact keeps_workRead h))))))

theorem keeps_readRoutes {t : TrigEntry} {members : Nat} (h : Keeps d₀ d) : Keeps d₀ (readRoutes t members d).2 := by
  have rows := keeps_workRead (a := t.nrows) (n := 4) h
  simp only [readRoutes, apply_ite Prod.snd]
  exact .ite (keeps_stepFault rows) (.ite (keeps_workRead rows) (keeps_stepFault (keeps_workRead rows)))

theorem keeps_dropPairs {t : TrigEntry} {ps : List Pair} (h : Keeps d₀ d) : Keeps d₀ (dropPairs t ps d) :=
  .update (.foldl (fun _ _ => keeps_workWrite) h)

theorem keeps_pairRows {e : Nat} {t : TrigEntry} {noc : Bool} {ps : List Pair} (h : Keeps d₀ d) :
    Keeps d₀ (pairRows e t noc ps d).2 :=
  .foldl_snd (fun _ _ => keeps_sourceBytes) h

theorem keeps_writeUnits {n : Nat} {addrs : Nat → Option Nat} {lo : Nat} {bs : List Byte} (h : Keeps d₀ d) :
    Keeps d₀ (writeUnits n addrs lo bs d) :=
  .foldl (fun _ _ h => (by
  split
  · exact keeps_workWrite h
  · exact h)) h

theorem keeps_placeRows {e : Nat} {t : TrigEntry} {members : Nat} (h : Keeps d₀ d) : Keeps d₀ (placeRows e t members d) :=
  .foldl (fun _ _ h => (by
  split
  · exact keeps_writeUnits h
  · exact keeps_setRun h)) (keeps_setRun h)

theorem keeps_placeBytes {e : Nat} {t : TrigEntry} {members : Nat} {dest : Dest} {off : Nat} {bs : List Byte}
    (h : Keeps d₀ d) : Keeps d₀ (placeBytes e t members dest off bs d) :=
  .ite h (by
  split
  · exact keeps_workWrite h
  · exact keeps_writeUnits h
  · exact keeps_placeRows (keeps_setRun h)
  · exact h)

theorem keeps_sendOnce {e : Nat} {t : TrigEntry} {g : Group} {dest : Dest} {p : Part} {read : Device → List Byte × Device}
    (kread : ∀ d, Keeps d₀ d → Keeps d₀ (read d).2) (h : Keeps d₀ d) : Keeps d₀ (sendOnce e t g dest p read d) :=
  .ite h (.ite (keeps_placeBytes (keeps_setRun (kread _ h))) (keeps_sendChunk (keeps_setRun (kread _ h))))

theorem keeps_readRanges {e : Nat} {t : TrigEntry} {rs : List (Nat × Nat)} (h : Keeps d₀ d) :
    Keeps d₀ (readRanges e t rs d).2 :=
  .foldl_snd (fun _ _ => keeps_sourceBytes) h

theorem keeps_sendReturn {e : Nat} {t q : TrigEntry} {g : Group} {ready : List (Nat × Nat) → Bool} (h : Keeps d₀ d) :
    Keeps d₀ (sendReturn e t q g ready d) :=
  .foldl (fun _ _ h => (.foldl (fun _ _ h => (keeps_sendOnce (fun _ => keeps_readRanges) h)) h)) h

theorem keeps_sendHanded {e : Nat} (h : Keeps d₀ d) : Keeps d₀ (sendHanded e d) := by
  unfold sendHanded
  dsimp only
  split
  · exact h
  · split
    · exact h
    · exact .ite h (.ite (by
      split
      · exact h
      · exact .ite h (keeps_sendReturn h)) (.foldl (fun _ _ => keeps_sendPart) h))

theorem keeps_fireReturn {e : Nat} {t : TrigEntry} {g : Group} (h : Keeps d₀ d) : Keeps d₀ (fireReturn e t g d) := by
  unfold fireReturn
  dsimp only
  split
  · exact keeps_stepFault h
  · exact .ite (keeps_stepFault h) (keeps_sendReturn h)

theorem keeps_routesNow {q : TrigEntry} (h : Keeps d₀ d) : Keeps d₀ (routesNow q d).2 :=
  keeps_workRead (keeps_workRead h)

theorem keeps_returnResults {t q : TrigEntry} (h : Keeps d₀ d) : Keeps d₀ (returnResults t q d) :=
  .ite (keeps_routesNow h) (.foldl (fun _ _ => keeps_workWrite) (keeps_routesNow h))

theorem keeps_countsCame {e : Nat} {t : TrigEntry} {members s : Nat} {bs : List Byte} (h : Keeps d₀ d) :
    Keeps d₀ (countsCame e t members s bs d) :=
  .foldl (fun _ _ => keeps_sendHanded) (keeps_placeRows (keeps_setRun h))

theorem keeps_sendCounts {e : Nat} {t : TrigEntry} {g : Group} {j : Nat} {bs : List Byte} (h : Keeps d₀ d) :
    Keeps d₀ (sendCounts e t g j bs d) :=
  .ite (keeps_countsCame (keeps_sendOnce (fun _ h => h) h)) (keeps_sendOnce (fun _ h => h) h)

theorem keeps_sendRows {e : Nat} {t : TrigEntry} {g : Group} {j : Nat} {bs : List Byte} (h : Keeps d₀ d) :
    Keeps d₀ (sendRows e t g j bs d) :=
  .foldl (fun _ _ h => (keeps_sendOnce (fun _ h => h) h)) h

theorem keeps_fireDispatch {e : Nat} {t : TrigEntry} {g : Group} (h : Keeps d₀ d) : Keeps d₀ (fireDispatch e t g d) := by
  unfold fireDispatch
  dsimp only
  split
  · exact keeps_readRoutes h
  · exact .ite (keeps_stepFault (keeps_readRoutes h)) (.foldl (fun _ _ h => (keeps_sendRows (keeps_pairRows
      (keeps_sendCounts h)))) (.ite_of_right (fun k => (keeps_dropPairs k)) (keeps_readRoutes h)))

theorem keeps_dispatchResults {e : Nat} {t : TrigEntry} {members : Nat} (h : Keeps d₀ d) :
    Keeps d₀ (dispatchResults e t members d) :=
  .ite (keeps_workWrite h) (.foldl (fun _ _ h => (.ite h (keeps_workWrite h))) (keeps_workWrite h))

theorem keeps_openSwitch {e : Nat} {t : TrigEntry} {g : Group} (h : Keeps d₀ d) : Keeps d₀ (openSwitch e t g d) :=
  keeps_setRun (.foldl (fun _ _ => keeps_sendOn) h)

theorem keeps_startSwitch {e : Nat} {t : TrigEntry} {g : Group} (h : Keeps d₀ d) : Keeps d₀ (startSwitch e t g d) :=
  .foldl (fun _ _ h => (keeps_sendOn (keeps_setRun (keeps_sourceBytes h)))) h

theorem keeps_selfCopy {e : Nat} {t : TrigEntry} {g : Group} (h : Keeps d₀ d) : Keeps d₀ (selfCopy e t g d) := by
  unfold selfCopy
  dsimp only
  split
  · exact .ite h (keeps_workWrite (keeps_sourceBytes h))
  · exact .ite (.ite h (keeps_workWrite (keeps_sourceBytes h))) h
  · exact .ite h (keeps_workWrite (keeps_sourceBytes h))
  · exact h

theorem keeps_startDirect {e : Nat} {t : TrigEntry} {g : Group} (h : Keeps d₀ d) : Keeps d₀ (startDirect e t g d) :=
  .ite (keeps_fireDispatch (keeps_setRun h)) (.ite (keeps_fireReturn (keeps_setRun h)) (keeps_selfCopy (.foldl (fun _ _ =>
    keeps_sendPart) (keeps_setRun h))))

theorem keeps_decide8 {e : Nat} {t : TrigEntry} {g : Group} (h : Keeps d₀ d) : Keeps d₀ (decide8 e t g d) :=
  .ite h (.ite (.ite (keeps_failCollective (keeps_setRun h)) (keeps_startSwitch (keeps_setRun h))) (keeps_startDirect (.foldl
    (fun _ _ => keeps_sendOn) (.update h))))

theorem keeps_addAnswer {e plane : Nat} {grant : Bool} (h : Keeps d₀ d) : Keeps d₀ (addAnswer e plane grant d) := by
  unfold addAnswer
  dsimp only
  split
  · exact h
  · split
    · exact h
    · exact .ite h (keeps_decide8 (keeps_setRun h))

theorem keeps_fireEntry {e : Nat} {t : TrigEntry} (h : Keeps d₀ d) : Keeps d₀ (fireEntry e t d) := by
  unfold fireEntry
  dsimp only
  split
  · exact keeps_stepFault (keeps_setRun h)
  · exact .ite (keeps_stepFault (keeps_setRun h)) (.ite (keeps_decide8 (keeps_openSwitch (keeps_setRun h))) (keeps_startDirect
      (keeps_setRun h)))

theorem keeps_raiseCounter {c n : Nat} (h : Keeps d₀ d) : Keeps d₀ (raiseCounter c n d) :=
  .update h

theorem keeps_completeEntry {e : Nat} {t : TrigEntry} (h : Keeps d₀ d) : Keeps d₀ (completeEntry e t d) := by
  have returned : Keeps d₀ (((trigOf d t.peer).map fun q => returnResults t q d).getD d) := .getD (.map fun _ =>
    keeps_returnResults h) h
  unfold completeEntry
  split
  · exact h
  · refine .ite (keeps_failCollective h) (.ite (keeps_raiseCounter (keeps_setRun ?_)) (keeps_setRun ?_))
    all_goals exact .ite (keeps_dispatchResults h) (.ite returned h)

theorem keeps_settleLoop {fuel : Nat} (h : Keeps d₀ d) : Keeps d₀ (settleLoop fuel d) := by
  induction fuel generalizing d with
  | zero => exact h
  | succ n ih =>
    unfold settleLoop
    refine .ite h ?_
    split
    · exact ih (keeps_completeEntry h)
    · split
      · exact ih (keeps_fireEntry h)
      · exact .ite (keeps_stepFault h) h

theorem keeps_settle (h : Keeps d₀ d) : Keeps d₀ (settle d) :=
  keeps_serve (keeps_settleLoop h)

theorem keeps_handTile {named : List Nat} {bs : List (Nat × Nat × Byte)} (h : Keeps d₀ d) : Keeps d₀ (handTile named bs d) :=
  .foldl (fun _ _ h => (keeps_sendHanded (by
  split
  · exact keeps_raiseCounter (keeps_setRun h)
  · exact keeps_setRun h))) h

theorem keeps_putList {l : PageList} (h : Keeps d₀ d) : Keeps d₀ (putList l d) :=
  .update h

theorem keeps_freshList {k : ListKey} {dh : Nat} (h : Keeps d₀ d) : Keeps d₀ (freshList k dh d).2 :=
  keeps_takeFree h

theorem keeps_needList {k : ListKey} {dh : Nat} (h : Keeps d₀ d) : Keeps d₀ (needList k dh d).2 := by
  unfold needList
  split
  · dsimp only
    split
    · exact keeps_freshList (k := k) (dh := dh) h
    · exact h
  · exact keeps_freshList h

theorem keeps_unhouseLists {slot : Nat} (h : Keeps d₀ d) : Keeps d₀ (unhouseLists slot d) :=
  .update h

theorem keeps_holdSlots (h : Keeps d₀ d) : Keeps d₀ (holdSlots d) :=
  .update h

theorem keeps_freeSlotIn {ok : Nat → Bool} {tier size : Nat} (h : Keeps d₀ d) : Keeps d₀ (freeSlotIn ok d tier size).2 := by
  unfold freeSlotIn
  dsimp only
  split
  · exact h
  · split
    · exact keeps_takeFree h
    · exact keeps_takeFree h

theorem keeps_freeSlot {tier size : Nat} (h : Keeps d₀ d) : Keeps d₀ (freeSlot d tier size).2 :=
  keeps_freeSlotIn h

theorem keeps_freeSlotAny {pool : Nat → Bool} {size : Nat} (h : Keeps d₀ d) : Keeps d₀ (freeSlotAny pool d size).2 := by
  unfold freeSlotAny
  dsimp only
  split
  · exact keeps_freeSlotIn (keeps_takeFree h)
  · exact keeps_freeSlotIn (keeps_freeSlotIn (keeps_takeFree h))

theorem keeps_evictNode {i : Nat} (h : Keeps d₀ d) : Keeps d₀ (evictNode i d) := by
  unfold evictNode
  dsimp only
  split
  · exact h
  · exact .update h

theorem keeps_dropHolder {i : Nat} (h : Keeps d₀ d) : Keeps d₀ (dropHolder i d) := by
  unfold dropHolder
  dsimp only
  split
  · exact h
  · exact .ite (keeps_evictNode (.update h)) (.update h)

theorem keeps_withHolders {slot : Nat} {f : Device → Device} (kf : ∀ (a : Device), Keeps d₀ a → Keeps d₀ (f a))
    (h : Keeps d₀ d) : Keeps d₀ (withHolders slot f d) :=
  .foldl (fun _ _ => keeps_dropHolder) (kf _ h)

theorem keeps_updateCol {f : Collect → Collect} (h : Keeps d₀ d) : Keeps d₀ (updateCol f d) :=
  .update h

theorem keeps_logItem {kind aux handle a b : Nat} (h : Keeps d₀ d) : Keeps d₀ (logItem kind aux handle a b d) :=
  keeps_updateCol h

theorem keeps_logEdit {handle : Nat} {k : ListKey} (h : Keeps d₀ d) : Keeps d₀ (logEdit handle k d) := by
  unfold logEdit
  exact keeps_updateCol (keeps_logItem h)

theorem keeps_editAlloc {l : PageList} {e : PageEntry} (h : Keeps d₀ d) : ∀ x ∈ editAlloc l e d, Keeps d₀ x :=
  .iteSome (.some (keeps_putList h)) .none

theorem keeps_editTruncate {handle a : Nat} {k : ListKey} (h : Keeps d₀ d) : ∀ x ∈ editTruncate handle a k d, Keeps d₀ x :=
  .iteSome (.some (keeps_withHolders (fun _ h => keeps_logEdit (keeps_putList h)) h)) .none

theorem keeps_editDrop {handle : Nat} {k : ListKey} (h : Keeps d₀ d) : Keeps d₀ (editDrop handle k d) :=
  keeps_withHolders (fun _ h => (keeps_logEdit (keeps_putList h))) h

theorem keeps_editShare {handle : Nat} {k : ListKey} {e : PageEntry} (h : Keeps d₀ d) : Keeps d₀ (editShare handle k e d) :=
  .ite_of_right (fun k => (keeps_logEdit (keeps_putList k))) (keeps_needList h)

theorem keeps_applyFwEdit {e : FwEdit} (h : Keeps d₀ d) : Keeps d₀ (applyFwEdit e d) :=
  .ite h (keeps_updateCol (.update (keeps_putList h)))

theorem keeps_hostEdit {slot : Nat} {e : Edit} (h : Keeps d₀ d) : ∀ x ∈ hostEdit slot e d, Keeps d₀ x :=
  .iteSome .none (.iteSome (keeps_editTruncate h) (.iteSome (.some (keeps_editDrop h)) .none))

theorem keeps_hostEdits {slot : Nat} {es : List Edit} (h : Keeps d₀ d) : ∀ x ∈ hostEdits slot es d, Keeps d₀ x := by
  induction es generalizing d with
  | nil => exact .some h
  | cons e t ih => exact .bind (keeps_hostEdit h) fun _ => ih

theorem keeps_allocList {k : ListKey} {dh : Nat} {fp4 : Bool} {pool : Nat → Bool} {need fuel : Nat} (h : Keeps d₀ d) :
    ∀ x ∈ allocList k dh fp4 pool need fuel d, Keeps d₀ x := by
  induction fuel generalizing d with
  | zero => exact .some h
  | succ n ih =>
    unfold allocList
    refine .iteSome (.some h) ?_
    dsimp only
    split
    · exact .none
    · exact .bind (keeps_editAlloc (keeps_freeSlotAny (keeps_needList h))) fun _ => ih

theorem keeps_setShips {ss : List Shipping} (h : Keeps d₀ d) : Keeps d₀ (setShips ss d) :=
  .update h

theorem keeps_updateShip {handle : Nat} {f : Shipping → Shipping} (h : Keeps d₀ d) : Keeps d₀ (updateShip handle f d) :=
  keeps_setShips h

theorem keeps_closeShip {s : Shipping} {e : ExportEnd} (h : Keeps d₀ d) : Keeps d₀ (closeShip s e d) :=
  .ite h (keeps_complete (.update (keeps_updateShip h)))

theorem keeps_checkShip {handle : Nat} (h : Keeps d₀ d) : Keeps d₀ (checkShip handle d) := by
  unfold checkShip
  split
  · exact h
  · exact .ite h (by
    split
    · exact .ite h (keeps_closeShip h)
    · exact .ite (keeps_closeShip h) h)

theorem keeps_failShip {handle : Nat} {e : ExportEnd} (h : Keeps d₀ d) : Keeps d₀ (failShip handle e d) := by
  unfold failShip
  dsimp only
  split
  · exact h
  · exact .ite h (keeps_checkShip (keeps_dropChunks (keeps_updateShip h)))

theorem keeps_dropPage {handle seq : Nat} {deliveredOne : Bool} (h : Keeps d₀ d) :
    Keeps d₀ (dropPage handle seq deliveredOne d) :=
  keeps_checkShip (.update (keeps_updateShip h))

theorem keeps_readSlot {e : PageEntry} {n : Nat} (h : Keeps d₀ d) : Keeps d₀ (readSlot e n d).2.2 := by
  unfold readSlot
  split
  · exact h
  · exact keeps_unitRead h

theorem keeps_readPlaces {e : PageEntry} {dh count : Nat} (h : Keeps d₀ d) : Keeps d₀ (readPlaces e dh count d).2.2 :=
  .foldl_snd_snd (fun _ _ => keeps_readSlot) h

theorem keeps_copyEvents {es : List MemEvent} (h : Keeps d₀ d) : Keeps d₀ (copyEvents es d) :=
  keeps_eachEvent (fun _ _ _ h => (keeps_noteLost (keeps_noteUncorrectable h))) h

theorem keeps_devExportPageStart (h : Keeps d₀ d) : Keeps d₀ (devExportPageStart d) :=
  .ite h (by
  split
  · exact h
  · split
    · exact h
    · split
      · exact h
      · exact .ite h (.ite (keeps_failShip (keeps_copyEvents (keeps_readPlaces h))) (keeps_serve (.foldl (fun _ _ =>
          keeps_sendChunk) (keeps_updateShip (.update (keeps_copyEvents (keeps_readPlaces h))))))))

theorem keeps_devExportCredit {pin : ParticleIn} (h : Keeps d₀ d) : Keeps d₀ (devExportCredit pin d) :=
  .ite h (keeps_receiveParticle (fun _ _ h => (by
  split
  · exact .update h
  · exact h)) h)

theorem keeps_devCreditWaitTimeout {handle : Nat} (h : Keeps d₀ d) : Keeps d₀ (devCreditWaitTimeout handle d) := by
  unfold devCreditWaitTimeout
  split
  · exact h
  · exact .ite (keeps_failShip h) h

theorem keeps_exportAcked {list gen seq : Nat} (h : Keeps d₀ d) : Keeps d₀ (exportAcked list gen seq d) := by
  unfold exportAcked
  dsimp only
  split
  · exact h
  · exact .ite (keeps_dropPage h) (keeps_updateShip h)

theorem keeps_exportChunkFailed {list gen seq : Nat} (h : Keeps d₀ d) : Keeps d₀ (exportChunkFailed list gen seq d) := by
  unfold exportChunkFailed
  dsimp only
  split
  · exact keeps_dropChunks h
  · exact keeps_dropPage (keeps_failShip (keeps_dropChunks h))

theorem keeps_installList {n : Nat} {l : SlotList} (h : Keeps d₀ d) : Keeps d₀ (installList n l d) :=
  .ite (keeps_setShips (.update h)) (.foldl (fun _ _ => keeps_failShip) (.update h))

theorem keeps_setReq {q : Request} (h : Keeps d₀ d) : Keeps d₀ (setReq q d) :=
  .update h

theorem keeps_houseRequest {q : Request} (h : Keeps d₀ d) : ∀ x ∈ houseRequest q d, Keeps d₀ x.2 := by
  intro x found
  simp only [houseRequest, Option.bind_eq_bind, Option.mem_def, Option.bind_eq_some_iff, Option.some.injEq] at found
  obtain ⟨_, _, _, _, _, _, rfl⟩ := found
  exact keeps_takeFree (keeps_takeFree (keeps_takeFree h))

theorem keeps_houseLists {q : Request} (h : Keeps d₀ d) : ∀ x ∈ houseLists q d, Keeps d₀ x :=
  .iteSome (.some (.foldl (fun _ _ h => keeps_putList (keeps_needList h)) (keeps_unhouseLists h))) .none

theorem keeps_admitRequest {q : Request} (h : Keeps d₀ d) : ∀ x ∈ admitRequest q d, Keeps d₀ x := by
  intro x found
  simp only [admitRequest, Option.bind_eq_bind, Option.mem_def, Option.bind_eq_some_iff] at found
  obtain ⟨_, housed, listed⟩ := found
  exact keeps_houseLists (keeps_setReq (keeps_houseRequest h _ housed)) x listed

theorem keeps_queueShares {ss : List Share} (h : Keeps d₀ d) : Keeps d₀ (queueShares ss d) :=
  keeps_updateCol h

theorem keeps_applyShare {s : Share} (h : Keeps d₀ d) : Keeps d₀ (applyShare s d) :=
  .ite_of_right (fun k => (keeps_updateCol k)) (keeps_editShare h)

theorem keeps_lookupFrom {q : Request} {limit fuel j : Nat} (h : Keeps d₀ d) : Keeps d₀ (lookupFrom q limit fuel j d) := by
  induction fuel generalizing d j with
  | zero => exact h
  | succ n ih =>
    unfold lookupFrom
    refine .ite h ?_
    split
    · exact h
    · exact .ite h (ih (.update (keeps_queueShares h)))

theorem keeps_lookupPrefix {q : Request} (h : Keeps d₀ d) : Keeps d₀ (lookupPrefix q d) :=
  .ite (keeps_queueShares h) (.ite h (keeps_lookupFrom h))

theorem keeps_dropWaiting {handle : Nat} (h : Keeps d₀ d) : Keeps d₀ (dropWaiting handle d) :=
  .foldl (fun _ _ => keeps_dropHolder) (keeps_updateCol h)

theorem keeps_settleAllShares (h : Keeps d₀ d) : Keeps d₀ (settleAllShares d) :=
  .foldl (fun _ _ h => (by
  split
  · exact keeps_setReq h
  · exact h)) (.foldl (fun _ _ => keeps_applyShare) (keeps_updateCol h))

theorem keeps_placeRequest {q : Request} (h : Keeps d₀ d) : Keeps d₀ (placeRequest q d) :=
  keeps_lookupPrefix (keeps_queueShares (.getD (keeps_admitRequest h) (keeps_setReq h)))

theorem keeps_startShipping {q : Request} (h : Keeps d₀ d) : Keeps d₀ (startShipping q d) :=
  .ite h (keeps_setShips h)

theorem keeps_logNamed {handle : Nat} {f : Fetched} (h : Keeps d₀ d) : Keeps d₀ (logNamed handle f d) :=
  keeps_logItem h

theorem keeps_logDesc {f : Fetched} (h : Keeps d₀ d) : Keeps d₀ (logDesc f d) :=
  keeps_logNamed h

theorem keeps_finishDesc {f : Fetched} {code handle : Nat} (h : Keeps d₀ d) : Keeps d₀ (finishDesc f code handle d) :=
  keeps_completeDesc h

theorem keeps_trySubmit {f : Fetched} (h : Keeps d₀ d) : ∀ x ∈ trySubmit f d, Keeps d₀ x := by
  unfold trySubmit
  split
  · exact .some (keeps_finishDesc (keeps_logDesc h))
  · split
    · exact .none
    · split
      · exact .none
      · exact .iteSome .none
          (.some (keeps_finishDesc (keeps_updateCol (keeps_startShipping (keeps_placeRequest (keeps_logNamed h))))))

theorem keeps_tryHeld (h : Keeps d₀ d) : Keeps d₀ (tryHeld d) :=
  .foldl (fun _ _ h => .ite (.update h) (.getD (keeps_trySubmit h) (.update h))) (.update h)

theorem keeps_expireHeld (h : Keeps d₀ d) : Keeps d₀ (expireHeld d) :=
  .foldl (fun _ _ h => (keeps_finishDesc (keeps_logDesc h))) (.update h)

theorem keeps_holdSubmit {f : Fetched} {waited : Nat} (h : Keeps d₀ d) : Keeps d₀ (holdSubmit f waited d) :=
  .ite (keeps_finishDesc (keeps_logDesc h)) (.update h)

theorem keeps_applySubmit {f : Fetched} (h : Keeps d₀ d) : Keeps d₀ (applySubmit f d) :=
  .getD (keeps_trySubmit (keeps_tryHeld h)) (keeps_holdSubmit (keeps_tryHeld h))

theorem keeps_replaySubmit {handle : Nat} {f : Fetched} (h : Keeps d₀ d) : Keeps d₀ (replaySubmit handle f d) :=
  .ite (keeps_finishDesc (keeps_logDesc h)) (.getD (keeps_trySubmit h) (.update h))

theorem keeps_dropLists {q : Request} (h : Keeps d₀ d) : Keeps d₀ (dropLists q d) :=
  .foldl (fun _ _ => keeps_editDrop) h

theorem keeps_freeRequest {q : Request} (h : Keeps d₀ d) : Keeps d₀ (freeRequest q d) :=
  .foldl (fun _ _ => keeps_finishDesc) (keeps_updateCol (.update (keeps_dropLists (keeps_dropWaiting h))))

theorem keeps_cancelRequest {q : Request} (h : Keeps d₀ d) : Keeps d₀ (cancelRequest q d) :=
  keeps_failShip (keeps_freeRequest h)

theorem keeps_applyCancel {f : Fetched} (h : Keeps d₀ d) : Keeps d₀ (applyCancel f d) := by
  unfold applyCancel
  dsimp only
  split
  · exact keeps_finishDesc (keeps_logDesc h)
  · exact keeps_finishDesc (keeps_cancelRequest (keeps_logDesc h))

theorem keeps_pauseRequest {q : Request} {fw : Bool} (h : Keeps d₀ d) : Keeps d₀ (pauseRequest q fw d) :=
  keeps_setReq h

theorem keeps_applyPause {f : Fetched} (h : Keeps d₀ d) : Keeps d₀ (applyPause f d) := by
  unfold applyPause
  dsimp only
  split
  · exact keeps_finishDesc (keeps_logDesc h)
  · exact .ite (keeps_finishDesc (keeps_logDesc h)) (keeps_finishDesc (keeps_pauseRequest (keeps_logDesc h)))

theorem keeps_resumeRequest {q : Request} (h : Keeps d₀ d) : Keeps d₀ (resumeRequest q d) :=
  keeps_setReq (keeps_logItem h)

theorem keeps_restorePrefix {q : Request} {v : Variant} {place : Nat} {k : ListKey} (h : Keeps d₀ d) :
    Keeps d₀ (restorePrefix q v place k d) :=
  .ite h (.foldl (fun _ _ => keeps_applyShare) h)

theorem keeps_recompute {q : Request} (h : Keeps d₀ d) : Keeps d₀ (recompute q d) :=
  keeps_failShip (keeps_setReq (by
  split
  · exact h
  · exact .foldl (fun _ _ => keeps_restorePrefix) h))

theorem keeps_applyPriority {f : Fetched} (h : Keeps d₀ d) : Keeps d₀ (applyPriority f d) := by
  have bad : Keeps d₀ (finishDesc f codeBad (handleOf f) (logDesc f d)) := keeps_finishDesc (keeps_logDesc h)
  unfold applyPriority
  dsimp only
  split
  · refine .ite bad ?_
    split
    · exact bad
    next edited =>
      have e := keeps_hostEdits (keeps_setReq (keeps_logDesc h)) _ edited
      refine keeps_finishDesc (.ite e ?_)
      split
      · exact keeps_recompute e
      · exact e
  · exact bad

theorem keeps_allocLists {pool : Nat → Bool} {sets : List (Bool × PageSet)} {ks : List ListKey} {n : Nat} (h : Keeps d₀ d) :
    ∀ x ∈ allocLists pool sets ks n d, Keeps d₀ x :=
  .foldlSome (fun _ _ h => keeps_allocList h) (.some h)

theorem keeps_allocFor {q : Request} {n m : Nat} (h : Keeps d₀ d) : ∀ x ∈ allocFor q n m d, Keeps d₀ x :=
  .iteSome (.some h) (.iteSome .none (.foldlSome (fun _ _ h => keeps_allocLists h) (.some h)))

theorem keeps_pagesFor {q : Request} {n m : Nat} {x : Draft} (h : Keeps d₀ x.dev) : ∀ e ∈ pagesFor q n m x, Keeps d₀ e :=
  .iteSome (keeps_allocFor h) (.iteSome (.some h) .none)

theorem keeps_largestChunk {q : Request} {want : Nat} {mk : Nat → Placement} {n m : Nat → Nat} {x : Draft}
    (h : Keeps d₀ x.dev) :
    ∀ y ∈ largestChunk q want mk n m x, Keeps d₀ y.dev := by
  intro y found
  simp only [largestChunk, Option.mem_def] at found
  split at found
  · cases found
  · obtain ⟨c, -, placed⟩ := List.exists_of_findSome?_eq_some found
    split at placed
    · cases placed
    · split at placed
      · obtain ⟨e, paged, rfl⟩ := Option.map_eq_some_iff.1 placed
        exact keeps_pagesFor h e paged
      · cases placed

theorem keeps_placeDraftChunk {limit : Option Nat} {q : Request} {x : Draft} (h : Keeps d₀ x.dev) :
    Keeps d₀ (placeDraftChunk limit q x).dev := by
  simp only [placeDraftChunk]
  split
  · exact h
  · exact Keeps.getD_view Draft.dev (keeps_largestChunk h) h

theorem keeps_placeDecode {q : Request} {x : Draft} (h : Keeps d₀ x.dev) : ∀ y ∈ placeDecode q x, Keeps d₀ y.dev := by
  intro y found
  simp only [placeDecode, Option.mem_def] at found
  split at found
  · obtain ⟨e, paged, rfl⟩ := Option.map_eq_some_iff.1 found
    exact keeps_pagesFor h e paged
  · cases found

theorem keeps_placeOne {limit : Option Nat} {q : Request} {x : Draft} (h : Keeps d₀ x.dev) :
    ∀ y ∈ placeOne limit q x, Keeps d₀ y.dev := by
  unfold placeOne
  split
  · exact keeps_placeDecode h
  · exact keeps_largestChunk h

theorem keeps_composeList {limit : Option Nat} {qs : List Request} {x : Draft} (h : Keeps d₀ x.dev) :
    Keeps d₀ (composeList limit qs x).dev := by
  unfold composeList
  induction qs generalizing x with
  | nil => exact h
  | cons q t ih => exact ih (keeps_placeDraftChunk (Keeps.getD_view Draft.dev (keeps_placeOne h) h))

theorem keeps_composeNow {gives : Bool} (h : Keeps d₀ d) : Keeps d₀ (composeNow gives d).dev := keeps_composeList h

theorem keeps_adoptDraft {x : Draft} (h : Keeps d₀ x.dev) : Keeps d₀ (adoptDraft x) := by
  unfold adoptDraft
  exact keeps_updateCol (.update h)

theorem keeps_replayDraft {gives : Bool} {items : List LogItem} (h : Keeps d₀ d) :
    Keeps d₀ (replayDraft gives items d).dev := by
  refine Keeps.foldl_view Draft.dev (fun x i hx => ?_) h
  split
  · exact keeps_placeDraftChunk (.getD (keeps_pagesFor hx) hx)
  · exact hx

theorem keeps_setAside {qs : List Request} (h : Keeps d₀ d) : Keeps d₀ (setAside qs d) :=
  .update (.foldl (fun _ _ => keeps_setReq) (.update h))

theorem keeps_noteDecision {kind handle : Nat} (h : Keeps d₀ d) : Keeps d₀ (noteDecision kind handle d) :=
  keeps_updateCol h

theorem keeps_firmwarePause {x : Request} (h : Keeps d₀ d) : Keeps d₀ (firmwarePause x d) :=
  keeps_completeReq (keeps_pauseRequest (keeps_noteDecision (keeps_logItem h)))

theorem keeps_pauseUntil {q : Request} {qs : List Request} (h : Keeps d₀ d) : Keeps d₀ (pauseUntil q qs d) := by
  induction qs generalizing d with
  | nil => exact h
  | cons x t ih => exact .ite h (ih (keeps_firmwarePause h))

theorem keeps_pauseLower {q : Request} (h : Keeps d₀ d) : Keeps d₀ (pauseLower q d) :=
  .ite h (keeps_pauseUntil h)

theorem keeps_latePauses {marked : List Nat} (h : Keeps d₀ d) : Keeps d₀ (latePauses marked d) :=
  .foldl (fun _ _ h => (by
  split
  · exact .ite (keeps_pauseLower h) h
  · exact h)) h

theorem keeps_shortagePauses (h : Keeps d₀ d) : Keeps d₀ (shortagePauses d) :=
  .foldl (fun _ _ h => (by
  split
  · exact .ite (keeps_pauseLower h) h
  · exact h)) h

theorem keeps_firmwareResumes (h : Keeps d₀ d) : Keeps d₀ (firmwareResumes d) :=
  .foldl (fun _ _ h => (by
  split
  · exact h
  · exact .ite (keeps_noteDecision (keeps_resumeRequest h)) h)) h

theorem keeps_resumeHeld {q : Request} (h : Keeps d₀ d) : Keeps d₀ (resumeHeld q d) :=
  .foldl (fun _ _ => keeps_finishDesc) (keeps_resumeRequest h)

theorem keeps_applyResume {f : Fetched} (h : Keeps d₀ d) : Keeps d₀ (applyResume f d) := by
  unfold applyResume
  dsimp only
  split
  · exact keeps_finishDesc (keeps_logDesc h)
  · split
    · exact .ite (keeps_finishDesc (keeps_resumeRequest (keeps_logDesc h))) (keeps_setReq (keeps_logDesc h))
    · exact keeps_setReq (keeps_logDesc h)
    · exact keeps_finishDesc (keeps_logDesc h)

theorem keeps_replayDecisions (h : Keeps d₀ d) : Keeps d₀ (replayDecisions d) :=
  .foldl (fun _ _ h => (by
  split
  · exact h
  · exact .ite (keeps_firmwarePause h) (.ite (keeps_noteDecision (keeps_resumeHeld h)) h))) h

theorem keeps_settlePause {v : Nat} (h : Keeps d₀ d) : Keeps d₀ (settlePause v d) := by
  unfold settlePause
  dsimp only
  split
  · exact h
  · exact .ite_of_left (keeps_updateCol (keeps_setReq h)) (fun k => (keeps_resumeHeld k))

theorem keeps_nodeIndex (h : Keeps d₀ d) : ∀ x ∈ nodeIndex d, Keeps d₀ x.2 := by
  intro x found
  simp only [nodeIndex, Option.mem_def] at found
  split at found
  · obtain ⟨_, _, rfl⟩ := Option.map_eq_some_iff.1 found
    exact h
  · split at found
    · cases found
      exact keeps_evictNode h
    · cases found

theorem keeps_insertPage {q : Request} {j : Nat} (h : Keeps d₀ d) : Keeps d₀ (insertPage q j d) := by
  unfold insertPage
  dsimp only
  split
  · exact h
  · refine .ite h ?_
    split
    · exact h
    next placed =>
      have e := keeps_nodeIndex h _ placed
      exact .ite e (.update e)

theorem keeps_insertPages {gained : List (Nat × Nat × Nat)} (h : Keeps d₀ d) : Keeps d₀ (insertPages gained d) :=
  .ite h (.foldl (fun _ _ h => (by
  split
  · exact h
  · exact .foldl (fun _ _ => keeps_insertPage) h)) h)

theorem keeps_fetchCopy {f : Fetched} (h : Keeps d₀ d) : Keeps d₀ (fetchCopy f d) := by
  unfold fetchCopy
  refine .ite ?_ h
  split
  · exact keeps_copyEvents (keeps_noteRaced h).write
  · exact h

theorem keeps_unloadModel (h : Keeps d₀ d) : Keeps d₀ (unloadModel d) :=
  .update h

theorem keeps_applyModelLoad {f : Fetched} (h : Keeps d₀ d) : Keeps d₀ (applyModelLoad f d) := by
  unfold applyModelLoad
  dsimp only
  split
  · exact keeps_finishDesc (keeps_logDesc h)
  · exact .ite (keeps_finishDesc (keeps_logDesc h)) (.ite (keeps_finishDesc (keeps_logDesc h)) (.ite (keeps_finishDesc
      (.update (.ite_of_right (fun k => (.update (keeps_unloadModel k))) (keeps_logDesc h)))) (.ite (keeps_finishDesc (.update
      (.update (.update (.ite_of_right (fun k => (.update (keeps_unloadModel k))) (keeps_logDesc h)))))) (keeps_finishDesc
      (.update (.update (.ite_of_right (fun k => (.update (keeps_unloadModel k))) (keeps_logDesc h))))))))

theorem keeps_installSentence {s : Sentence} {model bs : List Byte} (h : Keeps d₀ d) :
    Keeps d₀ (installSentence s model bs d) :=
  .update h

theorem keeps_applySentenceLoad {f : Fetched} (h : Keeps d₀ d) : Keeps d₀ (applySentenceLoad f d) := by
  unfold applySentenceLoad
  dsimp only
  split
  · exact .ite_of_left (keeps_finishDesc (keeps_logDesc h)) (fun k => (by
    split
    · exact .ite (keeps_finishDesc (keeps_installSentence (keeps_logDesc h))) k
    · exact keeps_finishDesc (keeps_logDesc h)))
  · exact keeps_finishDesc (keeps_logDesc h)

theorem keeps_adminRead {a n : Nat} (h : Keeps d₀ d) : Keeps d₀ (adminRead a n d).2 := by
  unfold adminRead
  dsimp only
  split
  · exact h
  · exact keeps_eachEvent (fun _ _ _ => keeps_noteUncorrectable) (keeps_unitRead h)

theorem keeps_unindexVariant {v : Nat} (h : Keeps d₀ d) : Keeps d₀ (unindexVariant v d) :=
  .foldl (fun _ _ h => (by
  split
  · exact h
  · exact .ite (keeps_evictNode (.update h)) (.update h))) h

theorem keeps_installVariant {v lv : Nat} {es : List PageEntry} (h : Keeps d₀ d) : Keeps d₀ (installVariant v lv es d) := by
  unfold installVariant
  exact keeps_updateCol (.update h)

theorem keeps_onOther {f : Device → Device} (kf : ∀ (a : Device), Keeps d₀ a → Keeps d₀ (f a)) (h : Keeps d₀ d) :
    Keeps d₀ (onOther f d) :=
  keeps_swapRoles (kf _ (keeps_swapRoles h))

theorem keeps_inSplit {f : Device → Device} (kf : ∀ (a : Device), Keeps d₀ a → Keeps d₀ (f a)) (h : Keeps d₀ d) :
    Keeps d₀ (inSplit f d) :=
  .ite (keeps_onOther (fun _ h => (kf _ h)) h) h

theorem keeps_applyVariantLoad {f : Fetched} (h : Keeps d₀ d) : Keeps d₀ (applyVariantLoad f d) := by
  unfold applyVariantLoad
  dsimp only
  split
  · split
    · exact .ite (keeps_finishDesc (keeps_unindexVariant (keeps_inSplit (fun _ => keeps_installVariant) (keeps_installVariant
        (keeps_adminRead (keeps_logDesc h)))))) (keeps_finishDesc (keeps_adminRead (keeps_logDesc h)))
    · exact keeps_finishDesc (keeps_adminRead (keeps_logDesc h))
  · exact keeps_finishDesc (keeps_adminRead (keeps_logDesc h))

theorem keeps_applyExportSlots {f : Fetched} (h : Keeps d₀ d) : Keeps d₀ (applyExportSlots f d) :=
  .ite (keeps_finishDesc (keeps_installList (keeps_logDesc h))) (keeps_finishDesc (keeps_logDesc h))

theorem keeps_setGroup {n : Nat} {g : Group} (h : Keeps d₀ d) : Keeps d₀ (setGroup n g d) :=
  .ite (.update (.update h)) (.update h)

theorem keeps_applyGroupDefine {f : Fetched} (h : Keeps d₀ d) : Keeps d₀ (applyGroupDefine f d) :=
  .ite (keeps_finishDesc (keeps_logDesc h)) (by
  split
  · exact keeps_finishDesc (keeps_adminRead (keeps_logDesc h))
  · exact .ite (keeps_finishDesc (keeps_inSplit (fun _ => keeps_setGroup) (keeps_setGroup (keeps_adminRead
      (keeps_logDesc h))))) (keeps_finishDesc (keeps_adminRead (keeps_logDesc h))))

theorem keeps_onShadow {f : Device → Device} (kf : ∀ (a : Device), Keeps d₀ a → Keeps d₀ (f a)) (h : Keeps d₀ d) :
    Keeps d₀ (onShadow f d) := by
  unfold onShadow
  dsimp only
  split
  · exact h
  · exact .update (kf _ (.update h))

theorem keeps_reformGroup {n gen : Nat} {pairs : List (Nat × Nat)} (h : Keeps d₀ d) : Keeps d₀ (reformGroup n gen pairs d) := by
  unfold reformGroup
  split
  · exact .ite (keeps_setGroup h) h
  · exact h

theorem keeps_applyGroupReform {f : Fetched} (h : Keeps d₀ d) : Keeps d₀ (applyGroupReform f d) :=
  .ite (keeps_finishDesc (keeps_logDesc h)) (by
  split
  · exact .ite (keeps_finishDesc (.ite (keeps_onShadow (fun _ => keeps_reformGroup) (keeps_inSplit (fun _ =>
      keeps_reformGroup) (keeps_reformGroup (keeps_adminRead (keeps_logDesc h))))) (keeps_inSplit (fun _ => keeps_reformGroup)
      (keeps_reformGroup (keeps_adminRead (keeps_logDesc h)))))) (keeps_finishDesc (keeps_adminRead (keeps_logDesc h)))
  · exact keeps_finishDesc (keeps_adminRead (keeps_logDesc h)))

theorem keeps_stopLog {code result : Nat} (h : Keeps d₀ d) : Keeps d₀ (stopLog code result d) :=
  .ite h (keeps_complete (.update h))

theorem keeps_applyStepLog {f : Fetched} (h : Keeps d₀ d) : Keeps d₀ (applyStepLog f d) :=
  .ite (keeps_completeDesc (keeps_stopLog (keeps_logDesc h))) (.ite (keeps_finishDesc (keeps_logDesc h)) (keeps_statusWrite
    (.update (keeps_logDesc h))))

theorem keeps_firmwareRead {a n : Nat} (h : Keeps d₀ d) : Keeps d₀ (firmwareRead a n d) :=
  keeps_eachEvent (fun _ _ _ h => keeps_goFatal (keeps_noteUncorrectable h)) h.touch

theorem keeps_firmwareLooks (h : Keeps d₀ d) : Keeps d₀ (firmwareLooks d) :=
  .ite h (.foldl (fun _ _ => keeps_firmwareRead) h)

theorem keeps_answerQuery {f : Fetched} (h : Keeps d₀ d) : Keeps d₀ (answerQuery f d) :=
  .ite (keeps_completeDesc h) (by
  split
  · exact .ite (keeps_completeDesc (by
    split
    · exact keeps_firmwareRead h
    · exact h)) (keeps_completeDesc (keeps_emit (by
    split
    · exact keeps_firmwareRead h
    · exact h)))
  · exact keeps_completeDesc h)

theorem keeps_forRing {ring : Nat} {f : Device → Device} (kf : ∀ (a : Device), Keeps d₀ a → Keeps d₀ (f a)) (h : Keeps d₀ d) :
    Keeps d₀ (forRing ring f d) :=
  .ite (keeps_onOther (fun _ h => (kf _ h)) h) (kf _ h)

theorem keeps_setVeReg {g r : Nat} {vs : List (BitVec 32)} (h : Keeps d₀ d) : Keeps d₀ (setVeReg g r vs d) :=
  .update h

theorem keeps_setVeScale {g r : Nat} {bs : List Byte} (h : Keeps d₀ d) : Keeps d₀ (setVeScale g r bs d) :=
  .update h

theorem keeps_raiseCounts {r : Raised} (h : Keeps d₀ d) : Keeps d₀ (raiseCounts r d) :=
  .update h

theorem keeps_devCvt {g : Fin 128} {x : W64} (h : Keeps d₀ d) : Keeps d₀ (devCvt g x d) := by
  unfold devCvt
  dsimp only
  split
  · exact h
  · exact .ite h (keeps_raiseCounts (keeps_setVeReg h))

theorem keeps_devCvtq {g : Fin 128} {x : W64} (h : Keeps d₀ d) : Keeps d₀ (devCvtq g x d) := by
  unfold devCvtq
  dsimp only
  split
  · exact h
  · exact .ite h (keeps_raiseCounts (keeps_setVeScale (keeps_setVeReg h)))

theorem keeps_devCvtd {g : Fin 128} {x : W64} (h : Keeps d₀ d) : Keeps d₀ (devCvtd g x d) := by
  unfold devCvtd
  dsimp only
  split
  · exact h
  · exact .ite h (keeps_raiseCounts (keeps_setVeReg h))

theorem keeps_beginCopy {requant : Bool} {l : PageList} {index : Nat} {e : PageEntry} {tiers : List Nat} (h : Keeps d₀ d) :
    Keeps d₀ (beginCopy requant l index e tiers d) := by
  induction tiers with
  | nil => exact h
  | cons tier t ih =>
    unfold beginCopy
    dsimp only
    split
    · exact ih
    · exact .update (keeps_freeSlotIn h)

theorem keeps_copyShared {l : PageList} (h : Keeps d₀ d) : Keeps d₀ (copyShared d l) := by
  unfold copyShared
  dsimp only
  split
  · exact .ite (keeps_beginCopy h) h
  · exact h

theorem keeps_copyAppends (h : Keeps d₀ d) : Keeps d₀ (copyAppends d) :=
  .foldl (fun _ _ h => (.foldl (fun _ _ => keeps_copyShared) h)) h

theorem keeps_settlePauses (h : Keeps d₀ d) : Keeps d₀ (settlePauses d) :=
  .foldl (fun _ _ => keeps_settlePause) h

theorem keeps_settlePage {l : PageList} {x : Nat × PageEntry} (h : Keeps d₀ d) : Keeps d₀ (settlePage l d x) :=
  .ite h (.ite (keeps_beginCopy h) (.ite (keeps_beginCopy h) h))

theorem keeps_copyPausing (h : Keeps d₀ d) : Keeps d₀ (copyPausing d) :=
  .foldl (fun _ _ h => (.foldl (fun _ _ h => (.foldl (fun _ _ => keeps_settlePage) h)) h)) h

theorem keeps_spillUntil {tier high total : Nat} {ms : List Movable} (h : Keeps d₀ d) :
    Keeps d₀ (spillUntil tier high total ms d) := by
  induction ms generalizing d with
  | nil => exact h
  | cons m t ih => exact .ite h (ih (keeps_beginCopy h))

theorem keeps_spillTier {next : List Placement} {tier low high : Nat} (h : Keeps d₀ d) :
    Keeps d₀ (spillTier next tier low high d) :=
  .ite (keeps_spillUntil (.update h)) (.update h)

theorem keeps_spillPages {next : List Placement} (h : Keeps d₀ d) : Keeps d₀ (spillPages next d) :=
  keeps_spillTier (keeps_spillTier h)

theorem keeps_raisePage {next : List Placement} {q : Request} {l : PageList} {x : Nat × PageEntry} (h : Keeps d₀ d) :
    Keeps d₀ (raisePage next q l d x) :=
  .ite (keeps_beginCopy h) h

theorem keeps_prefetchPages {next : List Placement} (h : Keeps d₀ d) : Keeps d₀ (prefetchPages next d) :=
  .foldl (fun _ _ h => (.foldl (fun _ _ h => (.foldl (fun _ _ h => (by
  split
  · exact keeps_raisePage h
  · exact h)) h)) h)) h

theorem keeps_beginCopies {next : List Placement} (h : Keeps d₀ d) : Keeps d₀ (beginCopies next d) :=
  .ite h (.ite_of_left (keeps_copyPausing (keeps_copyAppends h)) (fun k => (keeps_prefetchPages (keeps_spillPages k))))

theorem keeps_writeSlot {e : PageEntry} {bs : List Byte} (h : Keeps d₀ d) : Keeps d₀ (writeSlot e bs d) :=
  .ite (keeps_emit (h.memory id (memWf_writeBytes _ _ _))) h.write

theorem keeps_queueEdit {e : FwEdit} (h : Keeps d₀ d) : Keeps d₀ (queueEdit e d) :=
  keeps_updateCol h

theorem keeps_endCopy {c : CopyRun} (h : Keeps d₀ d) : Keeps d₀ (endCopy c d) :=
  .update h

theorem keeps_copyDone {c : TierCopy} (h : Keeps d₀ d) : Keeps d₀ (copyDone c d) := by
  unfold copyDone
  dsimp only
  split
  · exact h
  · exact .ite_of_left (keeps_copyEvents (keeps_readSlot (keeps_endCopy h))) (fun k => (keeps_queueEdit (keeps_writeSlot k)))

theorem keeps_requantDone {c : TierCopy} (h : Keeps d₀ d) : Keeps d₀ (requantDone c d) := by
  unfold requantDone
  dsimp only
  split
  · exact h
  · exact .ite_of_left (keeps_copyEvents (keeps_readSlot (keeps_endCopy h))) (fun k => (keeps_queueEdit (keeps_writeSlot
      (.update k))))

theorem keeps_positionBytes {dh : Nat} {e : PageEntry} {p : Nat} {acc : SlotReads} (h : Keeps d₀ acc.2.2) :
    Keeps d₀ (positionBytes dh e p acc).2.2 :=
  .foldl_snd_snd (fun _ _ h => keeps_readSlot h) h

theorem keeps_spanBytes {l : PageList} {lo hi : Nat} (h : Keeps d₀ d) : Keeps d₀ (spanBytes l lo hi d).2 := by
  unfold spanBytes
  split
  · exact h
  · exact keeps_stepEvents (.foldl_snd_snd (fun _ _ h => keeps_positionBytes h) h)

theorem keeps_spanOf {handle : Nat} {l : PageList} {after p : Nat} (h : Keeps d₀ d) : Keeps d₀ (spanOf handle l after p d) := by
  unfold spanOf
  exact keeps_updateCol (keeps_spanBytes h)

theorem keeps_advanceList {l : PageList} (h : Keeps d₀ d) : Keeps d₀ (advanceList d l) := by
  unfold advanceList
  dsimp only
  split
  · exact h
  · exact .ite h (keeps_putList (keeps_updateCol (.foldl (fun _ _ => keeps_spanOf) h)))

theorem keeps_noteGain {q : Request} (h : Keeps d₀ d) : Keeps d₀ (noteGain d q) :=
  .ite h (keeps_updateCol h)

theorem keeps_shipFull {s : Shipping} (h : Keeps d₀ d) : Keeps d₀ (shipFull d s) :=
  .ite h (by
  split
  · exact h
  · exact keeps_updateShip h)

theorem keeps_actPages (h : Keeps d₀ d) : Keeps d₀ (actPages d) :=
  .foldl (fun _ _ => keeps_shipFull) (keeps_updateCol (.foldl (fun _ _ => keeps_noteGain) (.foldl (fun _ _ =>
    keeps_advanceList) h)))

theorem keeps_recordRequest {q : Request} (h : Keeps d₀ d) : Keeps d₀ (recordRequest d q) :=
  keeps_setReq (.update (.ite_of_right (fun k => (keeps_logItem k)) (keeps_updateCol h)))

theorem keeps_actRecords (h : Keeps d₀ d) : Keeps d₀ (actRecords d) :=
  .foldl (fun _ _ => keeps_recordRequest) h

theorem keeps_sendToken {q : Request} {ws : List W64} (h : Keeps d₀ d) : Keeps d₀ (sendToken q ws d) :=
  .ite (keeps_postPacket h) (keeps_pushPacket (keeps_noteReleased h))

theorem keeps_releaseTokens {q : Request} (h : Keeps d₀ d) : Keeps d₀ (releaseTokens d q) :=
  .foldl (fun _ _ => keeps_sendToken) h

theorem keeps_releaseGenerate {q : Request} (h : Keeps d₀ d) : Keeps d₀ (releaseGenerate d q) :=
  .ite h (keeps_completeReq h)

theorem keeps_releaseLate {v : Nat} (h : Keeps d₀ d) : Keeps d₀ (releaseLate d v) := by
  unfold releaseLate
  split
  · exact keeps_completeReq h
  · exact h

theorem keeps_writeOutput {addr : Nat} {bs : List Byte} (h : Keeps d₀ d) : Keeps d₀ (writeOutput addr bs d) :=
  keeps_emit (.update h)

theorem keeps_releaseOutput {q : Request} (h : Keeps d₀ d) : Keeps d₀ (releaseOutput d q) :=
  .ite h (keeps_completeReq (.ite h (keeps_writeOutput h)))

theorem keeps_cutShip {v : Nat} (h : Keeps d₀ d) : Keeps d₀ (cutShip d v) := by
  unfold cutShip
  dsimp only
  split
  · exact .ite h (keeps_checkShip (keeps_updateShip h))
  · exact h

theorem keeps_markGoals (h : Keeps d₀ d) : Keeps d₀ (markGoals d) :=
  .foldl (fun _ _ h => (by
  split
  · exact keeps_setReq h
  · exact h)) h

theorem keeps_actRelease (h : Keeps d₀ d) : Keeps d₀ (actRelease d) :=
  .foldl (fun _ _ => keeps_cutShip) (keeps_markGoals (.foldl (fun _ _ => keeps_releaseOutput) (.foldl (fun _ _ =>
    keeps_releaseLate) (.foldl (fun _ _ => keeps_releaseGenerate) (.foldl (fun _ _ => keeps_releaseTokens) h)))))

theorem keeps_clearLate (h : Keeps d₀ d) : Keeps d₀ (clearLate d) :=
  .foldl (fun _ _ h => (by
  split
  · exact keeps_setReq h
  · exact h)) h

theorem keeps_retire {q : Request} (h : Keeps d₀ d) : Keeps d₀ (retire d q) :=
  .ite (.ite (keeps_freeRequest h) h) (.ite h (.ite (keeps_setReq h) (keeps_freeRequest h)))

theorem keeps_sweepShips (h : Keeps d₀ d) : Keeps d₀ (sweepShips d) :=
  keeps_setShips h

theorem keeps_endLost {q : Request} (h : Keeps d₀ d) : Keeps d₀ (endLost d q) := by
  unfold endLost
  exact keeps_updateCol (keeps_completeReq (keeps_cancelRequest h))

theorem keeps_loseInRole {u : SlotUse} (h : Keeps d₀ d) : Keeps d₀ (loseInRole u d) :=
  .update (keeps_updateCol (.foldl (fun _ _ => keeps_endLost) h))

theorem keeps_loseSlot {u : SlotUse} (h : Keeps d₀ d) : Keeps d₀ (loseSlot d u) :=
  keeps_postEvent (.update (.foldl (fun _ _ => keeps_evictNode) (keeps_inSplit (fun _ => keeps_loseInRole)
    (keeps_loseInRole h))))

theorem keeps_classScrubbed {w : Nat} (h : Keeps d₀ d) : Keeps d₀ (classScrubbed d w) :=
  .ite h (.ite (h.memory (memWf_putWord _ _ _) id) (.ite (keeps_goFatal h) (keeps_stepError h)))

theorem keeps_loseSlots (h : Keeps d₀ d) : Keeps d₀ (loseSlots d) :=
  .foldl (fun _ _ => keeps_loseSlot) (.foldl (fun _ _ => keeps_classScrubbed) (.update h))

theorem keeps_applyQueued (h : Keeps d₀ d) : Keeps d₀ (applyQueued d) :=
  .foldl (fun _ _ h => (.ite h (keeps_applyFwEdit h))) (keeps_updateCol h)

theorem keeps_nextDraft (h : Keeps d₀ d) : Keeps d₀ (nextDraft d).dev := by
  unfold nextDraft
  split
  · split
    · exact keeps_replayDraft h
    · exact h
  · exact keeps_composeNow h

theorem keeps_updateStats (h : Keeps d₀ d) : Keeps d₀ (updateStats d) :=
  .update h

theorem keeps_ageHeld (h : Keeps d₀ d) : Keeps d₀ (ageHeld d) :=
  .update h

theorem keeps_retireAll (h : Keeps d₀ d) : Keeps d₀ (retireAll d) :=
  keeps_sweepShips (keeps_tryHeld (.foldl (fun _ _ => keeps_retire) (keeps_clearLate (keeps_settleAllShares h))))

theorem keeps_actFirmware (h : Keeps d₀ d) : Keeps d₀ (actFirmware d) := by
  have decided : Keeps d₀ (settlePauses (applyQueued (settleAllShares (loseSlots (retireAll d))))) :=
    keeps_settlePauses (keeps_applyQueued (keeps_settleAllShares (keeps_loseSlots (keeps_retireAll h))))
  refine keeps_beginCopies (keeps_expireHeld (keeps_ageHeld (.ite_of_left (keeps_nextDraft (keeps_insertPages ?_)) .update)))
  exact .ite (keeps_replayDecisions decided) (keeps_firmwareResumes (keeps_shortagePauses (keeps_latePauses decided)))

theorem keeps_awaitProgress (h : Keeps d₀ d) : Keeps d₀ (awaitProgress d) :=
  keeps_copyAppends (keeps_copyPausing (keeps_applyQueued h))

theorem keeps_applyCounts (h : Keeps d₀ d) : Keeps d₀ (applyCounts d) :=
  .update h

theorem keeps_chainDigest {digest : List Byte} (h : Keeps d₀ d) : Keeps d₀ (chainDigest digest d) := by
  unfold chainDigest
  dsimp only
  split
  · exact .update h
  · exact .update h

theorem keeps_logWrite {l : LogState} {bs : List Byte} (h : Keeps d₀ d) : Keeps d₀ (logWrite l bs d) :=
  .ite_of_left (keeps_emit h) (fun k => (keeps_emit k))

theorem keeps_onCopyRole {c : TierCopy} {f : Device → Device} (kf : ∀ (a : Device), Keeps d₀ a → Keeps d₀ (f a))
    (h : Keeps d₀ d) : Keeps d₀ (onCopyRole c f d) :=
  .ite h (.ite (.ite (keeps_awaitProgress (kf _ h)) (kf _ h)) (.ite (keeps_onOther (fun _ h => (.ite (keeps_awaitProgress
    (kf _ h)) (kf _ h))) h) h))

theorem keeps_devTierCopyDone {c : TierCopy} (h : Keeps d₀ d) : Keeps d₀ (devTierCopyDone c d) :=
  keeps_onCopyRole (fun _ => keeps_copyDone) h

theorem keeps_devRequantisationDone {c : TierCopy} (h : Keeps d₀ d) : Keeps d₀ (devRequantisationDone c d) :=
  keeps_onCopyRole (fun _ => keeps_requantDone) h

theorem keeps_dropTwin {st : TwinState} (h : Keeps d₀ d) : Keeps d₀ (dropTwin st d) :=
  .update h

theorem keeps_retireMirror {followed : Bool} (h : Keeps d₀ d) : Keeps d₀ (retireMirror followed d) :=
  .ite (.update h) h

theorem keeps_attachFail (h : Keeps d₀ d) : Keeps d₀ (attachFail d) :=
  keeps_retireMirror (keeps_dropTwin (keeps_complete h))

theorem keeps_loneMirror (h : Keeps d₀ d) : Keeps d₀ (loneMirror d) :=
  .ite_of_left (.ite (keeps_discardStep h) h) (fun k => (keeps_haltMember k))

theorem keeps_faultDetach {st : TwinState} {tell : Bool} (h : Keeps d₀ d) : Keeps d₀ (faultDetach st tell d) :=
  .ite (keeps_loneMirror (keeps_deviceEvent (keeps_dropTwin (.ite (keeps_sendTwin h) h)))) (keeps_retireMirror
    (keeps_deviceEvent (keeps_dropTwin (.ite (keeps_sendTwin h) h))))

theorem keeps_twinGone (h : Keeps d₀ d) : Keeps d₀ (twinGone d) := by
  unfold twinGone
  split
  · exact keeps_attachFail h
  · exact keeps_attachFail h
  · exact keeps_faultDetach h
  · exact keeps_faultDetach h
  · exact keeps_faultDetach h
  · exact h

theorem keeps_cleanDetach (h : Keeps d₀ d) : Keeps d₀ (cleanDetach d) := by
  unfold cleanDetach
  split
  · exact keeps_attachFail h
  · exact keeps_attachFail h
  · exact keeps_retireMirror (keeps_dropTwin h)
  · exact keeps_retireMirror (keeps_dropTwin h)
  · exact keeps_retireMirror (keeps_dropTwin h)
  · exact h

theorem keeps_applyTwinAttach {f : Fetched} (h : Keeps d₀ d) : Keeps d₀ (applyTwinAttach f d) :=
  .ite (keeps_finishDesc (keeps_logDesc h)) (keeps_sendTwin (.update (keeps_logDesc h)))

theorem keeps_applyTwinDetach {f : Fetched} (h : Keeps d₀ d) : Keeps d₀ (applyTwinDetach f d) := by
  unfold applyTwinDetach
  dsimp only
  split
  · split
    · exact .ite (keeps_finishDesc (.update (keeps_logDesc h))) (keeps_finishDesc (keeps_logDesc h))
    · exact keeps_finishDesc (keeps_logDesc h)
  · exact keeps_finishDesc (keeps_logDesc h)
  · exact keeps_finishDesc (keeps_logDesc h)
  · exact keeps_finishDesc (keeps_cleanDetach (keeps_sendTwin (keeps_logDesc h)))

theorem keeps_attachProgress (h : Keeps d₀ d) : Keeps d₀ (attachProgress d) := by
  unfold attachProgress
  dsimp only
  split
  · split
    · exact .ite (.update h) (keeps_attachFail h)
    · exact .ite (keeps_attachFail (.update h)) (.update h)
  · exact .ite (keeps_complete (.update h)) h
  · exact h

theorem keeps_detachNoted (h : Keeps d₀ d) : Keeps d₀ (detachNoted d) :=
  .ite (keeps_cleanDetach h) h

theorem keeps_slotBytesOf {us : List SlotUse} (h : Keeps d₀ d) : Keeps d₀ (slotBytesOf us d).2 :=
  .foldl_snd (fun _ _ h => (keeps_copyEvents (keeps_readSlot h))) h

theorem keeps_writePosition {k : ListKey} {p : Nat} {bs : List Byte} (h : Keeps d₀ d) : Keeps d₀ (writePosition k p bs d) := by
  unfold writePosition
  dsimp only
  split
  · exact h
  · exact keeps_copyEvents (keeps_copyEvents (keeps_copyEvents (keeps_copyEvents h.write).write).write).write

theorem keeps_sendSync (h : Keeps d₀ d) : Keeps d₀ (sendSync d) :=
  .ite (.update h) (.update (keeps_sendTwin (keeps_slotBytesOf h)))

theorem keeps_ownResult {digest : List Byte} (h : Keeps d₀ d) : Keeps d₀ (ownResult digest d).2 := by
  unfold ownResult
  dsimp only
  split
  · exact h
  · refine keeps_stepEvents (.foldl_snd_snd (fun p x h => ?_) h)
    split
    · exact h
    · exact keeps_positionBytes h

theorem keeps_ownBoundary (h : Keeps d₀ d) : Keeps d₀ (ownBoundary d).2 := by
  unfold ownBoundary
  dsimp only
  split
  · exact h
  · exact keeps_slotBytesOf (.foldl_snd (fun _ _ h => (keeps_copyEvents (keeps_readSlot h))) h)

theorem keeps_takeSync {r : SyncRec} (h : Keeps d₀ d) : Keeps d₀ (takeSync r d) := by
  refine .ite (keeps_attachFail h) (h.memory (memWf_foldl_writeRange _ _ _ _) fun wf => ?_)
  rw [foldl_writeRange_spill]
  exact wf

theorem keeps_shadowDevice {n : Nat} {x : Shadow} (h : Keeps d₀ d) : Keeps d₀ (shadowDevice n x d) :=
  .update h

theorem keeps_applyResult {r : TwinResult} (h : Keeps d₀ d) : Keeps d₀ (applyResult r d) := by
  unfold applyResult
  exact keeps_updateCol (.foldl (fun _ _ h => keeps_writePosition h) (keeps_replayDraft h))

theorem keeps_adoptPage {size : Nat} {bs : List Byte} {e : PageEntry} (h : Keeps d₀ d) :
    Keeps d₀ (adoptPage size bs e d).2 := by
  unfold adoptPage
  dsimp only
  split
  · exact (keeps_freeSlot h).write
  · exact .update (keeps_freeSlot h)

theorem keeps_adoptShare {s : Share} {old : List (PageEntry × PageEntry)} (h : Keeps d₀ d) :
    Keeps d₀ (adoptShare s old d).2 := by
  unfold adoptShare
  dsimp only
  split
  · dsimp only
    exact keeps_updateCol h
  · dsimp only
    exact keeps_updateCol (keeps_adoptPage h)

theorem keeps_adoptVariant {bs : List (Nat × Nat × List Byte)} {v : Nat × Variant} (h : Keeps d₀ d) :
    Keeps d₀ (adoptVariant bs v d) :=
  .ite h (.foldl (fun _ _ h => (.foldl (fun _ _ h => (.update (keeps_adoptPage h))) h)) (.update h))

theorem keeps_shadowRequant {k : ListKey} {index : Nat} (h : Keeps d₀ d) : Keeps d₀ (shadowRequant k index d) := by
  unfold shadowRequant
  dsimp only
  split
  · exact h
  · exact .ite h (keeps_putList (keeps_adoptPage (.update (keeps_copyEvents (keeps_readSlot h)))))

theorem keeps_shadowDecision {i : LogItem} (h : Keeps d₀ d) : Keeps d₀ (shadowDecision d i) := by
  unfold shadowDecision
  split
  · exact h
  · exact .ite (keeps_firmwarePause h) (.ite (keeps_resumeRequest h) h)

theorem keeps_applyRequestDesc {f : Fetched} (h : Keeps d₀ d) : Keeps d₀ (applyRequestDesc f d) :=
  .ite (.ite (keeps_replaySubmit h) (keeps_applySubmit h)) (.ite (keeps_applyCancel h) (.ite (keeps_applyPause h) (.ite
    (keeps_applyResume h) (.ite (keeps_applyPriority h) (keeps_logDesc h)))))

theorem keeps_shadowDesc {f : Fetched} (h : Keeps d₀ d) : Keeps d₀ (shadowDesc d f) :=
  .ite (keeps_logDesc h) (keeps_applyRequestDesc h)

theorem keeps_settleShips {hs : List Nat} (h : Keeps d₀ d) : Keeps d₀ (settleShips hs d) :=
  keeps_setShips h

theorem keeps_actsOneToThree (h : Keeps d₀ d) : Keeps d₀ (actsOneToThree d) :=
  keeps_actRelease (keeps_actRecords (keeps_actPages h))

theorem keeps_shadowActs {r : BoundaryRec} (h : Keeps d₀ d) : Keeps d₀ (shadowActs r d) :=
  keeps_expireHeld (keeps_ageHeld (.update (.foldl (fun _ _ => keeps_shadowDecision) (.foldl (fun _ _ => keeps_settlePause)
    (.foldl (fun _ _ => keeps_shadowRequant) (keeps_settleAllShares (.foldl (fun _ _ h => (by
  split
  · exact keeps_endLost h
  · exact h)) (keeps_retireAll (.foldl (fun _ _ => keeps_shadowDesc) (keeps_actsOneToThree (keeps_settleShips (.foldl_snd
      (fun _ _ => keeps_adoptShare) (.foldl (fun _ _ => keeps_adoptVariant) h)))))))))))))

theorem keeps_keepErrors {e : Device} (h : Keeps d₀ d) : Keeps d₀ (keepErrors e d) := .update h

theorem keeps_keepShadow {kept : Nat} {x : Shadow} {n : Nat} {rel : Released} {e : Device} (he : Keeps d₀ e) (h : Keeps d₀ d) :
    Keeps d₀ (keepShadow kept x n rel e d) :=
  ⟨h.regs, h.fuses, h.burn, h.locked, h.active, fun wf =>
    ⟨(he.canonical wf).1, (he.canonical wf).2.1, (h.canonical wf).2.2⟩⟩

theorem keeps_shadowBoundary {r : BoundaryRec} (h : Keeps d₀ d) : Keeps d₀ (shadowBoundary r d).2 := by
  unfold shadowBoundary
  split
  · exact h
  · split
    · exact h
    · dsimp only
      split
      · exact keeps_keepShadow (keeps_shadowActs (keeps_applyResult (keeps_shadowDevice h))) h
      · exact keeps_keepErrors h

theorem keeps_reconstruct {n : Nat} (h : Keeps d₀ d) : Keeps d₀ (reconstruct n d) := by
  unfold reconstruct
  split
  · exact h
  · split
    · exact h
    · exact keeps_keepShadow (keeps_actFirmware (keeps_actsOneToThree (keeps_applyResult (keeps_shadowDevice h)))) h

theorem keeps_postRetained {q : Nat} {ws : List W64} (h : Keeps d₀ d) : Keeps d₀ (postRetained q ws d) :=
  .ite (keeps_pushPacket h) (keeps_flushPosting (keeps_postPacket h))

theorem keeps_writeRetained {r : Released} (h : Keeps d₀ d) : Keeps d₀ (writeRetained d r) :=
  keeps_emitAll (.foldl (fun _ _ => keeps_postRetained) h)

theorem keeps_endTaken {s : Shipping} (h : Keeps d₀ d) : Keeps d₀ (endTaken d s) :=
  keeps_postRetained (.update h)

theorem keeps_houseTaken {e : Nat × Request} (h : Keeps d₀ d) : Keeps d₀ (houseTaken d e) := by
  have housed : Keeps d₀ ((houseRequest e.2 d).getD (e.2, d)).2 := by
    cases found : houseRequest e.2 d with
    | none => exact h
    | some x => exact keeps_houseRequest h x found
  exact .update housed

theorem keeps_houseTakenList {l : PageList} (h : Keeps d₀ d) : Keeps d₀ (houseTakenList d l) :=
  .update (keeps_takeFree h)

theorem keeps_takeover {c : Nat} (h : Keeps d₀ d) : Keeps d₀ (takeover c d) := by
  have known : Keeps d₀ (if d.twin.shadow.map shadowAt = some c then d else reconstruct c d) := .ite h (keeps_reconstruct h)
  unfold takeover
  refine .ite (.foldl (fun _ _ => keeps_closeShip) (.update h)) ?_
  generalize (if d.twin.shadow.map shadowAt = some c then d else reconstruct c d) = e at known ⊢
  dsimp only
  split
  · exact known
  · exact .foldl (fun _ _ => keeps_houseTakenList) (.foldl (fun _ _ => keeps_houseTaken)
      (.update (.foldl (fun _ _ => keeps_endTaken) (.foldl (fun _ _ => keeps_writeRetained) known))))

theorem keeps_setHifErr {k : Nat} (h : Keeps d₀ d) : Keeps d₀ (setHifErr k d) :=
  keeps_msix (.update h)

theorem keeps_stopRing {n : Nat} (h : Keeps d₀ d) : Keeps d₀ (stopRing n d) :=
  .ite h (keeps_msix (.update h))

theorem keeps_stopOverrun (h : Keeps d₀ d) : Keeps d₀ (stopOverrun d) :=
  .foldl (fun _ _ h => (.ite (keeps_stopRing h) h)) h

theorem keeps_readPage {page : Option Doorbell} (h : Keeps d₀ d) : Keeps d₀ (readPage page d) := by
  unfold readPage
  dsimp only
  split
  · exact keeps_setHifErr h
  · exact keeps_stopOverrun (.update h)

theorem keeps_rejectDesc {f : Fetched} (h : Keeps d₀ d) : Keeps d₀ (rejectDesc f d) :=
  keeps_finishDesc (keeps_logDesc h)

theorem keeps_applyAccepted {f : Fetched} (h : Keeps d₀ d) : Keeps d₀ (applyAccepted f d) :=
  .ite (keeps_applyModelLoad h) (.ite (keeps_applySentenceLoad h) (.ite (keeps_applyVariantLoad h) (.ite
    (keeps_applyExportSlots h) (.ite (keeps_applyGroupDefine h) (.ite (keeps_applyGroupReform h) (.ite (keeps_rejectDesc h)
    (.ite (keeps_applyTwinAttach h) (.ite (keeps_applyTwinDetach h) (.ite (keeps_applyStepLog h)
    (keeps_applyRequestDesc h))))))))))

theorem keeps_applyDescriptor {f : Fetched} (h : Keeps d₀ d) : Keeps d₀ (applyDescriptor f d) :=
  keeps_forRing (fun _ h => (.ite (keeps_applyAccepted h) (keeps_rejectDesc h))) h

theorem keeps_markSettled (h : Keeps d₀ d) : Keeps d₀ (markSettled d) :=
  .update (keeps_setShips h)

theorem keeps_admitAll {fs : List Fetched} (h : Keeps d₀ d) : Keeps d₀ (admitAll fs d) := by
  unfold admitAll
  exact keeps_updateCol (.update h)

theorem keeps_cutoff (h : Keeps d₀ d) : ∀ x ∈ cutoff d, Keeps d₀ x := by
  unfold cutoff
  refine .iteSome (.map fun _ => keeps_admitAll (keeps_markSettled h)) (.iteSome (.some (keeps_admitAll (keeps_markSettled h)))
    (.iteSome ?_ (.some (keeps_admitAll (keeps_markSettled h)))))
  split
  · exact .none
  · exact .some (.update (keeps_admitAll (keeps_markSettled (keeps_settleShips h))))

theorem keeps_actRecord (h : Keeps d₀ d) : Keeps d₀ (actRecord d) :=
  .ite_of_left (keeps_chainDigest (keeps_applyCounts h)) (fun k => (.update k))

theorem keeps_actTell (h : Keeps d₀ d) : Keeps d₀ (actTell d) :=
  .ite (keeps_sendTwin (keeps_ownBoundary h)) h

theorem keeps_actLog (h : Keeps d₀ d) : ∀ x ∈ actLog d, Keeps d₀ x := by
  refine .iteSome (.iteSome .none (.some (keeps_statusWrite (.update (keeps_logWrite h))))) (.iteSome ?_ (.some h))
  exact .iteSome (.some (keeps_stopLog (keeps_statusWrite (.update h)))) (.iteSome (.some (keeps_stopLog (keeps_statusWrite
    (.update h)))) (.some (keeps_statusWrite (.update h))))

theorem keeps_actAdvance (h : Keeps d₀ d) : Keeps d₀ (actAdvance d) :=
  .ite (keeps_goFatal h) (.ite (keeps_sendSync (.update h)) (.update h))

theorem keeps_adoptMirror (h : Keeps d₀ d) : Keeps d₀ (adoptMirror d) := by
  unfold adoptMirror
  dsimp only
  split
  · exact .ite (.update h) h
  · exact h

theorem keeps_sendWant (h : Keeps d₀ d) : Keeps d₀ (sendWant d) :=
  .ite (keeps_sendParticle (.update h)) h

theorem keeps_pushOps {ops : List BOp} (h : Keeps d₀ d) : Keeps d₀ (pushOps ops d) :=
  .update h

theorem keeps_keepHalts (h : Keeps d₀ d) : Keeps d₀ (keepHalts d) :=
  keeps_updateCol h

theorem keeps_haltRestart {f : Fetched} (h : Keeps d₀ d) : Keeps d₀ (haltRestart f d) :=
  .ite (keeps_rejectDesc h) (.ite (keeps_pushOps h) (keeps_pushOps (keeps_keepHalts h)))

theorem keeps_applyHalt {f : Fetched} (h : Keeps d₀ d) : Keeps d₀ (applyHalt f d) :=
  .ite (.ite (keeps_haltRestart h) (keeps_rejectDesc h)) (keeps_applyDescriptor h)

theorem keeps_restartJob {f : Fetched} (h : Keeps d₀ d) : Keeps d₀ (restartJob f d) :=
  keeps_finishDesc (.ite (keeps_takeover (.update (keeps_adoptGen (keeps_logDesc h)))) (.ite_of_right (fun k =>
    (keeps_retireMirror (keeps_dropTwin k))) (.update (keeps_adoptGen (keeps_logDesc h)))))

theorem keeps_resumeJob {gen : Nat} (h : Keeps d₀ d) : Keeps d₀ (resumeJob gen d) :=
  .ite (keeps_serve (keeps_itemTwo h)) (.ite (keeps_serve (keeps_tryReady (.update (keeps_itemTwo h)))) (keeps_serve (.update
    (keeps_sendReady (keeps_itemTwo h)))))

theorem keeps_answerQueries (h : Keeps d₀ d) : Keeps d₀ (answerQueries d) :=
  .foldl (fun _ _ h => (keeps_forRing (fun _ => keeps_answerQuery) h)) (.update h)

theorem keeps_actFinish (h : Keeps d₀ d) : Keeps d₀ (actFinish d) :=
  keeps_sendWant (keeps_adoptMirror (.ite_of_right (fun k => (keeps_faultNow (.update k))) (keeps_serveWaiting
    (keeps_answerQueries (.update h)))))

theorem keeps_beginAwait (h : Keeps d₀ d) : ∀ x ∈ beginAwait d, Keeps d₀ x := by
  have hold {e : Device} (he : Keeps d₀ e) : Keeps d₀ (pushOps [.hold] (awaitProgress e)) := keeps_pushOps
    (keeps_awaitProgress he)
  exact .iteSome (.some (hold h)) (.iteSome (.some h) (.iteSome (.some (hold h)) (.map fun _ => .ite (hold (.update h)) h)))

theorem keeps_runOp {op : BOp} (h : Keeps d₀ d) : ∀ x ∈ runOp op d, Keeps d₀ x := by
  cases op with
  | cutoff => exact .mapSome (keeps_cutoff h) fun _ => keeps_holdSlots
  | pages => exact .some (keeps_actPages h)
  | records => exact .some (keeps_actRecords h)
  | release => exact .some (keeps_actRelease h)
  | edits => exact .some (keeps_pushOps (keeps_attachProgress (keeps_detachNoted h)))
  | apply f => exact .some (keeps_applyDescriptor h)
  | await => exact keeps_beginAwait h
  | hold => exact .iteSome (.some h) .none
  | firmware => exact .some (.ite (keeps_firmwareLooks h) (keeps_updateStats (keeps_actFirmware (keeps_firmwareLooks h))))
  | record => exact .some (keeps_actRecord h)
  | log => exact keeps_actLog h
  | tell => exact .some (keeps_actTell h)
  | advance => exact .some (keeps_actAdvance h)
  | swap => exact .some (keeps_swapRoles h)
  | doorbell => exact .none
  | haltCutoff => exact .some (keeps_pushOps (keeps_detachNoted (.update h)))
  | haltApply f => exact .some (keeps_applyHalt h)
  | restart f => exact .some (keeps_restartJob h)
  | haltEnd =>
    have kept : Keeps d₀ (updateStats (keepHalts (loseSlots d))) := keeps_updateStats (keeps_keepHalts (keeps_loseSlots h))
    exact .some (.ite kept (keeps_resumeJob kept))
  | abandon gen => exact .some (keeps_resumeJob h)
  | finish => exact .some (keeps_actFinish h)

theorem keeps_runOps {fuel : Nat} (h : Keeps d₀ d) : Keeps d₀ (runOps fuel d) := by
  induction fuel generalizing d with
  | zero => exact h
  | succ n ih =>
    unfold runOps
    dsimp only
    refine .ite (keeps_flushPosting h) ?_
    split
    · exact keeps_flushPosting h
    · split
      · exact keeps_flushPosting h
      next ran => exact ih (keeps_runOp (.update (keeps_flushPosting h)) _ ran)

theorem keeps_runBoundary (h : Keeps d₀ d) : Keeps d₀ (runBoundary d) :=
  keeps_runOps h

theorem keeps_beginOps {ops : List BOp} {page : Option Doorbell} (h : Keeps d₀ d) : Keeps d₀ (beginOps ops page d) :=
  keeps_runBoundary (.update (keeps_readPage (keeps_toOwn h)))

theorem keeps_beginBoundary {page : Option Doorbell} (h : Keeps d₀ d) : Keeps d₀ (beginBoundary page d) :=
  keeps_beginOps h

theorem keeps_devBoundaryActionResume (h : Keeps d₀ d) : Keeps d₀ (devBoundaryActionResume d) :=
  .ite h (keeps_runBoundary h)

theorem keeps_devHeldSubmitTimeout (h : Keeps d₀ d) : Keeps d₀ (devHeldSubmitTimeout d) :=
  .ite h (keeps_inSplit (fun _ => keeps_expireHeld) (keeps_expireHeld h))

theorem keeps_outputRows (h : Keeps d₀ d) : Keeps d₀ (outputRows d).2 := by
  unfold outputRows
  dsimp only
  split
  · exact h
  · exact .foldl_snd (fun _ _ => keeps_workRead) h

theorem keeps_finishRun (h : Keeps d₀ d) : Keeps d₀ (finishRun d) := by
  unfold finishRun
  exact keeps_updateCol (keeps_outputRows (keeps_updateCol (keeps_updateCol h)))

theorem keeps_commitStep {begin' : Device → Device} (kbegin' : ∀ (a : Device), Keeps d₀ a → Keeps d₀ (begin' a))
    (h : Keeps d₀ d) : Keeps d₀ (commitStep begin' d) :=
  kbegin' _ (.ite h (keeps_sendMembers (.update h)))

theorem keeps_progressDone {begin' : Device → Device} (kbegin' : ∀ (a : Device), Keeps d₀ a → Keeps d₀ (begin' a))
    (h : Keeps d₀ d) : Keeps d₀ (progressDone begin' d) :=
  .ite h (.ite (.ite (kbegin' _ h) h) (.ite h (.ite (.ite (keeps_commitStep (fun _ h => (kbegin' _ h)) h) h) (.ite h (.foldl
    (fun _ _ => keeps_sendParticle) (.update h))))))

theorem keeps_compareResults (h : Keeps d₀ d) : Keeps d₀ (compareResults d) := by
  unfold compareResults
  dsimp only
  split
  · exact .ite h (.ite (keeps_faultDetach h) (keeps_faultStep (.update h)))
  · exact h

theorem keeps_sendResult (h : Keeps d₀ d) : Keeps d₀ (sendResult d) :=
  .ite h (.ite (keeps_compareResults (.update h)) (keeps_sendTwin (keeps_ownResult (.update h))))

theorem keeps_devLocalDone {page : Option Doorbell} (h : Keeps d₀ d) : Keeps d₀ (devLocalDone page d) :=
  .ite h (.ite (keeps_toOwn (keeps_finishRun h)) (keeps_progressDone (fun _ => keeps_beginBoundary) (keeps_sendResult (.update
    (keeps_toOwn (keeps_finishRun h))))))

theorem keeps_twinAcked {f : Frame} (h : Keeps d₀ d) : Keeps d₀ (twinAcked f d) :=
  .ite (keeps_countStale h) (.update h)

theorem keeps_twinNaked {f : Frame} (h : Keeps d₀ d) : Keeps d₀ (twinNaked f d) :=
  .ite (keeps_countStale h) (by
  split
  · exact keeps_resendTwin h
  · exact h)

theorem keeps_forwardChunk {result : Bool} {port : Nat} {f : Frame} {bs : List Byte} (h : Keeps d₀ d) :
    Keeps d₀ (forwardChunk result port f bs d) :=
  .ite (keeps_sendTwin h) h

theorem keeps_chunkArrived {e : Nat} {t : TrigEntry} {g : Group} {s : Nat} {dest : Dest} {port : Nat} {f : Frame}
    {bs : List Byte} (h : Keeps d₀ d) : Keeps d₀ (chunkArrived e t g s dest port f bs d) :=
  .ite (keeps_failNow (keeps_forwardChunk (keeps_sendAnswer h))) (.ite (keeps_failNow (.ite_of_right (fun k =>
    (keeps_raiseStep k)) (by
  split
  · exact keeps_countsCame (keeps_setRun (keeps_forwardChunk (keeps_sendAnswer h)))
  · exact keeps_setRun (keeps_forwardChunk (keeps_sendAnswer h))))) (keeps_settle (.ite_of_right (fun k =>
      (keeps_raiseStep k)) (by
  split
  · exact keeps_countsCame (keeps_setRun (keeps_forwardChunk (keeps_sendAnswer h)))
  · exact keeps_setRun (keeps_forwardChunk (keeps_sendAnswer h))))))

theorem keeps_acceptFrame {kind e : Nat} {t : TrigEntry} {members : Nat} {dest : Dest} {port : Nat} {f : Frame}
    {arrive : List Byte → Device → Device} (karrive : ∀ (a : List Byte) (a_1 : Device),
  Keeps d₀ a_1 → Keeps d₀ (arrive a a_1)) (h : Keeps d₀ d) : Keeps d₀ (acceptFrame kind e t members dest port f arrive d) :=
  .ite (keeps_sendAnswer h) (.ite (keeps_discardFrame h) (.ite (.update (keeps_placeBytes h)) (.ite (karrive _ _ (.update
    (keeps_placeBytes h))) (keeps_sendAnswer (.update (keeps_placeBytes (keeps_freeBytes (keeps_placeBytes h))))))))

theorem keeps_dataFrame {port : Nat} {f : Frame} (h : Keeps d₀ d) : Keeps d₀ (dataFrame port f d) := by
  unfold dataFrame
  dsimp only
  split
  · split
    · exact keeps_countStale h
    · exact .ite (keeps_countStale h) (by
      split
      · exact .ite (keeps_failNow (keeps_sendAnswer h)) (keeps_countStale h)
      · exact .ite (keeps_acceptFrame (fun _ _ => keeps_chunkArrived) h) (keeps_acceptFrame (fun _ _ => keeps_chunkArrived) h))
  · exact keeps_countStale h

theorem keeps_devData {port : Fin 9} {f : Frame} (h : Keeps d₀ d) : Keeps d₀ (devData port f d) :=
  .ite h (.ite (keeps_discardFrame h) (.ite (keeps_twinData h) (.ite (keeps_countStale h) (keeps_dataFrame h))))

theorem keeps_ackChunk {port : Nat} {f : Frame} (h : Keeps d₀ d) : Keeps d₀ (ackChunk port f d) :=
  .ite (keeps_countStale h) (.ite (keeps_countStale h) (by
  split
  · exact h
  · exact .ite (keeps_serve (keeps_ownTurn (fun _ => keeps_exportAcked) (keeps_dropChunk h))) (keeps_settle
      (keeps_dropChunk h))))

theorem keeps_devAck {port : Fin 9} {f : Frame} (h : Keeps d₀ d) : Keeps d₀ (devAck port f d) :=
  .ite h (.ite (keeps_discardFrame h) (.ite (keeps_twinAcked h) (.ite (by
  split
  · exact .update h
  · exact h) (keeps_ackChunk h))))

theorem keeps_devNak {port : Fin 9} {f : Frame} (h : Keeps d₀ d) : Keeps d₀ (devNak port f d) :=
  .ite h (.ite (keeps_discardFrame h) (.ite (keeps_twinNaked h) (.ite_of_left (keeps_countStale h) (fun k => (.ite k (by
  split
  · exact keeps_resendChunk h
  · exact h))))))

theorem keeps_transportFailure {id : Nat} {t : TxChunk} (h : Keeps d₀ d) : Keeps d₀ (transportFailure id t d) :=
  .ite (keeps_serve (keeps_ownTurn (fun _ => keeps_exportChunkFailed) (keeps_dropChunk h))) (.ite (keeps_serve
    (keeps_dropChunk h)) (keeps_failNow (keeps_dropChunk h)))

theorem keeps_twinRetry {id : Nat} (h : Keeps d₀ d) : Keeps d₀ (twinRetry id d) := by
  unfold twinRetry
  split
  · exact .ite (keeps_resendTwin h) h
  · exact h

theorem keeps_devTransportRetryTimeout {id : Nat} (h : Keeps d₀ d) : Keeps d₀ (devTransportRetryTimeout id d) := by
  unfold devTransportRetryTimeout
  split
  · exact keeps_twinRetry h
  · exact .ite h (.ite (keeps_resendChunk h) (keeps_transportFailure h))

theorem keeps_planeDown {port : Nat} (h : Keeps d₀ d) : Keeps d₀ (planeDown port d) :=
  .foldl (fun _ _ => keeps_addAnswer) h

theorem keeps_devPortDown {port : Fin 8} (h : Keeps d₀ d) : Keeps d₀ (devPortDown port d) :=
  .ite h (keeps_settle (keeps_planeDown (keeps_moveChunks (.update h))))

theorem keeps_devContributionFold {entry : Fin 4096} {rank chunk : Nat} (h : Keeps d₀ d) :
    Keeps d₀ (devContributionFold entry rank chunk d) := by
  unfold devContributionFold
  dsimp only
  split
  · exact h
  · split
    · exact h
    · exact .ite (keeps_settle (keeps_foldChunk h)) h

theorem keeps_planeFrame {len : Nat} {f : Frame} {act : Device → Device} (kact : ∀ (a : Device), Keeps d₀ a → Keeps d₀ (act a))
    (h : Keeps d₀ d) : Keeps d₀ (planeFrame len f act d) :=
  .ite h (.ite (keeps_discardFrame h) (.ite (keeps_countStale h) (kact _ h)))

theorem keeps_planeAnswer {port : Nat} {grant : Bool} {f : Frame} (h : Keeps d₀ d) : Keeps d₀ (planeAnswer port grant f d) :=
  .ite (keeps_settle (keeps_addAnswer h)) (keeps_countStale h)

theorem keeps_devOredGrant {port : Fin 8} {f : Frame} (h : Keeps d₀ d) : Keeps d₀ (devOredGrant port f d) :=
  keeps_planeFrame (fun _ h => (.ite (keeps_discardFrame h) (keeps_planeAnswer h))) h

theorem keeps_devOredRefuse {port : Fin 8} {f : Frame} (h : Keeps d₀ d) : Keeps d₀ (devOredRefuse port f d) :=
  keeps_planeFrame (fun _ h => (.ite (keeps_discardFrame h) (keeps_planeAnswer h))) h

theorem keeps_devOredAnswerTimeout {entry : Fin 4096} (h : Keeps d₀ d) : Keeps d₀ (devOredAnswerTimeout entry d) := by
  unfold devOredAnswerTimeout
  dsimp only
  split
  · exact h
  · split
    · exact h
    · exact .ite h (keeps_settle (keeps_decide8 (keeps_setRun h)))

theorem keeps_resultArrived {e port : Nat} {f : Frame} {bs : List Byte} (h : Keeps d₀ d) :
    Keeps d₀ (resultArrived e port f bs d) :=
  keeps_settle (keeps_raiseStep (keeps_setRun (keeps_forwardChunk (keeps_sendAnswer h))))

theorem keeps_resultFrame {port : Nat} {f : Frame} (h : Keeps d₀ d) : Keeps d₀ (resultFrame port f d) := by
  unfold resultFrame
  dsimp only
  split
  · exact .ite (keeps_countStale h) (.ite (.ite (keeps_failNow h) (keeps_countStale h)) (by
    split
    · exact keeps_acceptFrame (fun _ _ => keeps_resultArrived) h
    · exact keeps_countStale h))
  · exact keeps_countStale h

theorem keeps_devOredResult {port : Fin 8} {f : Frame} (h : Keeps d₀ d) : Keeps d₀ (devOredResult port f d) :=
  keeps_planeFrame (fun _ => keeps_resultFrame) h

theorem keeps_devCollectiveProgressTimeout {entry : Fin 4096} (h : Keeps d₀ d) :
    Keeps d₀ (devCollectiveProgressTimeout entry d) :=
  .ite (keeps_failNow h) h

theorem keeps_devCollFail {pin : ParticleIn} (h : Keeps d₀ d) : Keeps d₀ (devCollFail pin d) :=
  .ite h (keeps_receiveParticle (fun _ _ => keeps_failNow) h)

theorem keeps_devStepStart {pin : ParticleIn} {page : Option Doorbell} (h : Keeps d₀ d) : Keeps d₀ (devStepStart pin page d) :=
  .ite h (keeps_receiveParticle (fun _ _ h => (.ite (keeps_beginBoundary (.update h)) (.update h))) h)

theorem keeps_devStepDone {pin : ParticleIn} {page : Option Doorbell} (h : Keeps d₀ d) : Keeps d₀ (devStepDone pin page d) :=
  .ite h (keeps_receiveParticle (fun _ _ h => (.ite (.ite (keeps_tryReady (.update h)) h) (.ite (keeps_faultStep h)
    (keeps_progressDone (fun _ => keeps_beginBoundary) (.update h))))) h)

theorem keeps_abandonAfter {gen : Nat} (h : Keeps d₀ d) : Keeps d₀ (abandonAfter gen d) :=
  .update h

theorem keeps_memberAbort {n : Nat} {page : Option Doorbell} (h : Keeps d₀ d) : Keeps d₀ (memberAbort n page d) :=
  .ite (keeps_abandonAfter h) (.ite (keeps_sendWant (keeps_resumeJob (keeps_toOwn h))) (keeps_beginOps h))

theorem keeps_leadAbort (h : Keeps d₀ d) : Keeps d₀ (leadAbort d) :=
  .ite (keeps_restartBegin h) (keeps_faultStep h)

theorem keeps_devStepAbort {pin : ParticleIn} {page : Option Doorbell} (h : Keeps d₀ d) : Keeps d₀ (devStepAbort pin page d) :=
  .ite h (keeps_receiveParticle (fun _ _ h => (.ite (keeps_leadAbort h) (keeps_memberAbort h))) h)

theorem keeps_devStepWant {pin : ParticleIn} (h : Keeps d₀ d) : Keeps d₀ (devStepWant pin d) :=
  .ite h (keeps_receiveParticle (fun _ _ h => (.update h)) h)

theorem keeps_devStepWantRepeat (h : Keeps d₀ d) : Keeps d₀ (devStepWantRepeat d) :=
  .ite (keeps_sendWant (.update h)) h

theorem keeps_ackRecord {r : TwinRec} (h : Keeps d₀ d) : Keeps d₀ (ackRecord r d) :=
  .update (.foldl (fun _ _ => keeps_sendTwinAnswer) h)

theorem keeps_receiveTwin {gen : Nat} {r : TwinRec} {act : Device → Device}
    (kact : ∀ (a : Device), Keeps d₀ a → Keeps d₀ (act a)) (h : Keeps d₀ d) : Keeps d₀ (receiveTwin gen r act d) :=
  .ite h (.ite (keeps_countStale h) (kact _ (keeps_ackRecord h)))

theorem keeps_devHello {gen : Nat} {v : Hello} (h : Keeps d₀ d) : Keeps d₀ (devHello gen v d) :=
  keeps_receiveTwin (fun _ h => (.ite h (.ite (keeps_attachProgress (.update h)) (.update h)))) h

theorem keeps_keepSync {r : SyncRec} (h : Keeps d₀ d) : Keeps d₀ (keepSync r d) := by
  unfold keepSync
  refine keeps_adoptMirror (.update (.foldl (fun _ _ h => ?_) h))
  exact .ite (h.memory id (memWf_writeBytes _ _ _)) h.write

theorem keeps_devSync {gen : Nat} {r : SyncRec} (h : Keeps d₀ d) : Keeps d₀ (devSync gen r d) :=
  keeps_receiveTwin (fun _ h => (.ite h (.ite (keeps_takeSync h) (.ite h (keeps_keepSync h))))) h

theorem keeps_devResult {gen : Nat} {r : TwinResult} {page : Option Doorbell} (h : Keeps d₀ d) :
    Keeps d₀ (devResult gen r page d) :=
  keeps_receiveTwin (fun _ h => (.ite (.update h) (.ite (keeps_progressDone (fun _ => keeps_beginBoundary)
    (keeps_compareResults (.update h))) h))) h

theorem keeps_compareDigest {r : BoundaryRec} (h : Keeps d₀ d) : Keeps d₀ (compareDigest r d) := by
  unfold compareDigest
  split
  · exact .ite h (keeps_faultDetach h)
  · exact h

theorem keeps_devBoundary {gen : Nat} {r : BoundaryRec} {page : Option Doorbell} (h : Keeps d₀ d) :
    Keeps d₀ (devBoundary gen r page d) :=
  keeps_receiveTwin (fun _ h => (keeps_progressDone (fun _ => keeps_beginBoundary) (.ite (.ite_of_left
    (keeps_shadowBoundary h) (fun k => (keeps_faultDetach k))) (.ite (keeps_compareDigest h) (.update h))))) h

theorem keeps_devOrder {gen step : Nat} {items : List LogItem} (h : Keeps d₀ d) : Keeps d₀ (devOrder gen step items d) :=
  keeps_receiveTwin (fun _ h => (.ite h (.update (.ite (keeps_discardStep h) h)))) h

theorem keeps_forwarded {result : Bool} {port : Nat} {f : Frame} (h : Keeps d₀ d) : Keeps d₀ (forwarded result port f d) :=
  .ite (keeps_resultFrame (.ite (keeps_adoptGen h) h)) (keeps_dataFrame (.ite (keeps_adoptGen h) h))

theorem keeps_devForward {gen : Nat} {result : Bool} {port : Fin 8} {f : Frame} (h : Keeps d₀ d) :
    Keeps d₀ (devForward gen result port f d) :=
  .ite h (keeps_receiveTwin (fun _ h => (.ite (keeps_forwarded h) h)) h)

theorem keeps_devDetach {gen : Nat} {page : Option Doorbell} (h : Keeps d₀ d) : Keeps d₀ (devDetach gen page d) :=
  keeps_receiveTwin (fun _ h => (keeps_progressDone (fun _ => keeps_beginBoundary) (.ite (keeps_cleanDetach h) (.ite (.ite
    (.update (keeps_takeFree h)) (keeps_faultDetach (keeps_takeFree h))) (.update h))))) h

theorem keeps_devTwinWaitTimeout {page : Option Doorbell} (h : Keeps d₀ d) : Keeps d₀ (devTwinWaitTimeout page d) :=
  .ite h (keeps_progressDone (fun _ => keeps_beginBoundary) (keeps_twinGone h))

theorem keeps_devTwinHelloTimeout (h : Keeps d₀ d) : Keeps d₀ (devTwinHelloTimeout d) :=
  .ite (keeps_attachFail h) h

theorem keeps_devTwinPortDown {page : Option Doorbell} (h : Keeps d₀ d) : Keeps d₀ (devTwinPortDown page d) :=
  .ite h (.ite (keeps_progressDone (fun _ => keeps_beginBoundary) (keeps_twinGone (.update h))) (.update h))

theorem keeps_devTwinPortUp (h : Keeps d₀ d) : Keeps d₀ (devTwinPortUp d) :=
  .ite h (.update h)

theorem keeps_devDoorbellPoll {page : Option Doorbell} (h : Keeps d₀ d) : Keeps d₀ (devDoorbellPoll page d) :=
  .ite h (.ite (keeps_runBoundary (.update (keeps_readPage h))) (.ite (keeps_beginOps h) (keeps_readPage h)))

theorem keeps_takeFetched {f : Fetched} (h : Keeps d₀ d) : Keeps d₀ (takeFetched f d) :=
  .ite (.ite (.update h) (keeps_forRing (fun _ => keeps_answerQuery) h)) (keeps_sendWant (.update (keeps_fetchCopy h)))

theorem keeps_fetchDone {f : Fetched} (h : Keeps d₀ d) : Keeps d₀ (fetchDone f d) :=
  keeps_takeFetched (keeps_statusWrite (.update h))

theorem keeps_devDescriptorFetch {ring : Fin 64} {rd : FetchRead} (h : Keeps d₀ d) : Keeps d₀ (devDescriptorFetch ring rd d) :=
  .ite h (by
  split
  · exact keeps_stopRing h
  · exact keeps_fetchDone h)

theorem keeps_devDescriptor {op : Nat} {f : Fetched} (h : Keeps d₀ d) : Keeps d₀ (devDescriptor op f d) :=
  .ite h (keeps_fetchDone h)

theorem keeps_devRingRestart {v : W64} (h : Keeps d₀ d) : Keeps d₀ (devRingRestart v d) :=
  .ite (.update h) h

theorem keeps_bar2Events {es : List MemEvent} (h : Keeps d₀ d) : Keeps d₀ (bar2Events es d) :=
  keeps_eachEvent (fun _ _ _ => keeps_noteUncorrectable) h

theorem keeps_logExpiry (h : Keeps d₀ d) : Keeps d₀ (logExpiry d) :=
  .update h

theorem keeps_devCompletionTimeout {rd : HostRead} (h : Keeps d₀ d) : Keeps d₀ (devCompletionTimeout rd d) := by
  unfold devCompletionTimeout
  dsimp only
  split
  · exact .ite h (.ite (keeps_goFatal (.update h)) (.update h))
  · exact .ite (keeps_stepFault (keeps_logExpiry h)) h
  · exact .ite (keeps_setHifErr (keeps_logExpiry h)) h
  · exact .ite (keeps_stopRing (keeps_logExpiry h)) h
  · exact .ite (keeps_logExpiry h) h

theorem keeps_writeOnes {r : RegName} {w : W64} (h : Keeps d₀ d) : Keeps d₀ (writeOnes r w d) := by
  unfold writeOnes
  dsimp only
  split
  · exact .update h
  · exact keeps_devRingRestart h
  · exact .update h
  · exact .update h
  · exact .update h
  · exact .update h
  · exact .ite (keeps_setQueue h) h
  · exact .update h
  · exact h

theorem keeps_clearStatusPage (h : Keeps d₀ d) : Keeps d₀ (clearStatusPage d) :=
  keeps_emit h

theorem keeps_runLockChecks (h : Keeps d₀ d) : Keeps d₀ (runLockChecks d) := by
  unfold runLockChecks
  split
  · exact keeps_clearStatusPage ⟨h.regs, h.fuses, h.burn, fun _ => rfl, h.active, h.canonical⟩
  · exact .update h

theorem keeps_tryLock (h : Keeps d₀ d) : Keeps d₀ (tryLock d) :=
  .ite (keeps_runLockChecks (.update h)) h

theorem keeps_devCfgLock (h : Keeps d₀ d) : Keeps d₀ (devCfgLock d) :=
  .ite h (keeps_tryLock (.update h))

theorem keeps_devDigestLatch {part : RegPart} (h : Keeps d₀ d) : Keeps d₀ (devDigestLatch part d) :=
  .ite h (keeps_emit (.update h))

theorem keeps_advanceLoopback (h : Keeps d₀ d) : Keeps d₀ (advanceLoopback d) :=
  .ite h (.update h)

theorem keeps_beforeRead {r : RegName} {pool : PoolRead} (h : Keeps d₀ d) : Keeps d₀ (beforeRead r pool d) := by
  unfold beforeRead
  split
  · exact keeps_whenD (fun _ => keeps_poolRead) h
  · exact keeps_whenD (fun _ => keeps_poolRead) h
  · exact keeps_advanceLoopback h
  · exact keeps_advanceLoopback h
  · exact h

theorem keeps_devBar0SizeAccess {off size : Nat} {isWrite : Bool} {pool : PoolRead} (h : Keeps d₀ d) :
    Keeps d₀ (devBar0SizeAccess off size isWrite pool d) := by
  have sized : Keeps d₀ (setHifErr 0 d) := keeps_setHifErr h
  exact .ite h (.ite (.ite h (.ite (keeps_devDigestLatch h) (keeps_emit (.getD (.map fun _ => keeps_beforeRead h) h))))
    (.ite sized (keeps_emit sized)))

theorem keeps_devClear {r : RegName} (h : Keeps d₀ d) : Keeps d₀ (devClear r d) :=
  .ite (.update h) h

theorem keeps_bootError {e : Nat} (h : Keeps d₀ d) : Keeps d₀ (bootError e d) :=
  .update h

theorem keeps_romEvents {es : List MemEvent} (h : Keeps d₀ d) : Keeps d₀ (romEvents es d) :=
  keeps_bar2Events h

theorem keeps_copySegments {ss : List (Segment × List Byte)} (h : Keeps d₀ d) : Keeps d₀ (copySegments ss d) :=
  .foldl (fun _ _ h => keeps_romEvents h.write) h

theorem keeps_checkSegments {ss : List Segment} (h : Keeps d₀ d) : Keeps d₀ (checkSegments ss d).2 := by
  induction ss generalizing d with
  | nil => exact h
  | cons s t ih =>
    unfold checkSegments
    dsimp only
    split
    · exact keeps_romEvents h.touch
    · exact ih (keeps_romEvents h.touch)

theorem memWf_zeroFirmware {m : Mem} (wf : memWf m.bytes = true) : memWf (zeroFirmware m).bytes = true := by
  rw [memWf_iff] at wf ⊢
  exact ⟨wf.1.filter _, fun e he => wf.2 e (List.mem_filter.1 he).1⟩

theorem keeps_loadFails {e : Nat} (h : Keeps d₀ d) : Keeps d₀ (loadFails e d) := h.memory memWf_zeroFirmware id

theorem keeps_loadSegments {m : List Byte} {segments : Option (List (List Byte))} (h : Keeps d₀ d) :
    Keeps d₀ (loadSegments m segments d) := by
  unfold loadSegments
  dsimp only
  split
  · exact keeps_loadFails h
  · exact .ite (.update (keeps_checkSegments (keeps_copySegments h))) (keeps_loadFails (keeps_checkSegments
      (keeps_copySegments h)))

theorem keeps_runLoad {rd : LoadRead} (h : Keeps d₀ d) : Keeps d₀ (runLoad rd d) := by
  unfold runLoad
  split
  · exact keeps_loadFails h
  · exact .ite (keeps_loadFails h) (.ite (keeps_loadFails h) (.ite (keeps_loadFails h) (.ite (keeps_loadFails h)
      (keeps_loadSegments h))))

theorem keeps_devLoad {rd : LoadRead} (h : Keeps d₀ d) : Keeps d₀ (devLoad rd d) :=
  .ite h (by
  split
  · exact keeps_bootError h
  · exact keeps_bootError h
  · exact keeps_bootError h
  · exact keeps_bootError h
  · exact keeps_bootError h
  · exact .ite (keeps_bootError h) (keeps_runLoad h))

theorem keeps_devFirmwareRunning (h : Keeps d₀ d) : Keeps d₀ (devFirmwareRunning d) := by
  unfold devFirmwareRunning
  split
  · exact h
  · refine .ite h (keeps_tryLock (.update h ?_))
    split <;> rfl

theorem keeps_devReport (h : Keeps d₀ d) : Keeps d₀ (devReport d) :=
  .ite h (.ite (keeps_bootError h) (.ite (keeps_bootError h) (.ite (.update h) (keeps_writeReport h))))

theorem keeps_wipeCorrected {inside : Nat → Bool} {ws : List Nat} (h : Keeps d₀ d) : Keeps d₀ (wipeCorrected inside ws d) :=
  .foldl (fun _ _ => keeps_noteCorrected) h

theorem keeps_memoryWiped {inside : Nat → Bool} {bad : Found} {corrected : List Nat} {f : Bool → Wipe → Wipe}
    (h : Keeps d₀ d) : Keeps d₀ (memoryWiped inside bad corrected f d) :=
  .update (keeps_wipeCorrected (keeps_noteFound h))

theorem keeps_devHubDone {bad : Found} {corrected : List Nat} (h : Keeps d₀ d) : Keeps d₀ (devHubDone bad corrected d) :=
  .ite h (.update (keeps_memoryWiped h))

theorem keeps_wipePart {badBlock badHbm : Found} {correctedBlock correctedHbm : List Nat} {p : WipePart} (h : Keeps d₀ d) :
    Keeps d₀ (wipePart badBlock badHbm correctedBlock correctedHbm p d) := by
  unfold wipePart
  dsimp only
  split
  · exact keeps_whenD (fun _ => keeps_memoryWiped) h
  · exact keeps_whenD (fun _ => keeps_memoryWiped) h
  · exact .update h

theorem keeps_wipeEnds {cycles : Nat} (h : Keeps d₀ d) : Keeps d₀ (wipeEnds cycles d) :=
  .ite (keeps_tryLock (.update h)) h

theorem keeps_devWipeDone {badBlock badHbm : Found} {correctedBlock correctedHbm : List Nat} {cycles : Nat}
    {part : Option WipePart} (h : Keeps d₀ d) :
    Keeps d₀ (devWipeDone badBlock badHbm correctedBlock correctedHbm cycles part d) :=
  .ite h (keeps_wipeEnds (.foldl (fun _ _ => keeps_wipePart) h))

theorem keeps_withPlan {plan : List PlanWrite} (h : Keeps d₀ d) : Keeps d₀ (withPlan plan d) := by
  refine h.memory (memWf_foldl_writeRange _ _ _ _) fun wf => ?_
  rw [foldl_writeRange_spill]
  exact wf

theorem keeps_replayLeading {f : Fetched} (h : Keeps d₀ d) : Keeps d₀ (replayLeading f d) :=
  .ite (keeps_finishDesc (keeps_adoptGen (keeps_logDesc (.update h)))) (keeps_applyDescriptor (.update h))

theorem keeps_composition (h : Keeps d₀ d) : Keeps d₀ (composition d) := by
  unfold composition
  split
  · exact keeps_adoptDraft (keeps_replayDraft h)
  · exact .ite (keeps_updateCol (keeps_adoptDraft (keeps_replayDraft h))) (keeps_adoptDraft (keeps_composeNow h))
  · exact keeps_adoptDraft (keeps_composeNow h)

theorem keeps_loadTables (h : Keeps d₀ d) : Keeps d₀ (loadTables d) :=
  .update h

theorem keeps_beginRun {plan : List PlanWrite} {rows : List (Nat × Nat)} (h : Keeps d₀ d) : Keeps d₀ (beginRun plan rows d) :=
  keeps_settle (.foldl (fun _ _ => keeps_workWrite) (keeps_loadTables (keeps_updateCol h)))

theorem keeps_tellMirror (h : Keeps d₀ d) : Keeps d₀ (tellMirror d) :=
  .ite (keeps_sendTwin (.update h)) (.ite (.update h) h)

theorem keeps_orderStep (h : Keeps d₀ d) : Keeps d₀ (orderStep d) :=
  .ite (keeps_sendMembers h) h

theorem keeps_beginStep {plan : List PlanWrite} {rows : List (Nat × Nat)} (h : Keeps d₀ d) :
    Keeps d₀ (beginStep plan rows d) := by
  unfold beginStep
  dsimp only
  split
  · exact h
  · exact .ite h (.ite (keeps_faultNow (.update (.update (keeps_tellMirror (keeps_orderStep (.update (keeps_composition
      (.foldl (fun _ _ => keeps_replayLeading) (keeps_toOwn h))))))))) (keeps_beginRun (.update (keeps_tellMirror
      (keeps_orderStep (.update (keeps_composition (.foldl (fun _ _ => keeps_replayLeading) (keeps_toOwn h)))))))))

theorem keeps_beginSecond {plan : List PlanWrite} {rows : List (Nat × Nat)} (h : Keeps d₀ d) :
    Keeps d₀ (beginSecond plan rows d) :=
  .ite_of_left (keeps_finishRun h) (fun k => (.ite (keeps_beginRun (keeps_composition (keeps_swapRoles k))) h))

theorem keeps_devStepBegin {plan : List PlanWrite} {rows : List (Nat × Nat)} (h : Keeps d₀ d) :
    Keeps d₀ (devStepBegin plan rows d) :=
  .ite (keeps_beginSecond h) (.ite (keeps_beginStep h) h)

theorem keeps_racedBound {a : Nat} {bs : List Byte} (h : Keeps d₀ d) : Keeps d₀ (racedBound a bs d).2 := by
  unfold racedBound
  dsimp only
  split
  · exact keeps_takeFree h
  · exact h

theorem keeps_resolveBound {l : Loop} (h : Keeps d₀ d) : Keeps d₀ (resolveBound l d).2.2 := by
  unfold resolveBound
  dsimp only
  split
  · exact h
  · exact h
  · split
    · exact h
    · exact keeps_racedBound (keeps_unitRead h)

theorem keeps_resolveBounds {c : Clause} (h : Keeps d₀ d) : Keeps d₀ (resolveBounds c d).2 :=
  keeps_stepEvents (.foldl_snd_snd (fun _ _ h => (.foldl_snd_snd (fun _ _ => keeps_resolveBound) h)) h)

theorem keeps_pagedBoundsOk {xs : List IssuedOp} (h : Keeps d₀ d) : Keeps d₀ (pagedBoundsOk xs d).2 := by
  unfold pagedBoundsOk
  dsimp only
  split
  · exact h
  · exact keeps_readAll h

theorem keeps_installClause {c : Clause} {bounds : List (List Nat)} (h : Keeps d₀ d) : Keeps d₀ (installClause c bounds d) :=
  keeps_settle (.update h)

theorem keeps_devClauseIssue (h : Keeps d₀ d) : Keeps d₀ (devClauseIssue d) :=
  .ite h (by
  split
  · exact h
  · exact .ite (keeps_resolveBounds h) (.ite (.ite_of_left (keeps_pagedBoundsOk (keeps_resolveBounds h)) (fun k => (.ite
      (keeps_installClause k) (keeps_stepFault k)))) (keeps_stepFault (keeps_resolveBounds h))))

theorem keeps_setCounter {g : Nat} {c : TileCounter} (h : Keeps d₀ d) : Keeps d₀ (setCounter g c d) :=
  .update h

theorem keeps_setBlock {g : Nat} {b : BlockWork} (h : Keeps d₀ d) : Keeps d₀ (setBlock g b d) :=
  .update h

theorem keeps_updateTileStat {r : Nat} {f : TileStat → TileStat} (h : Keeps d₀ d) : Keeps d₀ (updateTileStat r f d) :=
  .update h

theorem keeps_takeHalf {v g : Nat} (h : Keeps d₀ d) : Keeps d₀ (takeHalf v g d) :=
  .update (keeps_setBlock (keeps_setCounter (keeps_setCounter h)))

theorem keeps_attempt {r g least again : Nat} {gs : List Nat} {seen : List SeenWord} (h : Keeps d₀ d) :
    Keeps d₀ (attempt r g least again gs seen d).2 := by
  have counted : Keeps d₀ (updateTileStat r (fun x => { x with casFail := bump20 x.casFail }) d) := keeps_updateTileStat h
  unfold attempt
  split
  · exact h
  · split
    · exact keeps_takeHalf h
    · dsimp only
      split
      · exact counted
      · split
        · exact keeps_takeHalf counted
        · split
          · exact counted
          · exact keeps_takeHalf counted

theorem keeps_blockSteal {g : Nat} {seen : List SeenWord} (h : Keeps d₀ d) : Keeps d₀ (blockSteal g seen d) :=
  .ite h (.ite (keeps_updateTileStat (by
  split
  · exact keeps_attempt h
  · exact h)) (keeps_setBlock (by
  split
  · exact keeps_attempt h
  · exact h)))

theorem keeps_devTileClaim {x : CtxId} {seen : List SeenWord} (h : Keeps d₀ d) : Keeps d₀ (devTileClaim x seen d) :=
  .ite h (.ite (.update (keeps_setCounter h)) (keeps_blockSteal (.update (keeps_setCounter h))))

theorem keeps_devRegionSteal {r : Fin 8} {b : Fin 16} {seen : List SeenWord} (h : Keeps d₀ d) :
    Keeps d₀ (devRegionSteal r b seen d) :=
  .ite h (.ite (keeps_updateTileStat (by
  split
  · exact keeps_attempt h
  · exact h)) (keeps_setBlock (by
  split
  · exact keeps_attempt h
  · exact h)))

theorem memWf_storeCell {x : CtxId} {area : Nat} {bs : List (Nat × List Byte)} {m : Memory} (wf : memWf m = true) :
    memWf (storeCell x area bs m) = true :=
  List.foldlRecOn bs _ (motive := fun m : Memory => memWf m = true) wf fun _ hm _ _ => memWf_writeBytes _ _ _ hm

theorem keeps_finishTile {x : CtxId} {ss : List (List IssuedOp)} {i : Issue} {k : Nat} {r : Run} (h : Keeps d₀ d) :
    Keeps d₀ (finishTile x ss i k r d) :=
  keeps_settle (keeps_handTile (h.memory id id memWf_storeCell))

theorem keeps_injectedMismatch {x : CtxId} (h : Keeps d₀ d) : Keeps d₀ (injectedMismatch x d) :=
  keeps_stepError (.update h)

theorem keeps_tileReads {rs : List (Nat × Nat)} (h : Keeps d₀ d) : Keeps d₀ (tileReads rs d) :=
  .foldl (fun _ _ h => (keeps_freeRaced (keeps_noteRead h))) h

theorem keeps_runTile {kind : OpKind} {x : CtxId} (h : Keeps d₀ d) : Keeps d₀ (runTile kind x d) := by
  have work {c : Clause} {ss : List (List IssuedOp)} {i : Issue} {k : Nat} :
      let r := ((evTile d c ss i k).run (startRun d.mem i.encoded d.freeCtr)).2
      Keeps d₀ { d with mem := r.mem, freeCtr := r.free } :=
    ⟨h.regs, h.fuses, h.burn, h.locked, h.active, fun wf =>
      have ⟨bytes, spill, cells⟩ := h.canonical wf
      have ran := tidy_evTile (startRun d.mem i.encoded d.freeCtr) ⟨bytes, spill⟩
      ⟨ran.1, ran.2, cells⟩⟩
  unfold runTile
  dsimp only
  split
  · refine .ite h (.ite (keeps_injectedMismatch h) ?_)
    exact .ite (keeps_tileReads (keeps_stepEvents work))
      (.ite (keeps_stepFault (keeps_tileReads (keeps_stepEvents work))) (keeps_finishTile (keeps_tileReads
        (keeps_stepEvents work))))
  · exact h

theorem keeps_devTileWatchdog {x : CtxId} (h : Keeps d₀ d) : Keeps d₀ (devTileWatchdog x d) :=
  .ite h (keeps_stepError (by
  split
  · exact keeps_takeFree h
  · exact h))

theorem keeps_devSamplePoint {i : Fin 64} (h : Keeps d₀ d) : Keeps d₀ (devSamplePoint i d) := by
  unfold devSamplePoint
  dsimp only
  split
  · exact h
  · exact .ite h (.ite (keeps_workRead h) (.ite (keeps_stepFault (keeps_workRead h)) (.ite_of_left (keeps_workRead
      (keeps_workRead h)) (fun k => (.update k)))))

theorem keeps_recordDraw {p : SamplePoint} {x : SampleJob} {index token : Nat} {nofinite : Bool} (h : Keeps d₀ d) :
    Keeps d₀ (recordDraw p x index token nofinite d) :=
  .ite (keeps_workWrite (.update h)) (.update h)

theorem keeps_devDraw {r : Fin 8} (h : Keeps d₀ d) : Keeps d₀ (devDraw r d) := by
  unfold devDraw
  dsimp only
  split
  · exact h
  · exact .ite h (by
    split
    · exact .ite_of_left (keeps_workRead h) (fun k => (keeps_recordDraw k))
    · exact .update h)

theorem keeps_devRegionDone {r : Fin 8} (h : Keeps d₀ d) : Keeps d₀ (devRegionDone r d) :=
  .ite h (.update h)

theorem keeps_bar2ReadRun {x : Tab Byte × Bool × Device} {r : Nat × List Byte} (h : Keeps d₀ x.2.2) :
    Keeps d₀ (bar2ReadRun x r).2.2 :=
  keeps_bar2Events h.touch

theorem keeps_bar2Read {a n : Nat} (h : Keeps d₀ d) : Keeps d₀ (bar2Read a n d) :=
  keeps_emit (.update (.ite (keeps_setHifErr (.update (.foldl_snd_snd (fun _ _ => keeps_bar2ReadRun) h))) (.update
    (.foldl_snd_snd (fun _ _ => keeps_bar2ReadRun) h))))

theorem keeps_bar2Run {r : Nat × List Byte} (h : Keeps d₀ d) : Keeps d₀ (bar2Run d r) :=
  keeps_bar2Events (keeps_noteRaced (.update h)).write

theorem keeps_bar2Write {a : Nat} {bs : List Byte} (h : Keeps d₀ d) : Keeps d₀ (bar2Write a bs d) :=
  .ite (keeps_setHifErr (.foldl (fun _ _ => keeps_bar2Run) h)) (.foldl (fun _ _ => keeps_bar2Run) h)

theorem keeps_bar2Do {op : Bar2Op} (h : Keeps d₀ d) : Keeps d₀ (bar2Do op d) := by
  unfold bar2Do
  split
  · exact keeps_bar2Read h
  · exact keeps_bar2Write h

theorem keeps_devBar2Access {op : Bar2Op} {found : Found} (h : Keeps d₀ d) : Keeps d₀ (devBar2Access op found d) :=
  .ite h (.ite (.update h) (keeps_bar2Do (keeps_noteFound h)))

theorem keeps_takeInterface {target index : Nat} (h : Keeps d₀ d) : Keeps d₀ (takeInterface target index d) := by
  unfold takeInterface
  dsimp only
  split
  · exact .update h
  · exact .update h
  · exact .update h
  · exact h

theorem keeps_startLoopback (h : Keeps d₀ d) : Keeps d₀ (startLoopback d) :=
  .ite (keeps_takeInterface (.update h)) (.update h)

theorem keeps_endLoopback {f : Test → Test} (h : Keeps d₀ d) : Keeps d₀ (endLoopback f d) :=
  keeps_tryLock (.foldl (fun _ _ h => (keeps_bar2Do (keeps_noteFound h))) (.update h))

theorem keeps_abortLoopback (h : Keeps d₀ d) : Keeps d₀ (abortLoopback d) :=
  .ite h (keeps_endLoopback (keeps_advanceLoopback h))

theorem keeps_loopbackCommands {start abort : Bool} (h : Keeps d₀ d) : Keeps d₀ (loopbackCommands start abort d) :=
  keeps_whenD (fun _ => keeps_abortLoopback) (keeps_whenD (fun _ => keeps_startLoopback) h)

theorem keeps_devAbort (h : Keeps d₀ d) : Keeps d₀ (devAbort d) :=
  .ite (keeps_abortLoopback h) h

theorem keeps_devLoopbackLock (h : Keeps d₀ d) : Keeps d₀ (devLoopbackLock d) :=
  .ite (.update h) h

theorem keeps_devLockLimit (h : Keeps d₀ d) : Keeps d₀ (devLockLimit d) :=
  .ite (keeps_endLoopback h) h

theorem keeps_devRunPhaseEnd {units errors corr : Nat} (h : Keeps d₀ d) : Keeps d₀ (devRunPhaseEnd units errors corr d) :=
  .ite (keeps_endLoopback h) h

theorem keeps_armError (h : Keeps d₀ d) : Keeps d₀ (armError d) := .ite (h.memory id id) (.ite (h.memory id id) h)

theorem keeps_devPwrEn {p54v : Bool} (h : Keeps d₀ d) : Keeps d₀ (devPwrEn p54v d) :=
  .ite (.update h) (keeps_emit (.update (keeps_emitAll (.update h))))

theorem keeps_devThermalLimit {i : Island} (h : Keeps d₀ d) : Keeps d₀ (devThermalLimit i d) :=
  .ite h (.update h)

theorem keeps_devLinkTrainingEnd {setup : Option LinkSetup} (h : Keeps d₀ d) : Keeps d₀ (devLinkTrainingEnd setup d) :=
  .ite h (keeps_sendPending (.update h))

theorem keeps_scrubBad {w : Nat} {stack : Bool} (h : Keeps d₀ d) : Keeps d₀ (scrubBad w stack d) :=
  .ite h (.update (keeps_noteUncorrectable h))

theorem keeps_devScrubRead {site : ScrubSite} {rd : WordRead} (h : Keeps d₀ d) : Keeps d₀ (devScrubRead site rd d) :=
  .ite h (keeps_eachEvent (fun _ _ _ h => keeps_scrubBad h) (keeps_noteFound h).touch)

theorem keeps_spdmExchange {stage : Spdm} {request response : List Byte} (h : Keeps d₀ d) :
    Keeps d₀ (spdmExchange stage request response d) :=
  keeps_emit (.update h)

theorem keeps_devGetVersion (h : Keeps d₀ d) : Keeps d₀ (devGetVersion d) :=
  .ite h (keeps_spdmExchange h)

theorem keeps_devGetCapabilities {msg : List Byte} (h : Keeps d₀ d) : Keeps d₀ (devGetCapabilities msg d) :=
  .ite h (.ite (keeps_spdmError h) (keeps_spdmExchange (keeps_takeFree h)))

theorem keeps_spdmRequest {code : Nat} {ready : Bool} {f : Device → Device} (kf : ∀ (a : Device), Keeps d₀ a → Keeps d₀ (f a))
    (h : Keeps d₀ d) : Keeps d₀ (spdmRequest code ready f d) :=
  .ite h (.ite (keeps_spdmError h) (.ite (keeps_spdmError h) (kf _ h)))

theorem keeps_devNegotiateAlgorithms {offersAsym offersHash : Bool} {msg : List Byte} (h : Keeps d₀ d) :
    Keeps d₀ (devNegotiateAlgorithms offersAsym offersHash msg d) :=
  keeps_spdmRequest (fun _ h => (.ite (keeps_spdmError h) (keeps_spdmExchange h))) h

theorem keeps_spdmAfter {code : Nat} {f : Device → Device} (kf : ∀ (a : Device), Keeps d₀ a → Keeps d₀ (f a))
    (h : Keeps d₀ d) : Keeps d₀ (spdmAfter code f d) :=
  keeps_spdmRequest (fun _ h => (kf _ (.update h))) h

theorem keeps_devGetDigests (h : Keeps d₀ d) : Keeps d₀ (devGetDigests d) :=
  keeps_spdmAfter (fun _ => keeps_emit) h

theorem keeps_devGetCertificate {slot off len : Nat} (h : Keeps d₀ d) : Keeps d₀ (devGetCertificate slot off len d) :=
  keeps_spdmAfter (fun _ h => (.ite (keeps_spdmError h) (.ite (keeps_spdmError h) (keeps_emit h)))) h

theorem keeps_devGetMeasurements {index : Nat} {signed : Bool} {nonce msg : List Byte} (h : Keeps d₀ d) :
    Keeps d₀ (devGetMeasurements index signed nonce msg d) :=
  keeps_spdmRequest (fun _ h => (.ite (keeps_spdmError h) (.ite (.update h) (keeps_answerMeasurements h)))) h

theorem keeps_devUnsupportedRequest {code : Nat} (h : Keeps d₀ d) : Keeps d₀ (devUnsupportedRequest code d) :=
  .ite h (keeps_spdmError h)

end Sys2Proof.Machine
end

section
/-!
PROOF. What every command keeps (R9, R24, R430, R474, R481): apart from resets, power and the end of a burn, a command keeps the
fuses, the lock and the ACTIVE set, and begins no burn but a forward one; the others settle the fuses and leave no burn.
-/
namespace Sys2Proof.Machine

/-! ### Setup words and burns -/

/-- A burn is forward: a higher security version, or a transition of R483. -/
def ForwardBurn (f : Fuses) : Burn → Prop
  | .svn n => f.svn ≤ n
  | .lifecycle t => (transition f.lifecycle t).isSome = true

/-- From `d₀` to `d` the fuses have stayed, no burn has begun but a forward one, CFG_LOCK has not been taken back, no cell has
become active, and memory has kept its canonical form. -/
structure Stays (d₀ d : Device) : Prop where
  fuses : d.fuses = d₀.fuses
  burn : d.boot.burn = d₀.boot.burn ∨ ∃ b, d.boot.burn = some b ∧ ForwardBurn d₀.fuses b
  locked : d₀.cfgLocked = true → d.cfgLocked = true
  active : ∀ k, d.active.getLsbD k = true → d₀.active.getLsbD k = true
  canonical : Canonical d₀ → Canonical d

/-- From `d₀` to `d` a burn may have ended in either way, none runs now, and memory has kept its canonical form. -/
structure Settles (d₀ d : Device) : Prop where
  fuses : FusesSettled d₀ d
  burn : d.boot.burn = none
  canonical : Canonical d₀ → Canonical d

variable {d₀ d e : Device}

theorem Keeps.stays (h : Keeps d₀ d) : Stays d₀ d := ⟨h.fuses, .inl h.burn, h.locked, h.active, h.canonical⟩

theorem Stays.trans (h : Stays d₀ d) (k : Stays d e) : Stays d₀ e where
  fuses := k.fuses.trans h.fuses
  burn := by
    rcases k.burn with same | ⟨b, begun, forward⟩
    · rw [same]
      exact h.burn
    · exact .inr ⟨b, begun, h.fuses ▸ forward⟩
  locked := k.locked ∘ h.locked
  active := fun i => h.active i ∘ k.active i
  canonical := k.canonical ∘ h.canonical

theorem Settles.keeps (h : Settles d₀ d) (k : Keeps d e) : Settles d₀ e where
  fuses := by
    unfold FusesSettled
    rw [k.fuses]
    exact h.fuses
  burn := k.burn.trans h.burn
  canonical := k.canonical ∘ h.canonical

theorem Keeps.settles (h : Keeps d₀ d) (k : Settles d e) : Settles d₀ e where
  fuses := by
    rcases k.fuses with same | ⟨b, ctr, runs, done⟩
    · exact .inl (same.trans h.fuses)
    · exact .inr ⟨b, ctr, h.burn ▸ runs, h.fuses ▸ done⟩
  burn := k.burn
  canonical := k.canonical ∘ h.canonical

/-! ### Register writes -/

theorem stays_regSet {r : RegName} {v : W64} : Stays d (regSet r v d) := ⟨rfl, .inl rfl, id, fun _ => id, id⟩

theorem stays_setBits {r : RegName} {mask : Nat} {v : W64} : Stays d (setBits r mask v d) := stays_regSet

theorem stays_writeFields {r : RegName} {part : RegPart} {v : W64} : Stays d (writeFields r part v d) := by
  have rw' : Stays d (if rwMask r &&& partMask part = 0 then d else setBits r (rwMask r &&& partMask part) (partWord part v) d) := by
    split
    · exact (Keeps.refl d).stays
    · exact stays_setBits
  have locks (x : Device) : Stays x (if rwlMask r &&& partMask part = 0 then x
      else if x.cfgLocked then { x with errs := { x.errs with writeIgnored := true } }
      else setBits r (rwlMask r &&& partMask part) (partWord part v) x) := by
    split
    · exact (Keeps.refl _).stays
    · split
      · exact (Keeps.refl _).update.stays
      · exact stays_setBits
  exact rw'.trans (locks _)

theorem stays_devStart {v : W64} : Stays d (devStart v d) := by
  unfold devStart
  split
  · exact stays_writeFields.trans (keeps_loopbackCommands (.refl _)).stays
  · exact (Keeps.refl d).stays

theorem stays_devArm {v : W64} : Stays d (devArm v d) := by
  unfold devArm
  split
  · exact stays_writeFields.trans (keeps_armError (.refl _)).stays
  · exact (Keeps.refl d).stays

/-! ### Burns that begin -/

theorem stays_begin {b : Burn} (forward : ForwardBurn d.fuses b) : Stays d { d with boot := { d.boot with burn := some b } } :=
  ⟨rfl, .inr ⟨b, rfl, forward⟩, id, fun _ => id, id⟩

/-- SVN_COMMIT burns a version above the fused one alone (R474). -/
theorem stays_devSvnCommit : Stays d (devSvnCommit d) := by
  have same := (Keeps.refl d).stays
  unfold devSvnCommit
  split
  · exact same
  · split
    · exact (keeps_bootError (.refl d)).stays
    · split
      · exact same
      next above =>
        refine stays_begin (Nat.le_of_lt ?_)
        simp only [Bool.or_eq_true, decide_eq_true_eq, not_or, Nat.not_le] at above
        exact above.1

/-- A life-cycle request burns a transition alone (R483). -/
theorem stays_devLcReq {target : BitVec 3} : Stays d (devLcReq target d) := by
  have same := (Keeps.refl d).stays
  have error {e : Nat} : Stays d (bootError e d) := (keeps_bootError (.refl d)).stays
  unfold devLcReq
  split
  · exact same
  · split
    · exact error
    · split
      · exact same
      · split
        · exact error
        next named =>
          split
          · refine stays_begin ?_
            obtain ⟨t, -, known⟩ := Option.bind_eq_some_iff.1 named
            obtain ⟨k, moves, pair⟩ := Option.map_eq_some_iff.1 known
            cases pair
            exact Option.isSome_iff_exists.2 ⟨_, moves⟩
          · exact error

/-! ### Burns that end, and resets -/

theorem settles_settleBurn : Settles d (settleBurn d) := by
  unfold settleBurn
  split
  next none' => exact ⟨.inl rfl, none', id⟩
  next b runs =>
    refine ⟨?_, rfl, id⟩
    by_cases even : (takeFree d).1 % 2 = 0
    · exact .inl (if_pos even)
    · exact .inr ⟨b, _, runs, if_neg even⟩

/-- A device after a reset has empty memory and no burn. -/
theorem settles_deviceAfter {power : Power} {pcie : Pcie} {cause : BitVec 7} {st : SelfTest} {life : Bool} {ctr : Nat}
    {out : List Emission} (h : FusesSettled d₀ d) : Settles d₀ { deviceAfter power pcie d.fuses cause st life ctr with out := out } :=
  ⟨h, rfl, fun _ => ⟨rfl, rfl, rfl⟩⟩

theorem settles_resetWith {bit : Nat} {st : SelfTest} {train life : Bool} : Settles d (resetWith bit st train life d) :=
  settles_deviceAfter settles_settleBurn.fuses

theorem settles_losePower (good : d.power.pwrGood = true) : Settles d (losePower d) := by
  simp only [losePower, good, Bool.not_true, Bool.false_eq_true, if_false]
  exact (settles_deviceAfter settles_settleBurn.fuses).keeps (keeps_emitAll (.refl _))

theorem settles_burn {b : Burn} (runs : d.boot.burn = some b) {ctr n : Nat} :
    Settles d { d with fuses := burnt d.fuses b ctr, freeCtr := n, boot := { d.boot with burn := none } } :=
  ⟨.inr ⟨b, ctr, runs, rfl⟩, rfl, id⟩

/-- What a command may do. -/
def Steady (d₀ d : Device) : Prop := Stays d₀ d ∨ Settles d₀ d

theorem Keeps.steady (h : Keeps d₀ d) : Steady d₀ d := .inl h.stays

theorem Steady.keeps (h : Steady d₀ d) (k : Keeps d e) : Steady d₀ e := h.imp (·.trans k.stays) (·.keeps k)

theorem steady_losePower : Steady d (losePower d) := by
  by_cases good : d.power.pwrGood = true
  · exact .inr (settles_losePower good)
  · rw [Bool.not_eq_true] at good
    simp only [losePower, good, Bool.not_false, if_true]
    exact (Keeps.refl d).steady

theorem steady_devPowerDown {p54v : Bool} : Steady d (devPowerDown p54v d) := by
  unfold devPowerDown
  refine steady_losePower.keeps ?_
  exact .ite (.update (.refl _)) (.ite (keeps_emit (.update (.refl _))) (.update (.refl _)))

theorem steady_devThermtrip : Steady d (devThermtrip d) := by
  unfold devThermtrip
  split
  · exact (Keeps.refl d).steady
  · exact steady_losePower.keeps (keeps_emit (.update (.refl _)))

theorem steady_whenD {c : Bool} {f : Device → Device} (h : Steady d (f d)) : Steady d (whenD c f d) := by
  unfold whenD
  split
  · exact h
  · exact (Keeps.refl d).steady

theorem steady_devBurnComplete {st : SelfTest} : Steady d (devBurnComplete st d) := by
  unfold devBurnComplete
  split
  · exact (Keeps.refl d).steady
  next b runs =>
    split
    · exact (Keeps.refl d).steady
    · have burn := settles_burn runs (ctr := d.freeCtr) (n := d.freeCtr + 32)
      dsimp only
      split
      · exact .inr burn
      · have none' : ∀ x : Device, x.boot.burn = none → settleBurn x = x := fun x h => by simp only [settleBurn, h]
        refine .inr ⟨?_, rfl, fun _ => ⟨rfl, rfl, rfl⟩⟩
        simp only [resetWith, none' _ burn.burn]
        exact burn.fuses

/-- LCS_BOOT_CTL without RESET. -/
theorem stays_bootCtlWrite {rom : RomInput} {w : W64} (off : w.getLsbD 2 = false) : Stays d (bootCtlWrite rom w d) := by
  simp only [bootCtlWrite, off, Bool.false_eq_true, if_false]
  split
  · exact (keeps_bootError (.refl d)).stays
  · split
    · exact (keeps_devLoad (.refl d)).stays
    · split
      · exact stays_devSvnCommit
      · split
        · exact (keeps_devReport (.refl d)).stays
        · split
          · exact stays_devLcReq
          · exact (Keeps.refl d).stays

theorem steady_bootCtlWrite {rom : RomInput} {w : W64} : Steady d (bootCtlWrite rom w d) := by
  cases off : w.getLsbD 2 with
  | false => exact .inl (stays_bootCtlWrite off)
  | true =>
    simp only [bootCtlWrite, off, if_true]
    split
    · exact (keeps_bootError (.refl d)).steady
    · split
      · exact (keeps_devLoad (.refl d)).steady
      · exact .inr settles_resetWith

theorem keeps_writeActions {r : RegName} {w : W64} {rom : RomInput} (other : r ≠ .lcsBootCtl) (h : Keeps d₀ d) :
    Keeps d₀ (writeActions r w rom d) := by
  unfold writeActions
  split
  · exact absurd rfl other
  · exact keeps_whenD (fun _ => keeps_devCfgLock) h
  · exact keeps_whenD (fun _ => keeps_flushQueue) (keeps_whenD (fun _ => keeps_dropRestQueue) (keeps_whenD (fun _ => keeps_devPop) h))
  · exact keeps_loopbackCommands h
  · exact keeps_whenD (fun _ => keeps_armError) h
  · exact keeps_whenD (fun _ => keeps_devClear) h

theorem stays_writeOnes {r : RegName} {part : RegPart} {v w : W64} : Stays d (writeOnes r w (writeFields r part v d)) :=
  stays_writeFields.trans (keeps_writeOnes (.refl _)).stays

theorem Stays.steady (h : Stays d₀ d) (k : Steady d e) (same : d.boot.burn = d₀.boot.burn) : Steady d₀ e := by
  rcases k with k | k
  · exact .inl (h.trans k)
  · refine .inr ⟨?_, k.burn, k.canonical ∘ h.canonical⟩
    rcases k.fuses with kept | ⟨b, ctr, runs, done⟩
    · exact .inl (kept.trans h.fuses)
    · exact .inr ⟨b, ctr, same ▸ runs, h.fuses ▸ done⟩

theorem writeOnes_burn {r : RegName} {part : RegPart} {v w : W64} :
    (writeOnes r w (writeFields r part v d)).boot.burn = d.boot.burn := by
  rw [(keeps_writeOnes (.refl _)).burn]
  have step : ∀ (mask : Nat) (w : W64) (x : Device), (setBits r mask w x).boot = x.boot := fun _ _ _ => rfl
  simp only [writeFields]
  repeat' split
  all_goals simp only [step]

theorem stays_devRegisterWrite {off : Nat} {part : RegPart} {v : W64} {rom : RomInput}
    (noReset : regAt off = some .lcsBootCtl → (partWord part v).getLsbD 2 = false) : Stays d (devRegisterWrite off part v rom d) := by
  unfold devRegisterWrite
  split
  · exact (Keeps.refl d).stays
  · split
    · exact (Keeps.refl d).stays
    next r here =>
      unfold writeRegister
      dsimp only
      split
      · exact (Keeps.refl d).stays
      · refine Stays.trans (stays_writeOnes (r := r) (part := part) (v := v) (w := partWord part v)) ?_
        by_cases boot : r = .lcsBootCtl
        · subst boot
          exact stays_bootCtlWrite (noReset here)
        · exact (keeps_writeActions boot (.refl _)).stays

theorem steady_devRegisterWrite {off : Nat} {part : RegPart} {v : W64} {rom : RomInput} :
    Steady d (devRegisterWrite off part v rom d) := by
  unfold devRegisterWrite
  split
  · exact (Keeps.refl d).steady
  · split
    · exact (Keeps.refl d).steady
    next r here =>
      unfold writeRegister
      dsimp only
      split
      · exact (Keeps.refl d).steady
      · refine Stays.steady (stays_writeOnes (r := r) (part := part) (v := v) (w := partWord part v)) ?_ writeOnes_burn
        by_cases boot : r = .lcsBootCtl
        · subst boot
          exact steady_bootCtlWrite
        · exact (keeps_writeActions boot (.refl _)).steady

/-! ### Commands -/

/-- SVN_COMMIT and LC_REQ, which begin a burn. -/
def beginsBurn : Instr → Bool
  | .svnCommit | .lcReq _ => true
  | _ => false

variable {c : Instr} {s t : State}

theorem lifted {f : Device → Device} (ran : lift f s = .next t) : t.dev = f (entry s) := (lift_next f s t ran).1

theorem keeps_of_lift {f : Device → Device} (ran : lift f s = .next t) (kept : Keeps (entry s) (f (entry s))) :
    Keeps (entry s) t.dev :=
  lifted ran ▸ kept

/-- Resets, power, burns and register writes aside, every command keeps. -/
theorem keeps_exec (ran : exec c s = .next t) (noReset : resetsOrBurns c = false) (noWrite : writesSetup c = false)
    (noBurn : beginsBurn c = false) : Keeps (entry s) t.dev := by
  have same := Keeps.refl (entry s)
  cases c with
  | modelLoad | sentenceLoad | variantLoad | reqSubmit | reqCancel | reqPause | reqResume | reqPriority | exportSlots
  | groupDefine | groupReform | jobRestart | twinAttach | twinDetach | stepLog | query =>
    exact keeps_of_lift ran (keeps_devDescriptor same)
  | doorbellPoll => exact keeps_of_lift ran (keeps_devDoorbellPoll same)
  | descriptorFetch => exact keeps_of_lift ran (keeps_devDescriptorFetch same)
  | stepBegin => exact keeps_of_lift ran (keeps_devStepBegin same)
  | clauseIssue => exact keeps_of_lift ran (keeps_devClauseIssue (keeps_noteFound same))
  | tileClaim => exact keeps_of_lift ran (keeps_devTileClaim same)
  | regionSteal => exact keeps_of_lift ran (keeps_devRegionSteal same)
  | matmul | dot | softmax | recomp | softgrad | vector => exact keeps_of_lift ran (keeps_runTile (keeps_noteFound same))
  | cvt => exact keeps_of_lift ran (keeps_devCvt same)
  | cvtq => exact keeps_of_lift ran (keeps_devCvtq same)
  | cvtd => exact keeps_of_lift ran (keeps_devCvtd same)
  | samplePoint => exact keeps_of_lift ran (keeps_devSamplePoint (keeps_noteFound same))
  | draw => exact keeps_of_lift ran (keeps_devDraw (keeps_noteFound same))
  | regionDone => exact keeps_of_lift ran (keeps_devRegionDone same)
  | localDone => exact keeps_of_lift ran (keeps_devLocalDone same)
  | boundaryActionResume => exact keeps_of_lift ran (keeps_devBoundaryActionResume same)
  | heldSubmitTimeout => exact keeps_of_lift ran (keeps_devHeldSubmitTimeout same)
  | stepStart => exact keeps_of_lift ran (keeps_devStepStart same)
  | stepDone => exact keeps_of_lift ran (keeps_devStepDone same)
  | stepAbort => exact keeps_of_lift ran (keeps_devStepAbort same)
  | stepWant => exact keeps_of_lift ran (keeps_devStepWant same)
  | stepWantRepeat => exact keeps_of_lift ran (keeps_devStepWantRepeat same)
  | stepDoneTimeout => exact keeps_of_lift ran (keeps_devStepDoneTimeout same)
  | readyWaitTimeout => exact keeps_of_lift ran (keeps_devReadyWaitTimeout same)
  | stepStartTimeout => exact keeps_of_lift ran (keeps_devStepStartTimeout same)
  | tierCopyDone => exact keeps_of_lift ran (keeps_devTierCopyDone (keeps_noteFound same))
  | requantisationDone => exact keeps_of_lift ran (keeps_devRequantisationDone (keeps_noteFound same))
  | data => exact keeps_of_lift ran (keeps_devData same)
  | ack =>
    simp only [exec, execAck] at ran
    exact keeps_of_lift ran (.ite (keeps_progressDone (fun _ => keeps_beginBoundary) (keeps_devAck same)) (keeps_devAck same))
  | dropRest => exact keeps_of_lift ran (keeps_whenD (fun _ => keeps_dropRestQueue) same)
  | flush => exact keeps_of_lift ran (keeps_whenD (fun _ => keeps_flushQueue) same)
  | hubCoreWatchdog => exact keeps_of_lift ran (keeps_whenD (fun _ => keeps_goFatal) same)
  | regionManagerWatchdog => exact keeps_of_lift ran (keeps_whenD (fun _ => keeps_fatalAt) same)
  | completionTimeout => exact keeps_of_lift ran (keeps_whenD (fun _ => keeps_devCompletionTimeout) same)
  | thermalLimitCleared =>
    simp only [exec, execThermalLimitCleared] at ran
    exact keeps_of_lift ran same.update
  | nak => exact keeps_of_lift ran (keeps_devNak same)
  | transportRetryTimeout => exact keeps_of_lift ran (keeps_devTransportRetryTimeout same)
  | particleRetryTimeout => exact keeps_of_lift ran (keeps_devParticleRetryTimeout same)
  | portDown => exact keeps_of_lift ran (keeps_devPortDown same)
  | portUp => exact keeps_of_lift ran (keeps_devPortUp same)
  | contributionFold => exact keeps_of_lift ran (keeps_devContributionFold same)
  | oredGrant => exact keeps_of_lift ran (keeps_devOredGrant same)
  | oredRefuse => exact keeps_of_lift ran (keeps_devOredRefuse same)
  | oredAnswerTimeout => exact keeps_of_lift ran (keeps_devOredAnswerTimeout same)
  | oredResult => exact keeps_of_lift ran (keeps_devOredResult same)
  | collectiveProgressTimeout => exact keeps_of_lift ran (keeps_devCollectiveProgressTimeout same)
  | collFail => exact keeps_of_lift ran (keeps_devCollFail same)
  | exportPageStart => exact keeps_of_lift ran (keeps_ownTurn (fun _ => keeps_devExportPageStart) (keeps_noteFound same))
  | creditWaitTimeout => exact keeps_of_lift ran (keeps_ownTurn (fun _ => keeps_devCreditWaitTimeout) same)
  | exportCredit => exact keeps_of_lift ran (keeps_devExportCredit same)
  | queuePacket => exact keeps_of_lift ran (keeps_devQueuePacket same)
  | drain => exact keeps_of_lift ran (keeps_devDrain same)
  | unreadTimeout => exact keeps_of_lift ran (keeps_devUnreadTimeout same)
  | pop => exact keeps_of_lift ran (keeps_devPop same)
  | hello => exact keeps_of_lift ran (keeps_devHello same)
  | sync => exact keeps_of_lift ran (keeps_devSync same)
  | result => exact keeps_of_lift ran (keeps_devResult same)
  | boundary => exact keeps_of_lift ran (keeps_devBoundary same)
  | order => exact keeps_of_lift ran (keeps_devOrder same)
  | forward => exact keeps_of_lift ran (keeps_devForward same)
  | detach => exact keeps_of_lift ran (keeps_devDetach same)
  | twinWaitTimeout => exact keeps_of_lift ran (keeps_devTwinWaitTimeout same)
  | twinHelloTimeout => exact keeps_of_lift ran (keeps_devTwinHelloTimeout same)
  | twinPortDown => exact keeps_of_lift ran (keeps_devTwinPortDown same)
  | tileWatchdog => exact keeps_of_lift ran (keeps_devTileWatchdog same)
  | linkRetryTimeout => exact keeps_of_lift ran (keeps_devLinkRetryTimeout same)
  | residueMismatch => exact keeps_of_lift ran (keeps_devResidueMismatch same)
  | scrubRead => exact keeps_of_lift ran (keeps_devScrubRead same)
  | cfgLock => exact keeps_of_lift ran (keeps_devCfgLock same)
  | load => exact keeps_of_lift ran (keeps_devLoad same)
  | firmwareRunning => exact keeps_of_lift ran (keeps_devFirmwareRunning same)
  | report => exact keeps_of_lift ran (keeps_devReport same)
  | hubDone => exact keeps_of_lift ran (keeps_devHubDone same)
  | wipeDone => exact keeps_of_lift ran (keeps_devWipeDone same)
  | pwrEn => exact keeps_of_lift ran (keeps_devPwrEn same)
  | thermalLimit => exact keeps_of_lift ran (keeps_devThermalLimit same)
  | abort => exact keeps_of_lift ran (keeps_devAbort same)
  | loopbackLock => exact keeps_of_lift ran (keeps_devLoopbackLock same)
  | lockLimit => exact keeps_of_lift ran (keeps_devLockLimit same)
  | runPhaseEnd => exact keeps_of_lift ran (keeps_devRunPhaseEnd same)
  | ringRestart => exact keeps_of_lift ran (keeps_devRingRestart same)
  | digestLatch => exact keeps_of_lift ran (keeps_devDigestLatch same)
  | errBlkUnderflowCntClear | errBlkNonfiniteCntClear | errAttnEmptyCntClear | errKvRewriteCntClear | errSampleNofiniteClear
  | errExpertDropCntClear | errStaleDiscardClear | errCorrCntClear | errMemCeClear | errMemUeClear | errQueParityClear
  | tileStatClear | fabXferStatClear | fabExportStatClear =>
    exact keeps_of_lift ran (keeps_devClear same)
  | bar2Access =>
    exact keeps_of_lift (lift_of_execBar2Access ran) (keeps_devBar2Access same)
  | getVersion => exact keeps_of_lift ran (keeps_devGetVersion same)
  | getCapabilities => exact keeps_of_lift ran (keeps_devGetCapabilities same)
  | negotiateAlgorithms => exact keeps_of_lift ran (keeps_devNegotiateAlgorithms same)
  | getDigests => exact keeps_of_lift ran (keeps_devGetDigests same)
  | getCertificate => exact keeps_of_lift ran (keeps_devGetCertificate same)
  | getMeasurements => exact keeps_of_lift ran (keeps_devGetMeasurements same)
  | linkTrainingEnd => exact keeps_of_lift ran (keeps_devLinkTrainingEnd same)
  | twinPortUp => exact keeps_of_lift ran (keeps_devTwinPortUp same)
  | unsupportedRequest => exact keeps_of_lift ran (keeps_devUnsupportedRequest same)
  | bar0SizeAccess => exact keeps_of_lift ran (keeps_devBar0SizeAccess same)
  | perstReset | hotReset | functionLevelReset | reset | carrierControllerReset | powerOnReset | pwrGoodLoss | thermtrip
  | powerDown | burnComplete => cases noReset
  | registerWrite | start | arm => cases noWrite
  | svnCommit | lcReq => cases noBurn

/-- Resets, power and burns aside, every command keeps the fuses, the lock and the ACTIVE set. -/
theorem stays_exec (ran : exec c s = .next t) (noReset : resetsOrBurns c = false)
    (noResetBit : ∀ off part v rom, c = .registerWrite off part v rom → regAt off = some .lcsBootCtl →
      (partWord part v).getLsbD 2 = false) : Stays (entry s) t.dev := by
  by_cases noWrite : writesSetup c = false
  · by_cases noBurn : beginsBurn c = false
    · exact (keeps_exec ran noReset noWrite noBurn).stays
    · cases c with
      | svnCommit => exact lifted ran ▸ stays_devSvnCommit
      | lcReq => exact lifted ran ▸ stays_devLcReq
      | _ => exact absurd rfl noBurn
  · cases c with
    | registerWrite off part v rom => exact lifted ran ▸ stays_devRegisterWrite (noResetBit off part v rom rfl)
    | start => exact lifted ran ▸ stays_devStart
    | arm => exact lifted ran ▸ stays_devArm
    | _ => exact absurd rfl noWrite

/-- SVN_COMMIT and LC_REQ write no register. -/
theorem regs_of_beginsBurn (ran : exec c s = .next t) (burns : beginsBurn c = true) : t.dev.regs = s.dev.regs := by
  have error (e : Nat) (d : Device) : (bootError e d).regs = d.regs := (keeps_bootError (.refl d)).regs
  cases c with
  | svnCommit =>
    rw [lifted (f := devSvnCommit) ran, devSvnCommit]
    split
    · rfl
    · split
      · exact error ..
      · split <;> rfl
  | lcReq target =>
    rw [lifted (f := devLcReq target) ran, devLcReq]
    split
    · rfl
    · split
      · exact error ..
      · split
        · rfl
        · split
          · exact error ..
          · split
            · rfl
            · exact error ..
  | _ => cases burns

theorem steady_exec (ran : exec c s = .next t) : Steady (entry s) t.dev := by
  have whole {bit : Nat} {st : SelfTest} {train life : Bool} : Steady (entry s) (resetWith bit st train life (entry s)) :=
    .inr settles_resetWith
  by_cases noReset : resetsOrBurns c = false
  · by_cases register : ∃ off part v rom, c = .registerWrite off part v rom
    · obtain ⟨off, part, v, rom, rfl⟩ := register
      exact lifted ran ▸ steady_devRegisterWrite
    · exact .inl (stays_exec ran noReset fun off part v rom h => (register ⟨off, part, v, rom, h⟩).elim)
  · cases c with
    | perstReset | hotReset | functionLevelReset | reset | carrierControllerReset => exact lifted ran ▸ steady_whenD whole
    | powerOnReset => exact lifted ran ▸ steady_whenD (.inr (settles_deviceAfter (.inl rfl)))
    | pwrGoodLoss => exact lifted ran ▸ steady_losePower
    | thermtrip => exact lifted ran ▸ steady_devThermtrip
    | powerDown => exact lifted ran ▸ steady_devPowerDown
    | burnComplete => exact lifted ran ▸ steady_devBurnComplete
    | _ => exact absurd rfl noReset

/-- A step that leaves the device as it is, or is one command on it. -/
theorem steady_step (ran : step s = .next t) : t.dev = s.dev ∨ Steady (entry s) t.dev := by
  cases waiting : s.pending with
  | nil =>
    simp only [step, waiting] at ran
    cases ran
    exact .inl rfl
  | cons c rest =>
    simp only [step, waiting] at ran
    exact .inr (steady_exec (s := { s with pending := rest }) ran)

/-- Settles O5: a command keeps memory, or is a reset, which empties it. -/
theorem memoryCanonicalKept : Obligations.MemoryCanonicalKept := by
  intro s t wf ran
  rcases steady_step ran with same | stays | settles
  · unfold MemoryCanonical
    rw [same]
    exact wf
  · exact stays.canonical wf
  · exact settles.canonical wf

theorem burnForward_iff : BurnForward s ↔ ∀ b, s.dev.boot.burn = some b → ForwardBurn s.dev.fuses b := by
  unfold BurnForward
  cases h : s.dev.boot.burn with
  | none => simp
  | some b => cases b <;> simp [ForwardBurn]

/-- A forward burn advances the fuses. -/
theorem fusesAdvance_burnt {b : Burn} {ctr : Nat} (forward : ForwardBurn s.dev.fuses b)
    (done : t.dev.fuses = burnt s.dev.fuses b ctr) : FusesAdvance s t := by
  unfold FusesAdvance
  rw [done]
  cases b with
  | svn n => exact ⟨.inl rfl, forward⟩
  | lifecycle l => cases l <;> exact ⟨.inr forward, Nat.le_refl _⟩

/-- Settles O9: only a forward burn that completes changes the fuses. -/
theorem fusesOnlyAdvance : Obligations.FusesOnlyAdvance := by
  intro s t forward ran
  rw [burnForward_iff] at forward ⊢
  rcases steady_step ran with same | stays | settles
  · rw [same]
    exact ⟨forward, .inl (by rw [same]), Nat.le_of_eq (by rw [same])⟩
  · have fuses : t.dev.fuses = s.dev.fuses := stays.fuses
    refine ⟨fun b runs => ?_, .inl (by rw [fuses]), Nat.le_of_eq (by rw [fuses])⟩
    rw [fuses]
    rcases stays.burn with kept | ⟨b', begun, forward'⟩
    · exact forward b (kept ▸ runs)
    · cases runs.symm.trans begun
      exact forward'
  · refine ⟨fun b runs => ?_, ?_⟩
    · rw [settles.burn] at runs
      cases runs
    · rcases settles.fuses with same | ⟨b, ctr, runs, done⟩
      · have same : t.dev.fuses = s.dev.fuses := same
        exact ⟨.inl (by rw [same]), Nat.le_of_eq (by rw [same])⟩
      · exact fusesAdvance_burnt (forward b runs) done

/-- Settles O10: every command but those keeps, and a write of registers leaves the fuses, the lock and the ACTIVE set. -/
theorem setupChangesOnlyByWrites : Obligations.SetupChangesOnlyByWrites := by
  intro c s t ran noReset noResetBit
  have stays := stays_exec ran noReset noResetBit
  refine ⟨fun noWrite => ?_, stays.fuses, stays.locked, stays.active⟩
  by_cases noBurn : beginsBurn c = false
  · exact (keeps_exec ran noReset noWrite noBurn).regs
  · exact regs_of_beginsBurn ran (Bool.not_eq_false _ ▸ noBurn)

end Sys2Proof.Machine
end

section
/-!
PROOF. Resets, power, throttling, and the link (R13, R14, R345, R462 to R464, R510, R521 to R524).
-/
namespace Sys2Proof.Machine

variable {d : Device}

/-- A lifted effect ends in the state that it makes of the device. -/
theorem lift_of_eq {f : Device → Device} {s : State} {d' : Device} (makes : f (entry s) = d') :
    lift f s = .next { s with dev := d' } := by
  rw [← makes]
  rfl

/-! ### Resets -/

theorem afterReset_deviceAfter {power : Power} {pcie : Pcie} {fuses : Fuses} {cause : BitVec 7} {st : SelfTest} {life : Bool}
    {ctr : Nat} {out : List Emission} (sent : pcie.pending = 0#64) :
    AfterReset { deviceAfter power pcie fuses cause st life ctr with out := out } := by
  unfold AfterReset
  simp [deviceAfter, bootAfter, wipeDone, Wipe.none, sent]

/-- What a reset leaves speaks neither of the pins and the link, nor of what left the device. -/
theorem afterReset_update {power : Power} {out : List Emission} (h : AfterReset d) :
    AfterReset { d with power := power, out := out } := h

theorem settleBurn_power : (settleBurn d).power = d.power := by
  unfold settleBurn
  split <;> rfl

theorem pending_afterReset {train : Bool} {p : Pcie} : (if train then Pcie.set else p.afterReset).pending = 0#64 := by
  cases train <;> rfl

theorem afterReset_resetWith {bit : Nat} {st : SelfTest} {train life : Bool} : AfterReset (resetWith bit st train life d) :=
  afterReset_deviceAfter pending_afterReset

/-- A reset whose guard holds, by whichever command it comes. -/
theorem resets_of_lift {s : State} {guard : Device → Bool} {bit : Nat} {st : SelfTest} {train : Bool}
    (open' : guard (entry s) = true) :
    ∃ t, lift (fun d => whenD (guard d) (resetWith bit st train false) d) s = .next t ∧ t.pending = s.pending ∧ AfterReset t.dev ∧
      t.dev.out = [] ∧ t.dev.boot.resetCause = (1#7 <<< bit) ||| (if resetBusy s.dev then s.dev.boot.resetCause else 0#7) ∧
      t.dev.boot.selfTest = st ∧ t.dev.boot.wipe.lifecycle = false ∧
      t.dev.power = { s.dev.power with linkUp := !train && s.dev.power.linkUp, inReset := false } ∧ FusesSettled s.dev t.dev := by
  refine ⟨{ s with dev := resetWith bit st train false (entry s) }, ?_, rfl, afterReset_resetWith, rfl, rfl, rfl, rfl, ?_,
    settles_resetWith.fuses⟩
  · exact lift_of_eq (if_pos open')
  · simp only [resetWith, deviceAfter, settleBurn_power]
    rfl

theorem devBurnComplete_lifecycle {st : SelfTest} {l : Lifecycle} (on : powered d = true)
    (burns : d.boot.burn = some (.lifecycle l)) : devBurnComplete st d = resetWith 6 st false true { d with
      fuses := burnt d.fuses (.lifecycle l) d.freeCtr, freeCtr := d.freeCtr + 32, boot := { d.boot with burn := none } } := by
  simp only [devBurnComplete, burns, on, Bool.not_true, Bool.false_eq_true, if_false]

theorem devBurnComplete_svn {st : SelfTest} {n : Nat} (on : powered d = true) (burns : d.boot.burn = some (.svn n)) :
    devBurnComplete st d = { d with
      fuses := { d.fuses with svn := n }, freeCtr := d.freeCtr + 32, boot := { d.boot with burn := none } } := by
  simp only [devBurnComplete, burns, on, Bool.not_true, Bool.false_eq_true, if_false, burnt]

/-- Settles O11: each source's guard holds, and the reset writes its state out. -/
theorem resetsDiscard : Obligations.ResetsDiscard := by
  refine ⟨?_, fun s st => ⟨fun good held => ?_, fun l on burns => ?_⟩⟩
  · rintro s st c bit train (⟨rfl, rfl, rfl, on⟩ | ⟨rfl, rfl, rfl, on, free⟩ | ⟨rfl, rfl, rfl, on⟩ | ⟨rfl, rfl, rfl, on⟩ |
      ⟨rfl, rfl, rfl, on⟩)
    · exact resets_of_lift (guard := powered) on
    · exact resets_of_lift (guard := fun d => powered d && !pcieTest d) (by
        show (powered s.dev && !pcieTest s.dev) = true
        rw [on, free]
        rfl)
    · exact resets_of_lift (guard := linked) on
    · exact resets_of_lift (guard := linked) on
    · exact resets_of_lift (guard := powered) on
  · refine ⟨_, rfl, ?_⟩
    simp only [whenD, good, held, Bool.and_self, if_true]
    exact ⟨afterReset_deviceAfter rfl, rfl⟩
  · exact ⟨_, lift_of_eq (devBurnComplete_lifecycle (d := entry s) on burns), afterReset_resetWith, rfl⟩

/-! ### Power -/

/-- Loss of power, with what a thermal trip or PWR_EN then does to the pins. -/
theorem losePower_good (good : d.power.pwrGood = true) :
    AfterReset (losePower d) ∧ FusesSettled d (losePower d) ∧
      (losePower d).out = d.out ++ [.pin pinPwrGood false, .rail 3 false, .rail 2 false, .rail 1 false, .rail 0 false] ∧
      (losePower d).power = { d.power with pwrGood := false, rails := 0, inReset := false, linkUp := false, throttled := [] } := by
  have settled := (settles_losePower good).fuses
  revert settled
  simp only [losePower, good, Bool.not_true, Bool.false_eq_true, if_false]
  refine fun settled => ⟨afterReset_update (afterReset_deviceAfter rfl), settled, rfl, ?_⟩
  rw [emitAll_power]
  simp only [deviceAfter, settleBurn_power]

theorem losePower_off (off : d.power.pwrGood = false) : losePower d = d := by
  simp only [losePower, off, Bool.not_false, if_true]

theorem devPowerDown_off (d : Device) : devPowerDown true d = { losePower d with
    power := { (losePower d).power with pwrEn := false, thermtrip := false }
    out := (losePower d).out ++ if d.power.thermtrip then [.pin pinThermtrip true] else [] } := by
  simp only [devPowerDown, Bool.not_true, Bool.false_eq_true, if_false]
  split
  · rfl
  · simp only [List.append_nil]

theorem devPowerDown_p54v (d : Device) :
    devPowerDown false d = { losePower d with power := { (losePower d).power with p54v := false } } := rfl

theorem sendPending_none (none' : d.pcie.pending = 0#64) : sendPending d = d := by
  have still : ∀ vs : List Nat, vs.foldl (fun d v =>
      if d.pcie.pending.getLsbD v then
        msix v { d with pcie := { d.pcie with pending := d.pcie.pending &&& ~~~(1#64 <<< v) } }
      else d) d = d := by
    intro vs
    induction vs with
    | nil => rfl
    | cons v vs ih => simpa only [List.foldl_cons, none', BitVec.getLsbD_zero, Bool.false_eq_true, if_false] using ih
  exact still _

/-- Settles O12: power comes and goes as the pins say, a throttled island is on the list, and a trained link serves. -/
theorem powerAndIslandsChange : Obligations.PowerAndIslandsChange := by
  refine ⟨⟨fun s p54v => ⟨?_, ?_, ?_⟩, ?_⟩, fun s => ⟨?_, ?_⟩, fun s i => ⟨?_, ?_, rfl⟩, fun s setup on => ⟨?_, ?_⟩⟩
  · rintro off cool rfl
    simp [exec, execPwrEn, devPwrEn, off, cool, emitAll, emit]
    exact ⟨rfl, rfl⟩
  · intro off stays
    rcases stays with trip | rfl
    · simp [exec, execPwrEn, devPwrEn, off, trip, entry]
    · simp [exec, execPwrEn, devPwrEn, off, entry]
  · intro good
    simp [exec, execPwrEn, devPwrEn, good, entry]
  · intro s st good held
    refine ⟨_, rfl, rfl, ?_⟩
    simp only [whenD, good, held, Bool.and_self, if_true]
    exact ⟨afterReset_deviceAfter rfl, rfl, rfl, rfl, rfl⟩
  · intro good
    have lost := losePower_good (d := entry s) good
    obtain ⟨after, settled, out, power⟩ := lost
    have trip : devThermtrip (entry s) = emit (.pin pinThermtrip false) { losePower (entry s) with
        power := { (losePower (entry s)).power with thermtrip := true } } := by
      simp only [devThermtrip, show (entry s).power.pwrGood = true from good, Bool.not_true, Bool.false_eq_true, if_false]
    refine ⟨⟨_, rfl, rfl, after, settled, out, power⟩, ⟨_, lift_of_eq trip, rfl, afterReset_update after, settled, ?_, ?_⟩,
      ⟨_, lift_of_eq (devPowerDown_off (entry s)), rfl, afterReset_update after, settled, ?_, ?_⟩,
      ⟨_, lift_of_eq (devPowerDown_p54v (entry s)), rfl, afterReset_update after, settled, out, ?_⟩⟩
    · rw [emit_out, out]
      rfl
    · rw [emit_power, power]
      rfl
    · rw [out]
      rfl
    · rw [power]
      rfl
    · rw [power]
      rfl
  · intro off
    have still := losePower_off (d := entry s) off
    refine ⟨lift_of_eq still, lift_of_eq ?_, lift_of_eq ?_, lift_of_eq ?_⟩
    · simp only [devThermtrip, show (entry s).power.pwrGood = false from off, Bool.not_false, if_true]
    · rw [devPowerDown_off, still]
      rfl
    · rw [devPowerDown_p54v, still]
      rfl
  · intro good may new
    simp [exec, execThermalLimit, devThermalLimit, good, may, new, entry]
  · intro never
    simp [exec, execThermalLimit, devThermalLimit, never, entry]
  · intro test
    refine lift_of_eq ?_
    simp only [devLinkTrainingEnd, show pcieTest (entry s) = true from test, Bool.or_true, if_true]
  · intro free none'
    refine ⟨(setup.map fun x => trained x s.dev.pcie).getD s.dev.pcie, lift_of_eq ?_, ?_, ?_⟩
    · simp only [devLinkTrainingEnd, show pcieTest (entry s) = false from free, show powered (entry s) = true from on,
        Bool.not_true, Bool.or_self, Bool.false_eq_true, if_false]
      refine sendPending_none ?_
      cases setup with
      | none => exact none'
      | some x => exact none'
    · rintro rfl
      rfl
    · rintro x rfl
      simp only [Option.map_some, Option.getD_some, trained, List.contains_iff_mem]
      refine ⟨rfl, trivial, ?_, ?_⟩
      · intro kept
        rw [kept]
        rfl
      · intro h given
        simp only [given, Option.map_some, Option.getD_some, hostSettings, List.contains_iff_mem, Bool.and_eq_true,
          decide_eq_true_eq]

end Sys2Proof.Machine
end

section
/-!
PROOF. Boot: loads, firmware that starts, burns, and the report (R471 to R484).
-/
namespace Sys2Proof.Machine

variable {d : Device}

/-! ### What the ROM's reads and writes of memory leave -/

/-- From `a` to `b` neither boot state nor a setup word nor a fuse has changed. -/
def SameBoot (a b : Device) : Prop := b.boot = a.boot ∧ b.regs = a.regs ∧ b.fuses = a.fuses

theorem SameBoot.trans {a b c : Device} (h : SameBoot a b) (k : SameBoot b c) : SameBoot a c :=
  ⟨k.1.trans h.1, k.2.1.trans h.2.1, k.2.2.trans h.2.2⟩

theorem sameBoot_foldl {α : Type} {f : Device → α → Device} (step : ∀ d x, SameBoot d (f d x)) (xs : List α) (d : Device) :
    SameBoot d (xs.foldl f d) := by
  induction xs generalizing d with
  | nil => exact ⟨rfl, rfl, rfl⟩
  | cons x xs ih => exact (step d x).trans (ih _)

theorem sameBoot_postEvent (k : EventKind) (level block cell step info : Nat) (d : Device) :
    SameBoot d (postEvent k level block cell step info d) := by
  rw [postEvent_eq]
  exact ⟨rfl, rfl, rfl⟩

theorem sameBoot_romEvents (es : List MemEvent) (d : Device) : SameBoot d (romEvents es d) := by
  refine sameBoot_foldl (fun d e => ?_) _ d
  cases e with
  | corrected w => exact sameBoot_postEvent ..
  | stackCorrected w =>
    dsimp only [countOdecc]
    split <;> exact ⟨rfl, rfl, rfl⟩
  | uncorrectable w stack => exact ⟨rfl, rfl, rfl⟩

theorem sameBoot_copySegments (ss : List (Segment × List Byte)) (d : Device) : SameBoot d (copySegments ss d) := by
  refine sameBoot_foldl (fun d s => ?_) ss d
  exact (sameBoot_romEvents _ { d with mem := _ })

theorem sameBoot_checkSegments (ss : List Segment) (d : Device) : SameBoot d (checkSegments ss d).2 := by
  induction ss generalizing d with
  | nil => exact ⟨rfl, rfl, rfl⟩
  | cons s ss ih =>
    have read := sameBoot_romEvents (touchRange d.mem (hubBase + s.load) s.length).2.2
      { d with mem := (touchRange d.mem (hubBase + s.load) s.length).2.1 }
    simp only [checkSegments]
    split
    · exact read
    · exact SameBoot.trans read (ih _)

/-- A byte whose entries are filtered out reads 0. -/
theorem readByte_filter {p : Nat × Byte → Bool} {a : Nat} (m : Memory) (out : ∀ b, p (a, b) = false) :
    readByte (m.filter p) a = 0#8 := by
  induction m with
  | nil => rfl
  | cons e m ih =>
    obtain ⟨k, b⟩ := e
    simp only [List.filter_cons]
    split
    next kept =>
      have other : k ≠ a := by
        rintro rfl
        rw [out] at kept
        cases kept
      simp only [readByte, other, if_false, ih, ite_self]
    · exact ih

theorem readByte_zeroFirmware {m : Mem} {a : Nat} (low : hubBase ≤ a) (high : a < hubBase + fwAreaSize) :
    readByte (zeroFirmware m).bytes a = 0#8 := by
  refine readByte_filter _ fun b => ?_
  simp only [low, high, decide_true, Bool.and_self, Bool.not_true]

/-- Settles O14: steps 6 to 8 of R471, whose memory operations leave the boot state. -/
theorem loadVerifies : Obligations.LoadVerifies := by
  intro s rd m bs on waits lives fetched copied right accepted newer
  dsimp only
  generalize eq : checkSegments (manifestSegments m)
    (copySegments ((manifestSegments m).zip (bs ++ List.replicate (manifestSegments m).length [])) (entry s)) = r
  have same : SameBoot s.dev r.2 := by
    rw [← eq]
    exact (sameBoot_copySegments _ (entry s)).trans (sameBoot_checkSegments _ _)
  have starts : devLoad rd (entry s) = if !signatureOk m then loadFails errSignature (entry s)
      else if r.1 then { r.2 with boot := { r.2.boot with
          phase := .verifying
          loading := some { measurement := shake256_512 (m.take (manifestLen m)), svn := manifestSvn m } } }
      else loadFails errDigest r.2 := by
    have on : linked (entry s) = true := on
    have waits : (entry s).boot.phase = .waitFw := waits
    have lives : (entry s).fuses.lifecycle ≠ .scrap := lives
    have right : manifestOk m (regField (entry s) .lcsFwLen 0 26) = true := right
    have accepted : keyAccepted (entry s).fuses.lifecycle (manifestKey m) = true := accepted
    have newer : ¬ manifestSvn m < (entry s).fuses.svn := Nat.not_lt.2 newer
    simp only [devLoad, on, waits, lives, runLoad, fetched, right, accepted, newer, loadSegments, copied, eq, Bool.not_true,
      Bool.false_eq_true, if_false]
  have zero (e : Nat) (x : Device) (a : Nat) (low : hubBase ≤ a) (high : a < hubBase + fwAreaSize) :
      readByte (loadFails e x).mem.bytes a = 0#8 := readByte_zeroFirmware low high
  refine ⟨_, lift_of_eq starts, ?_⟩
  obtain ⟨boot, regs, fuses⟩ := same
  have loads : r.2.boot.loads = s.dev.boot.loads := by rw [boot]
  have counted : min (r.2.boot.loads + 1) 0xFFFFFFFF = min (s.dev.boot.loads + 1) 0xFFFFFFFF := by rw [loads]
  cases signatureOk m with
  | false => exact ⟨rfl, rfl, rfl, rfl, rfl, rfl, zero _ _⟩
  | true =>
    cases good : r.1 with
    | true => exact ⟨regs, fuses, rfl, loads, rfl⟩
    | false => exact ⟨regs, fuses, rfl, rfl, rfl, counted, zero _ _⟩

theorem tryLock_free (free : d.cfgHeld = false) : tryLock d = d := by
  simp only [tryLock, free, Bool.false_and, Bool.false_eq_true, if_false]

/-- The boot state of firmware that starts (R471, R475, R476). -/
def bootOfRunning (l : Loading) (d : Device) : Boot :=
  let b := { d.boot with phase := .running, loading := none, measurement := l.measurement, runSvn := l.svn }
  match classByte d.fuses.lifecycle with
  | none => b
  | some c => { b with
      aliasSeed := aliasSeedOf d.fuses.secret c l.measurement, chain := chainOf d.fuses c l.measurement l.svn }

theorem bootOfRunning_phase {l : Loading} : (bootOfRunning l d).phase = .running ∧ (bootOfRunning l d).wipe = d.boot.wipe := by
  unfold bootOfRunning
  dsimp only
  split <;> exact ⟨rfl, rfl⟩

theorem devFirmwareRunning_tries {l : Loading} (verified : d.boot.loading = some l) (on : powered d = true)
    (verifying : d.boot.phase = .verifying) : devFirmwareRunning d = tryLock { d with boot := bootOfRunning l d } := by
  rw [devFirmwareRunning, verified]
  exact if_neg (by simp [on, verifying])

theorem devFirmwareRunning_eq {l : Loading} (verified : d.boot.loading = some l) (on : powered d = true)
    (verifying : d.boot.phase = .verifying) (free : d.cfgHeld = false) :
    devFirmwareRunning d = { d with boot := bootOfRunning l d } :=
  (devFirmwareRunning_tries verified on verifying).trans (tryLock_free free)

/-- Settles O15: the keys and the chain become current where the life-cycle state has a class byte. -/
theorem firmwareRuns : Obligations.FirmwareRuns := by
  intro s l verified on verifying free
  refine ⟨_, lift_of_eq (devFirmwareRunning_eq (d := entry s) verified on verifying free), ?_⟩
  have same : (entry s).fuses.lifecycle = s.dev.fuses.lifecycle := rfl
  simp only [bootOfRunning, same]
  cases classByte s.dev.fuses.lifecycle with
  | none => exact ⟨rfl, rfl, rfl, rfl, nofun, fun _ => ⟨rfl, rfl⟩⟩
  | some c =>
    refine ⟨rfl, rfl, rfl, rfl, ?_, nofun⟩
    rintro c' ⟨⟩
    exact ⟨rfl, rfl⟩

/-! ### Burns and the report -/

/-! SVN_COMMIT by its guards (R474). -/

theorem devSvnCommit_otherPhase (on : linked d = true) (other : d.boot.phase ≠ .running) :
    devSvnCommit d = bootError errPhase d := by
  rw [devSvnCommit, if_neg (by simp [on]), if_pos other]

theorem devSvnCommit_reached (on : linked d = true) (runs : d.boot.phase = .running) (reached : d.boot.runSvn ≤ d.fuses.svn) :
    devSvnCommit d = d := by
  rw [devSvnCommit, if_neg (by simp [on]), if_neg (not_not_intro runs), if_pos (by simp [reached])]

theorem devSvnCommit_burns (on : linked d = true) (runs : d.boot.phase = .running) (above : d.fuses.svn < d.boot.runSvn)
    (free : d.boot.burn = none) : devSvnCommit d = { d with boot := { d.boot with burn := some (.svn d.boot.runSvn) } } := by
  rw [devSvnCommit, if_neg (by simp [on]), if_neg (not_not_intro runs), if_neg (by simp [above, free])]

/-- A life-cycle request that can be taken (R483). -/
theorem devLcReq_waiting {code : BitVec 3} (on : linked d = true) (waits : d.boot.phase = .waitFw) (free : d.boot.burn = none) :
    devLcReq code d = { d with boot :=
      (match (lifecycleOf code.toNat).bind (fun t => (transition d.fuses.lifecycle t).map (fun k => (t, k))) with
        | none => { d.boot with error := 0xB }
        | some (t, none) => { d.boot with burn := some (.lifecycle t) }
        | some (t, some key) =>
          if tokenOk d t key then { d.boot with burn := some (.lifecycle t) } else { d.boot with error := 0xC }) } := by
  rw [devLcReq, if_neg (by simp [on]), if_neg (not_not_intro waits), if_neg (by simp [free])]
  cases (lifecycleOf code.toNat).bind fun t => (transition d.fuses.lifecycle t).map fun k => (t, k) with
  | none => rfl
  | some x =>
    obtain ⟨t, key⟩ := x
    cases key with
    | none => rfl
    | some key =>
      simp only [Option.all_some]
      cases tokenOk d t key <;> rfl

/-- Settles O16: each request's guard decides between a burn and an ERROR; the burn's end is a fuse write, or a reset. -/
theorem fusesBurn : Obligations.FusesBurn := by
  refine ⟨⟨fun s on runs above free => ?_, fun s on runs reached => ?_, fun s on other => ?_, fun s st n on burns => ?_⟩,
    fun s code on waits free => ?_, fun s st l on burns => ?_⟩
  · exact lift_of_eq (devSvnCommit_burns (d := entry s) on runs above free)
  · exact lift_of_eq (devSvnCommit_reached (d := entry s) on runs reached)
  · exact lift_of_eq (devSvnCommit_otherPhase (d := entry s) on other)
  · exact ⟨_, lift_of_eq (devBurnComplete_svn (d := entry s) on burns)⟩
  · exact lift_of_eq (devLcReq_waiting (d := entry s) on waits free)
  · refine ⟨_, lift_of_eq (devBurnComplete_lifecycle (d := entry s) on burns), rfl, afterReset_resetWith, ?_, ?_, ?_, rfl⟩
    · cases l <;> rfl
    · cases l <;> rfl
    · simp only [resetWith, deviceAfter, bootAfter]
      split <;> simp

theorem padTo_length (n : Nat) (bs : List Byte) : (padTo n bs).length = n := by
  simp [padTo]

/-! REPORT by its guards (R477, R479). -/

theorem devReport_otherPhase (on : linked d = true) (other : d.boot.phase ≠ .running) : devReport d = bootError errPhase d := by
  rw [devReport, if_neg (by simp [on]), if_pos other]

theorem devReport_noKey (on : linked d = true) (runs : d.boot.phase = .running) (bare : classByte d.fuses.lifecycle = none) :
    devReport d = bootError errState d := by
  rw [devReport, if_neg (by simp [on]), if_neg (not_not_intro runs), if_pos (by simp [bare])]

theorem devReport_keyed (on : linked d = true) (runs : d.boot.phase = .running)
    (keyed : (classByte d.fuses.lifecycle).isSome = true) :
    devReport d = if inBoundary d then { d with boot := { d.boot with reportPending := true } } else writeReport d := by
  rw [devReport, if_neg (by simp [on]), if_neg (not_not_intro runs), if_neg (by simp [← Option.not_isSome, keyed])]

/-- Settles O17: the four outcomes are the four branches. -/
theorem reportWritten : Obligations.ReportWritten := by
  intro s on
  have keyed := devReport_keyed (d := entry s) on
  exact ⟨fun runs has idle => ⟨lift_of_eq ((keyed runs has).trans (if_neg (ne_true_of_eq_false idle))), padTo_length ..⟩,
    fun runs has busy => lift_of_eq ((keyed runs has).trans (if_pos busy)),
    fun runs bare => lift_of_eq (devReport_noKey (d := entry s) on runs bare),
    fun other => lift_of_eq (devReport_otherPhase (d := entry s) on other)⟩

end Sys2Proof.Machine
end

section
/-!
PROOF. The parts of the wipe: the counts and records that they leave (R449, R453 to R458, R491).
-/
namespace Sys2Proof.Machine

variable {d e : Device}

/-! ### Counts of corrected words -/

/-- A count of one memory after `k` further words (R458). -/
def counted (k old : Nat) : Nat := if k = 0 then old else satAdd 16 old k

/-- The count of all corrected words after `k` further ones (R406). -/
def total (k old : Nat) : Nat := if k = 0 then old else satAdd48 old k

theorem counted_succ (k old : Nat) : satAdd 16 (counted k old) 1 = counted (k + 1) old := by
  simp only [counted, satAdd]
  split
  next none' => simp [none']
  next some' =>
    rw [if_neg (Nat.succ_ne_zero k)]
    omega

theorem total_succ (k old : Nat) : satAdd48 (total k old) 1 = total (k + 1) old := by
  simp only [total, satAdd48]
  split
  next none' => simp [none']
  next some' =>
    rw [if_neg (Nat.succ_ne_zero k)]
    omega

theorem total_add (j k old : Nat) : total k (total j old) = total (j + k) old := by
  induction k with
  | zero => rfl
  | succ k ih => rw [← total_succ, ih, total_succ, Nat.add_assoc]

/-- Of `k` corrected words in block memory, in HBM, in hub SRAM. -/
def blockCount (k : Nat) (e : Errs) : Errs := { e with ceBlock := counted k e.ceBlock, corr := total k e.corr }
def hbmCount (k : Nat) (e : Errs) : Errs := { e with ceHbm := counted k e.ceHbm, corr := total k e.corr }
def hubCount (k : Nat) (e : Errs) : Errs := { e with ceHub := counted k e.ceHub, corr := total k e.corr }

/-- The counts after one more corrected word (R449, R458). -/
def countOne (e : Errs) (a : Nat) : Errs :=
  { countCe (wordAddr a) e with corr := satAdd48 (countCe (wordAddr a) e).corr 1 }

theorem countOne_block {a k : Nat} {e : Errs} (inside : inBlock a = true) : countOne (blockCount k e) a = blockCount (k + 1) e := by
  have word : inBlock (wordAddr a) = true := by
    simp only [inBlock, Bool.and_eq_true, decide_eq_true_eq] at inside ⊢
    simp only [blockBase, blockEnd, wordAddr] at inside ⊢
    omega
  simp only [countOne, countCe, word, if_true, blockCount, counted_succ, total_succ]

theorem countOne_hub {a k : Nat} {e : Errs} (inside : inHub a = true) : countOne (hubCount k e) a = hubCount (k + 1) e := by
  have word : inBlock (wordAddr a) = false ∧ inHub (wordAddr a) = true := by
    simp only [inBlock, inHub, Bool.and_eq_true, Bool.and_eq_false_iff, decide_eq_true_eq, decide_eq_false_iff_not] at inside ⊢
    simp only [blockBase, blockEnd, hubBase, hubEnd, wordAddr] at inside ⊢
    omega
  simp only [countOne, countCe, word, Bool.false_eq_true, if_true, if_false, hubCount, counted_succ, total_succ]

theorem countOne_hbm {a k : Nat} {e : Errs} (inside : inHbm a = true) : countOne (hbmCount k e) a = hbmCount (k + 1) e := by
  have word : inBlock (wordAddr a) = false ∧ inHub (wordAddr a) = false := by
    simp only [inHbm, inBlock, inHub, Bool.and_eq_false_iff, decide_eq_true_eq, decide_eq_false_iff_not] at inside ⊢
    simp only [blockBase, blockEnd, hubBase, hubEnd, hbmEnd, wordAddr] at inside ⊢
    omega
  simp only [countOne, countCe, word, Bool.false_eq_true, if_false, hbmCount, counted_succ, total_succ]

/-- The words of one memory count there one by one. -/
theorem foldl_countOne {inside : Nat → Bool} {count : Nat → Errs → Errs} (zero : ∀ e, count 0 e = e)
    (one : ∀ {a k e}, inside a = true → countOne (count k e) a = count (k + 1) e) (ws : List Nat) (e : Errs) :
    (ws.filter inside).foldl countOne e = count (ws.filter inside).length e := by
  have all : ∀ (xs : List Nat) (k : Nat), (∀ a ∈ xs, inside a = true) → xs.foldl countOne (count k e) = count (k + xs.length) e := by
    intro xs
    induction xs with
    | nil => exact fun _ _ => rfl
    | cons a xs ih =>
      intro k mine
      rw [List.foldl_cons, one (mine a List.mem_cons_self), ih _ fun b hb => mine b (List.mem_cons_of_mem _ hb), List.length_cons]
      congr 1
      omega
  have := all (ws.filter inside) 0 fun a ha => (List.mem_filter.1 ha).2
  rwa [zero, Nat.zero_add] at this

/-! ### What the read-back of a memory leaves -/

/-- From `a` to `b` nothing has changed but the errors that words of memory hold. -/
def FoundOnly (a b : Device) : Prop := b = { a with mem := { a.mem with upsets := b.mem.upsets } }

/-- From `a` to `b` nothing has changed but counts, and what an event record touches. -/
def EventsOnly (a b : Device) : Prop :=
  b = { a with errs := b.errs, queues := b.queues, slabs := b.slabs, out := b.out, pcie := b.pcie }

theorem FoundOnly.trans {a b c : Device} (h : FoundOnly a b) (k : FoundOnly b c) : FoundOnly a c := by
  unfold FoundOnly at *
  rw [k, h]

theorem EventsOnly.trans {a b c : Device} (h : EventsOnly a b) (k : EventsOnly b c) : EventsOnly a c := by
  unfold EventsOnly at *
  rw [k, h]

theorem FoundOnly.errs {a b : Device} (h : FoundOnly a b) : b.errs = a.errs := by
  rw [h]

theorem EventsOnly.mem {a b : Device} (h : EventsOnly a b) : b.mem = a.mem := by
  rw [h]

theorem EventsOnly.cfgHeld {a b : Device} (h : EventsOnly a b) : b.cfgHeld = a.cfgHeld := by
  rw [h]

theorem FoundOnly.ite {a b b' : Device} {c : Prop} [Decidable c] (h : FoundOnly a b) (k : FoundOnly a b') :
    FoundOnly a (if c then b else b') := by
  split
  · exact h
  · exact k

theorem foundOnly_noteFound (found : Found) (d : Device) : FoundOnly d (noteFound found d) := by
  have all (f : Device → Nat × WordRead → Device) (one : ∀ d e, FoundOnly d (f d e)) (d : Device) :
      FoundOnly d (found.foldl f d) := by
    induction found generalizing d with
    | nil => rfl
    | cons e found ih => exact (one d e).trans (ih _)
  unfold noteFound
  refine FoundOnly.ite rfl (all _ (fun d e => ?_) d)
  exact FoundOnly.ite rfl rfl

@[simp] theorem noteFound_nil (d : Device) : noteFound [] d = d := ite_self d

theorem eventsOnly_noteCorrected (a : Nat) (d : Device) : EventsOnly d (noteCorrected a d) := by
  unfold EventsOnly noteCorrected countCorrected
  rw [postEvent_eq]

theorem eventsOnly_wipeCorrected (inside : Nat → Bool) (ws : List Nat) (d : Device) :
    EventsOnly d (wipeCorrected inside ws d) := by
  unfold wipeCorrected
  generalize ws.filter inside = xs
  induction xs generalizing d with
  | nil => rfl
  | cons a xs ih => exact (eventsOnly_noteCorrected _ d).trans (ih _)

theorem noteCorrected_errs (a : Nat) (d : Device) : (noteCorrected (wordAddr a) d).errs = countOne d.errs a := by
  unfold noteCorrected countCorrected
  rw [postEvent_eq]
  rfl

theorem wipeCorrected_errs (inside : Nat → Bool) (ws : List Nat) (d : Device) :
    (wipeCorrected inside ws d).errs = (ws.filter inside).foldl countOne d.errs := by
  unfold wipeCorrected
  generalize ws.filter inside = xs
  induction xs generalizing d with
  | nil => rfl
  | cons a xs ih => rw [List.foldl_cons, List.foldl_cons, ih, noteCorrected_errs]

/-- From `a` to `b` nothing has changed but errors that words hold, the wipe's bits, counts, and what an event record touches. -/
def ReadBack (a b : Device) : Prop := b = { a with
  mem := { a.mem with upsets := b.mem.upsets }, boot := { a.boot with wipe := b.boot.wipe }
  errs := b.errs, queues := b.queues, slabs := b.slabs, out := b.out, pcie := b.pcie }

theorem ReadBack.bytes {a b : Device} (h : ReadBack a b) : b.mem.bytes = a.mem.bytes := by
  rw [h]

theorem ReadBack.free {a b : Device} (h : ReadBack a b) (free : a.cfgHeld = false) : b.cfgHeld = false := by
  rw [h]
  exact free

theorem ReadBack.held {a b : Device} (h : ReadBack a b) (held : a.cfgHeld = true) : b.cfgHeld = true := by
  rw [h]
  exact held

theorem ReadBack.open' {a b : Device} (h : ReadBack a b) (open' : a.cfgLocked = false) : b.cfgLocked = false := by
  rw [h]
  exact open'

theorem ReadBack.test {a b : Device} (h : ReadBack a b) : b.test = a.test := by
  rw [h]

theorem ReadBack.boot {a b : Device} (h : ReadBack a b) : b.boot = { a.boot with wipe := b.boot.wipe } :=
  congrArg Device.boot h

theorem ReadBack.trans {a b c : Device} (h : ReadBack a b) (k : ReadBack b c) : ReadBack a c := by
  unfold ReadBack at *
  rw [k, h]

section
variable {inside : Nat → Bool} {bad : Found} {corrected : List Nat} {f : Bool → Wipe → Wipe}

theorem readBack_memoryWiped : ReadBack d (memoryWiped inside bad corrected f d) := by
  have found := foundOnly_noteFound (wipeBad inside bad) d
  have events := eventsOnly_wipeCorrected inside corrected (noteFound (wipeBad inside bad) d)
  unfold ReadBack memoryWiped
  dsimp only
  rw [events, found]

theorem isEmpty_wipeBad : (!(wipeBad inside bad).isEmpty) = bad.any fun e => inside e.1 := by
  unfold wipeBad
  induction bad with
  | nil => rfl
  | cons e bad ih => cases h : inside e.1 <;> simp_all

theorem memoryWiped_wipe : (memoryWiped inside bad corrected f d).boot.wipe = f (bad.any fun e => inside e.1) d.boot.wipe := by
  have found := foundOnly_noteFound (wipeBad inside bad) d
  have events := eventsOnly_wipeCorrected inside corrected (noteFound (wipeBad inside bad) d)
  unfold memoryWiped
  dsimp only
  rw [events, found, isEmpty_wipeBad]

theorem memoryWiped_errs {count : Nat → Errs → Errs} (zero : ∀ e, count 0 e = e)
    (one : ∀ {a k e}, inside a = true → countOne (count k e) a = count (k + 1) e) :
    (memoryWiped inside bad corrected f d).errs = count (corrected.filter inside).length d.errs := by
  have found : (noteFound (wipeBad inside bad) d).errs = d.errs := (foundOnly_noteFound _ d).errs
  unfold memoryWiped
  dsimp only
  rw [wipeCorrected_errs, found, foldl_countOne zero one]

theorem memoryWiped_mem (none' : bad = []) : (memoryWiped inside bad corrected f d).mem = d.mem := by
  have events : (memoryWiped inside bad corrected f d).mem = (noteFound (wipeBad inside bad) d).mem :=
    (eventsOnly_wipeCorrected inside corrected (noteFound (wipeBad inside bad) d)).mem
  rw [events, none', wipeBad, List.filter_nil, noteFound_nil]

end

/-! ### The parts -/

variable {bb bh : Found} {cb ch : List Nat} {p : WipePart}

/-- The wipe's bits after one of its parts. -/
def partEnds (bb bh : Found) (p : WipePart) (w : Wipe) : Wipe :=
  match p with
  | .block => if w.blockDone then w else { w with blockDone := true, blockFail := bb.any fun e => inBlock e.1 }
  | .hbm => if w.hbmDone then w else { w with hbmDone := true, hbmFail := bh.any fun e => inHbm e.1 }
  | .cellLocal => { w with localDone := true }

/-- The counts after one of its parts. -/
def partCounts (cb ch : List Nat) (w : Wipe) (p : WipePart) (e : Errs) : Errs :=
  match p with
  | .block => if w.blockDone then e else blockCount (cb.filter inBlock).length e
  | .hbm => if w.hbmDone then e else hbmCount (ch.filter inHbm).length e
  | .cellLocal => e

theorem wipePart_spec : ReadBack d (wipePart bb bh cb ch p d) ∧
    (wipePart bb bh cb ch p d).boot.wipe = partEnds bb bh p d.boot.wipe ∧
    (wipePart bb bh cb ch p d).errs = partCounts cb ch d.boot.wipe p d.errs ∧
    (bb = [] → bh = [] → (wipePart bb bh cb ch p d).mem = d.mem) := by
  cases p with
  | block =>
    simp only [wipePart, whenD, partEnds, partCounts]
    cases d.boot.wipe.blockDone <;> simp only [Bool.not_false, Bool.not_true, Bool.false_eq_true, if_true, if_false]
    · exact ⟨readBack_memoryWiped, memoryWiped_wipe, memoryWiped_errs (fun _ => rfl) countOne_block,
        fun none' _ => memoryWiped_mem none'⟩
    · exact ⟨rfl, trivial, trivial, fun _ _ => trivial⟩
  | hbm =>
    simp only [wipePart, whenD, partEnds, partCounts]
    cases d.boot.wipe.hbmDone <;> simp only [Bool.not_false, Bool.not_true, Bool.false_eq_true, if_true, if_false]
    · exact ⟨readBack_memoryWiped, memoryWiped_wipe, memoryWiped_errs (fun _ => rfl) countOne_hbm,
        fun _ none' => memoryWiped_mem none'⟩
    · exact ⟨rfl, trivial, trivial, fun _ _ => trivial⟩
  | cellLocal => exact ⟨rfl, rfl, rfl, fun _ _ => rfl⟩

theorem wipeEnds_free {n : Nat} (free : d.cfgHeld = false) : wipeEnds n d = { d with boot := { d.boot with
    selfDone := d.boot.selfDone || wipeDone d
    wipe := { d.boot.wipe with cycles := if wipeDone d then n % 2 ^ 32 else d.boot.wipe.cycles } } } := by
  unfold wipeEnds
  cases wipeDone d with
  | true =>
    rw [if_pos rfl]
    refine (tryLock_free ?_).trans ?_
    · exact free
    · simp only [Bool.or_true, if_true]
  | false => simp only [Bool.or_false, Bool.false_eq_true, if_false]

/-- Hub SRAM is wiped. -/
def hubWiped (fail : Bool) (w : Wipe) : Wipe := { w with hubDone := true, hubFail := fail }

theorem devHubDone_eq (on : powered d = true) (before : d.boot.wipe.hubDone = false) {bad : Found} {corrected : List Nat} :
    devHubDone bad corrected d =
      let x := memoryWiped inHub bad corrected hubWiped d
      { x with boot := { x.boot with phase := if x.boot.phase = .wipe then .waitFw else x.boot.phase } } := by
  rw [devHubDone, if_neg (by simp [on, before])]
  rfl

/-- A corrected word alone: its record joins the event queue where there is room. -/
theorem memoryWiped_words {inside : Nat → Bool} {bad : Found} {f : Bool → Wipe → Wipe} {a : Nat} (mine : inside a = true)
    (outside : inBlock (wordAddr a) = false) (gap : (queueOf d 128).gap = 0) (room : queueFull d 128 = false)
    (whole : (queueOf d 128).cut = false) :
    (queueOf (memoryWiped inside bad [a] f d) 128).words.map (·.data) = (queueOf d 128).words.map (·.data) ++
      eventWords d .corrected 3 0xFF 0xF d.job.number (wordAddr a) := by
  have found := foundOnly_noteFound (wipeBad inside bad) d
  simp only [memoryWiped, wipeCorrected, List.filter_cons, mine, if_true, List.filter_nil, List.foldl_cons, List.foldl_nil,
    noteCorrected, countCorrected, placeOfAddr, outside, Bool.false_eq_true, if_false]
  generalize noteFound (wipeBad inside bad) d = x at found
  rw [found]
  exact postEvent_words _ _ _ _ _ _ { d with mem := _, errs := _ } room gap whole

/-- The boot state at the end of parts of the wipe: `c` says whether they were the last. -/
theorem boot_wipeEnds {b b' : Boot} {w : Wipe} {c : Bool} {n : Nat} (same : b' = { b with wipe := b'.wipe }) (wipe : b'.wipe = w) :
    { b' with selfDone := b'.selfDone || c, wipe := { b'.wipe with cycles := if c then n else b'.wipe.cycles } } =
      { b with selfDone := b.selfDone || c, wipe := { w with cycles := if c then n else w.cycles } } := by
  rw [wipe] at same ⊢
  rw [same]

/-- What HUB_DONE makes of the device. -/
theorem devHubDone_spec (on : powered d = true) (before : d.boot.wipe.hubDone = false) {bad : Found} {corrected : List Nat} :
    let x := devHubDone bad corrected d
    x.mem.bytes = d.mem.bytes ∧ x.boot = { d.boot with
        phase := if d.boot.phase = .wipe then .waitFw else d.boot.phase
        wipe := { d.boot.wipe with hubDone := true, hubFail := bad.any fun e => inHub e.1 } } ∧
      x.errs = hubCount (corrected.filter inHub).length d.errs ∧ (bad = [] → x.mem = d.mem) := by
  dsimp only
  rw [devHubDone_eq on before]
  have back : ReadBack d (memoryWiped inHub bad corrected hubWiped d) :=
    readBack_memoryWiped
  refine ⟨back.bytes, ?_, memoryWiped_errs (f := hubWiped) (fun _ => rfl) countOne_hub, memoryWiped_mem (f := hubWiped)⟩
  dsimp only
  rw [back.boot, memoryWiped_wipe]
  rfl

/-- The parts that one WIPE_DONE ends. -/
def wipeParts (part : Option WipePart) : List WipePart :=
  match part with
  | some p => [p]
  | none => [.block, .hbm, .cellLocal]

theorem foldl_wipePart (ps : List WipePart) (d : Device) :
    let x := ps.foldl (fun d p => wipePart bb bh cb ch p d) d
    ReadBack d x ∧ (x.boot.wipe, x.errs) =
      ps.foldl (fun (w : Wipe × Errs) p => (partEnds bb bh p w.1, partCounts cb ch w.1 p w.2)) (d.boot.wipe, d.errs) ∧
      (bb = [] → bh = [] → x.mem = d.mem) := by
  induction ps generalizing d with
  | nil => exact ⟨rfl, rfl, fun _ _ => rfl⟩
  | cons p ps ih =>
    obtain ⟨back, wipe, errs, mem⟩ := wipePart_spec (bb := bb) (bh := bh) (cb := cb) (ch := ch) (p := p) (d := d)
    obtain ⟨back', rest, mem'⟩ := ih (wipePart bb bh cb ch p d)
    refine ⟨back.trans back', ?_, fun hb hh => (mem' hb hh).trans (mem hb hh)⟩
    rw [List.foldl_cons, List.foldl_cons, rest, wipe, errs]

theorem devWipeDone_eq {n : Nat} {part : Option WipePart} (on : powered d = true)
    (hub : d.boot.wipe.hubDone = true ∨ part = some .block ∨ part = some .cellLocal) (before : wipeDone d = false) :
    devWipeDone bb bh cb ch n part d =
      wipeEnds n ((wipeParts part).foldl (fun d p => wipePart bb bh cb ch p d) d) := by
  have open' : ¬ (!powered d || wipeDone d || (!d.boot.wipe.hubDone && !(part = some .block || part = some .cellLocal))) = true := by
    rcases hub with hub | rfl | rfl <;> simp_all
  simp only [devWipeDone]
  rw [if_neg open']
  rfl

/-- What the parts of one WIPE_DONE leave of the wipe's bits and of the counts. -/
theorem foldl_parts (part : Option WipePart) (w : Wipe) (e : Errs) :
    let ends := fun (p : WipePart) => part = none ∨ part = some p
    let blocks := ends .block ∧ w.blockDone = false
    let hbm := ends .hbm ∧ w.hbmDone = false
    let kb := if blocks then (cb.filter inBlock).length else 0
    let kh := if hbm then (ch.filter inHbm).length else 0
    (wipeParts part).foldl (fun (w : Wipe × Errs) p => (partEnds bb bh p w.1, partCounts cb ch w.1 p w.2)) (w, e) =
      ({ w with
          blockDone := w.blockDone || decide (ends .block), hbmDone := w.hbmDone || decide (ends .hbm)
          localDone := w.localDone || decide (ends .cellLocal)
          blockFail := if blocks then bb.any (fun e => inBlock e.1) else w.blockFail
          hbmFail := if hbm then bh.any (fun e => inHbm e.1) else w.hbmFail },
        { e with ceBlock := counted kb e.ceBlock, ceHbm := counted kh e.ceHbm, corr := total (kb + kh) e.corr }) := by
  obtain ⟨hubDone, blockDone, hbmDone, localDone, hubFail, blockFail, hbmFail, lifecycle, cycles⟩ := w
  have none' (old : Nat) : counted 0 old = old ∧ total 0 old = old := ⟨rfl, rfl⟩
  match part with
  | none => cases blockDone <;> cases hbmDone <;> simp [wipeParts, partEnds, partCounts, blockCount, hbmCount, total_add, none']
  | some .block => cases blockDone <;> simp [wipeParts, partEnds, partCounts, blockCount, none']
  | some .hbm => cases hbmDone <;> simp [wipeParts, partEnds, partCounts, hbmCount, none']
  | some .cellLocal => simp [wipeParts, partEnds, partCounts, none']

/-- With hub SRAM wiped, the parts that one WIPE_DONE without a name ends are the last. -/
theorem wipeDone_wipeParts (hub : d.boot.wipe.hubDone = true) :
    wipeDone ((wipeParts none).foldl (fun d p => wipePart bb bh cb ch p d) d) = true := by
  have rest := (foldl_wipePart (wipeParts none) d).2.1.trans (foldl_parts (bb := bb) (bh := bh) (cb := cb) (ch := ch) none _ _)
  have wipe := congrArg Prod.fst rest
  dsimp only at wipe
  rw [wipeDone, wipe]
  simp [hub]

/-- Settles O13: each part of the wipe leaves what its read-back finds. -/
theorem wipeEnds_obligation : Obligations.WipeEnds := by
  refine ⟨fun s bad corrected on before => ?_, fun s bb bh cb ch n part on hub before free => ?_⟩
  · obtain ⟨bytes, boot, errs, mem⟩ := devHubDone_spec (d := entry s) on before (bad := bad) (corrected := corrected)
    have eq := devHubDone_eq (d := entry s) on before (bad := bad) (corrected := corrected)
    refine ⟨_, rfl, rfl, bytes, boot, errs, mem, ?_, ?_⟩
    · rintro rfl rfl
      have same : memoryWiped inHub [] [] hubWiped (entry s) =
          { entry s with boot := { s.dev.boot with wipe := { s.dev.boot.wipe with hubDone := true, hubFail := false } } } := by
        simp only [memoryWiped, wipeBad, List.filter_nil, noteFound_nil, wipeCorrected, List.foldl_nil, List.isEmpty_nil,
          Bool.not_true, entry, hubWiped]
      show (devHubDone [] [] (entry s)).queues = _ ∧ (devHubDone [] [] (entry s)).out = []
      rw [eq, same]
      exact ⟨rfl, rfl⟩
    · rintro a rfl mine gap room whole
      have outside : inBlock (wordAddr a) = false := by
        simp only [inBlock, inHub, Bool.and_eq_true, Bool.and_eq_false_iff, decide_eq_true_eq, decide_eq_false_iff_not] at mine ⊢
        simp only [blockBase, blockEnd, hubBase, hubEnd, wordAddr] at mine ⊢
        omega
      have words := memoryWiped_words (d := entry s) (bad := bad)
        (f := hubWiped) mine outside gap room whole
      exact (congrArg (fun d => (queueOf d 128).words.map (·.data)) eq).trans words
  · have eq := devWipeDone_eq (d := entry s) on hub before (bb := bb) (bh := bh) (cb := cb) (ch := ch) (n := n)
    obtain ⟨back, rest, mem⟩ := foldl_wipePart (bb := bb) (bh := bh) (cb := cb) (ch := ch) (wipeParts part) (entry s)
    have last : part = none → wipeDone ((wipeParts part).foldl (fun d p => wipePart bb bh cb ch p d) (entry s)) = true := by
      rintro rfl
      exact wipeDone_wipeParts (hub.resolve_right (by simp))
    generalize (wipeParts part).foldl (fun d p => wipePart bb bh cb ch p d) (entry s) = x at back rest mem eq last
    have free : x.cfgHeld = false := back.free free
    rw [foldl_parts] at rest
    obtain ⟨wipe, errs⟩ := Prod.ext_iff.1 rest
    have wipe : x.boot.wipe = _ := wipe
    exact ⟨_, lift_of_eq (eq.trans (wipeEnds_free free)), rfl, back.bytes, boot_wipeEnds back.boot wipe, errs, last, mem⟩

end Sys2Proof.Machine
end

section
/-!
PROOF. Register writes: what a field takes, armed errors, and CLEAR (R9, R85, R136, R433, R458, R500, R510).
-/
namespace Sys2Proof.Machine

variable {d : Device}

/-! ### Fields of a written register -/

theorem testBit_bitsOf (x lo n i : Nat) : (bitsOf x lo n).testBit i = (decide (i < n) && x.testBit (lo + i)) := by
  rw [bitsOf, Nat.testBit_mod_two_pow, Nat.testBit_div_two_pow, Nat.add_comm]

/-- Bits that a mask covers are those of the word written. -/
theorem bitsOf_merge {old v : W64} {mask lo n : Nat} (covers : ∀ i < n, mask.testBit (lo + i) = true ∧ lo + i < 64) :
    bitsOf ((old &&& ~~~BitVec.ofNat 64 mask) ||| (v &&& BitVec.ofNat 64 mask)).toNat lo n = bitsOf v.toNat lo n := by
  refine Nat.eq_of_testBit_eq fun i => ?_
  rw [testBit_bitsOf, testBit_bitsOf]
  by_cases inside : i < n
  · obtain ⟨bit, small⟩ := covers i inside
    simp only [inside, decide_true, Bool.true_and, BitVec.testBit_toNat, BitVec.getLsbD_or, BitVec.getLsbD_and, BitVec.getLsbD_not,
      BitVec.getLsbD_ofNat, bit, small, Bool.and_true, Bool.not_true, Bool.and_false, Bool.false_or]
  · simp [inside]

/-- A whole write of a register without RWL fields. -/
theorem writeFields_rw {r : RegName} {part : RegPart} {v : W64} (free : rwlMask r = 0) :
    writeFields r part v d = if rwMask r &&& partMask part = 0 then d else setBits r (rwMask r &&& partMask part) (partWord part v) d := by
  simp only [writeFields, free, Nat.zero_and, if_true]

theorem writeFields_tstInject {v : W64} : writeFields .tstInject .whole v d = setBits .tstInject (bitMask 0 50) v d := by
  rw [writeFields_rw rfl, if_neg (by decide)]
  rfl

theorem regField_setBits {r : RegName} {mask lo n : Nat} {v : W64} (covers : ∀ i < n, mask.testBit (lo + i) = true ∧ lo + i < 64) :
    regField (setBits r mask v d) r lo n = bitsOf v.toNat lo n := by
  rw [regField, setBits, regGet_regSet_self]
  exact bitsOf_merge covers

/-! ### Armed errors -/

theorem injectedSymbols_spec (kind n : Nat) (small : kind < 2) : (injectedSymbols kind n).length = kind + 1 ∧
    (∀ x ∈ injectedSymbols kind n, x.1 < 35 ∧ x.2 ≠ 0#8) ∧ ((injectedSymbols kind n).map (·.1)).Nodup := by
  have byte (k : Nat) : BitVec.ofNat 8 (1 + k % 255) ≠ 0#8 := by
    intro zero
    have := congrArg BitVec.toNat zero
    simp only [BitVec.toNat_ofNat] at this
    omega
  simp only [injectedSymbols]
  generalize Config.free n = p
  generalize Config.free (n + 2) = q
  have apart : p % 35 ≠ (p % 35 + 1 + q % 34) % 35 := by omega
  split
  next zero =>
    subst zero
    refine ⟨rfl, ?_, by simp⟩
    simp only [List.mem_singleton, forall_eq]
    exact ⟨by omega, byte _⟩
  next one =>
    obtain rfl : kind = 1 := by omega
    refine ⟨rfl, ?_, by simpa using apart⟩
    simp only [List.mem_cons, List.not_mem_nil, or_false, forall_eq_or_imp, forall_eq]
    exact ⟨⟨by omega, byte _⟩, by omega, byte _⟩

theorem devArm_open {v : W64} (on : linked d = true) (free : injectOpen d = true) :
    devArm v d = armError (setBits .tstInject (bitMask 0 50) v d) := by
  rw [devArm, if_pos (by simp [on, free]), writeFields_tstInject]

/-- Settles O19: the fields of the written word choose the error. -/
theorem injectionArms : Obligations.InjectionArms := by
  intro s v on
  have addr (d : Device) : regField (setBits .tstInject (bitMask 0 50) v d) .tstInject 0 48 = bitsOf v.toNat 0 48 :=
    regField_setBits (by decide +kernel)
  have kind (d : Device) : regField (setBits .tstInject (bitMask 0 50) v d) .tstInject 48 3 = bitsOf v.toNat 48 3 :=
    regField_setBits (by decide +kernel)
  refine ⟨fun free small => ?_, fun free two => ?_, fun shut => lift_of_eq ?_⟩
  · have arms := devArm_open (d := entry s) (v := v) on free
    rw [armError, kind, addr] at arms
    dsimp only at arms
    rw [if_pos small] at arms
    obtain ⟨len, symbols, apart⟩ := injectedSymbols_spec (bitsOf v.toNat 48 3) s.dev.freeCtr small
    exact ⟨_, _, lift_of_eq arms, rfl, len, symbols, apart, rfl, rfl, rfl⟩
  · have arms := devArm_open (d := entry s) (v := v) on free
    rw [armError, kind, addr] at arms
    dsimp only at arms
    rw [if_neg (by omega), if_pos two] at arms
    refine ⟨_, lift_of_eq arms, rfl, ?_⟩
    have low : bitsOf v.toNat 0 48 % 2 ^ 12 = bitsOf v.toNat 0 12 := by
      simp only [bitsOf]
      omega
    rw [low]
    rfl
  · have shut : injectOpen (entry s) = false := shut
    rw [devArm, shut, Bool.and_false, if_neg (by simp)]

/-! ### CLEAR -/

theorem devClear_linked {r : RegName} (on : linked d = true) : devClear r d = { d with errs := clearCounts r d.errs } := if_pos on

/-- Settles O20: each row clears its own count. -/
theorem countsClear : Obligations.CountsClear := by
  intro s on
  have clear (r : RegName) := devClear_linked (d := entry s) (r := r) on
  refine ⟨lift_of_eq (clear _), lift_of_eq (clear _), lift_of_eq (clear _), lift_of_eq (clear _), lift_of_eq (clear _),
    lift_of_eq (clear _), lift_of_eq (clear _), lift_of_eq (clear _), lift_of_eq (clear _), lift_of_eq (clear _),
    lift_of_eq (clear _), lift_of_eq (clear _), lift_of_eq (clear _), fun r => ?_⟩
  refine ⟨_, lift_of_eq (clear (.rgnTileStat r)), rfl, rfl, ?_, fun q other => ?_⟩
  · simp only [regRead, clearCounts, getD_put_self]
    decide
  · simp only [regRead, clearCounts]
    rw [getD_put_ne _ _ _ _ _ (by simpa [Fin.ext_iff] using other)]
    rfl

end Sys2Proof.Machine
end

section
/-!
PROOF. Writes of setup registers, before and after CFG_LOCK (R9, R430, R510).
-/
namespace Sys2Proof.Machine

variable {d : Device}

/-- Registers whose fields are RW or RWL act by what they hold alone; the test registers are commands. -/
theorem writeActions_fields {r : RegName} (fields : rwlMask r ≠ 0 ∨ rwMask r ≠ 0) (control : r ≠ .tstLbCtl) (inject : r ≠ .tstInject)
    (w : W64) (rom : RomInput) (d : Device) : writeActions r w rom (writeOnes r w d) = d := by
  cases r <;> first | rfl | simp [rwlMask, rwMask] at fields control inject

theorem devRegisterWrite_fields {off : Nat} {r : RegName} {part : RegPart} {v : W64} {rom : RomInput} (on : linked d = true)
    (here : regAt off = some r) (fields : rwlMask r ≠ 0 ∨ rwMask r ≠ 0) (control : r ≠ .tstLbCtl) (inject : r ≠ .tstInject) :
    devRegisterWrite off part v rom d = writeFields r part v d := by
  simp only [devRegisterWrite, on, here, writeRegister, inject, decide_false, Bool.false_and, Bool.not_true, Bool.false_eq_true,
    if_false]
  exact writeActions_fields fields control inject _ _ _

/-- The register's word after bits of a mask take those of a word. -/
theorem takes_zero (x w : W64) : (x &&& ~~~(BitVec.ofNat 64 0)) ||| (w &&& BitVec.ofNat 64 0) = x := by
  rw [show BitVec.ofNat 64 0 = 0#64 from rfl, BitVec.and_zero, BitVec.or_zero, BitVec.not_zero, BitVec.and_allOnes]

theorem takes_twice (x w m k : W64) :
    (((x &&& ~~~k) ||| (w &&& k)) &&& ~~~m) ||| (w &&& m) = (x &&& ~~~(m ||| k)) ||| (w &&& (m ||| k)) := by
  ext i hi
  simp only [BitVec.getElem_or, BitVec.getElem_and, BitVec.getElem_not]
  cases x[i] <;> cases w[i] <;> cases m[i] <;> cases k[i] <;> rfl

/-- The RW fields of a write: the register takes the covered bits, and no other changes. -/
theorem rwFields_spec {r : RegName} {mask : Nat} {w : W64} :
    let x := if mask = 0 then d else setBits r mask w d
    x = { d with regs := x.regs } ∧ (∀ q, q ≠ r → regGet x q = regGet d q) ∧
      regGet x r = (regGet d r &&& ~~~(BitVec.ofNat 64 mask)) ||| (w &&& BitVec.ofNat 64 mask) := by
  dsimp only
  split
  next zero =>
    subst zero
    exact ⟨rfl, fun _ _ => rfl, (takes_zero _ _).symm⟩
  · exact ⟨rfl, fun q other => regGet_regSet_ne _ _ _ _ other, regGet_regSet_self _ _ _⟩

theorem writeFields_rwl {r : RegName} {part : RegPart} {v : W64} (some' : rwlMask r &&& partMask part ≠ 0) :
    writeFields r part v d =
      let x := if rwMask r &&& partMask part = 0 then d else setBits r (rwMask r &&& partMask part) (partWord part v) d
      if x.cfgLocked then { x with errs := { x.errs with writeIgnored := true } }
      else setBits r (rwlMask r &&& partMask part) (partWord part v) x := by
  simp only [writeFields]
  rw [if_neg some']

/-- Settles O21: the RW fields take the write, then the RWL fields do unless CFG_LOCK is accepted. -/
theorem lockedFieldsKeep : Obligations.LockedFieldsKeep := by
  intro s off r part v rom on here
  refine ⟨fun some' => ?_, fun rw' none' control inject => ?_⟩
  · have rwl : rwlMask r ≠ 0 := fun zero => some' (by rw [zero, Nat.zero_and])
    have control : r ≠ .tstLbCtl := by rintro rfl; exact rwl rfl
    have inject : r ≠ .tstInject := by rintro rfl; exact rwl rfl
    have writes := (devRegisterWrite_fields (d := entry s) (part := part) (v := v) (rom := rom) on here (.inl rwl) control
      inject).trans (writeFields_rwl some')
    have fields := rwFields_spec (d := entry s) (r := r) (mask := rwMask r &&& partMask part) (w := partWord part v)
    dsimp only at writes fields
    generalize (if rwMask r &&& partMask part = 0 then entry s
      else setBits r (rwMask r &&& partMask part) (partWord part v) (entry s)) = x at writes fields
    obtain ⟨only, others, mine⟩ := fields
    have locked : x.cfgLocked = s.dev.cfgLocked := by rw [only]; rfl
    have errs : x.errs = s.dev.errs := by rw [only]; rfl
    cases lock : s.dev.cfgLocked with
    | false =>
      rw [if_neg (by rw [locked, lock]; decide)] at writes
      refine ⟨_, lift_of_eq writes, rfl, ?_, fun q other => ?_, fun _ => ⟨errs, ?_⟩, nofun⟩
      · rw [only]
        rfl
      · exact (regGet_regSet_ne _ _ _ _ other).trans (others q other)
      · refine (regGet_regSet_self _ _ _).trans ?_
        rw [mine, takes_twice]
        rfl
    | true =>
      rw [if_pos (locked.trans lock)] at writes
      refine ⟨_, lift_of_eq writes, rfl, ?_, others, nofun, fun _ => ⟨mine, ?_⟩⟩
      · rw [only]
      · dsimp only
        rw [errs]
  · have writes := (devRegisterWrite_fields (d := entry s) (part := part) (v := v) (rom := rom) on here (.inr rw') control
      inject).trans (writeFields_rw none')
    obtain ⟨only, others, mine⟩ := rwFields_spec (d := entry s) (r := r) (mask := rwMask r &&& partMask part) (w := partWord part v)
    exact ⟨_, lift_of_eq writes, by rw [only], others, mine⟩

end Sys2Proof.Machine
end

section
/-!
PROOF. CFG_LOCK: its checks, and how it is held (R350, R430, R455, R466, R493, R511).
-/
namespace Sys2Proof.Machine

variable {d : Device}

/-- The checks read setup words and the outcome of wipe and self-tests alone. -/
theorem lockFailures_update {out : List Emission} {locked held : Bool} {errs : Errs} :
    lockFailures { d with out := out, cfgLocked := locked, cfgHeld := held, errs := errs } = lockFailures d := rfl

theorem runLockChecks_none (none' : lockFailures d = []) : runLockChecks d = clearStatusPage { d with cfgLocked := true } := by
  simp only [runLockChecks, none', List.min?_nil]

theorem runLockChecks_some {off : Nat} (least : (lockFailures d).min? = some off) :
    runLockChecks d = { d with errs := { d.errs with refused := true, offset := off } } := by
  simp only [runLockChecks, least]

theorem tryLock_checks (held : d.cfgHeld = true) (runs : d.boot.phase = .running) (wiped : wipeDone d = true)
    (idle : d.test.busy = false) : tryLock d = runLockChecks { d with cfgHeld := false } := by
  rw [tryLock, if_pos (by simp [held, runs, wiped, idle])]

theorem tryLock_waits (waits : d.boot.phase ≠ .running ∨ wipeDone d = false ∨ d.test.busy = true) : tryLock d = d := by
  rw [tryLock, if_neg]
  rcases waits with h | h | h <;> simp [h]

theorem devCfgLock_first (on : linked d = true) (first : lockWritten d = false) :
    devCfgLock d = tryLock { d with cfgHeld := true } := by
  rw [devCfgLock, if_neg (by simp [on, first])]

/-- The checks of a held CFG_LOCK once nothing keeps them: they lock where none fails, and record a refusal otherwise. -/
theorem tryLock_held (held : d.cfgHeld = true) (open' : d.cfgLocked = false) (runs : d.boot.phase = .running)
    (wiped : wipeDone d = true) :
    (tryLock d).boot = d.boot ∧ (d.test.busy = true → (tryLock d).cfgHeld = true ∧ (tryLock d).cfgLocked = false) ∧
      (d.test.busy = false → (tryLock d).cfgHeld = false ∧
        ((tryLock d).cfgLocked = true ↔ lockFailures (tryLock d) = []) ∧
        (lockFailures (tryLock d) ≠ [] → (tryLock d).errs.refused = true)) := by
  cases busy : d.test.busy with
  | true =>
    rw [tryLock_waits (.inr (.inr busy))]
    exact ⟨rfl, fun _ => ⟨held, open'⟩, nofun⟩
  | false =>
    rw [tryLock_checks held runs wiped busy]
    have same : lockFailures { d with cfgHeld := false } = lockFailures d := lockFailures_update
    cases fails : (lockFailures d).min? with
    | none =>
      rw [List.min?_eq_none_iff] at fails
      rw [runLockChecks_none (same.trans fails)]
      have same' : lockFailures (clearStatusPage { d with cfgHeld := false, cfgLocked := true }) = [] :=
        lockFailures_update.trans fails
      exact ⟨rfl, nofun, fun _ => ⟨rfl, iff_of_true rfl same', fun some' => absurd same' some'⟩⟩
    | some off =>
      rw [runLockChecks_some (same ▸ fails)]
      refine ⟨rfl, nofun, fun _ => ⟨rfl, iff_of_false ?_ ?_, fun _ => rfl⟩⟩
      · rw [Bool.not_eq_true]
        exact open'
      · intro none'
        rw [show lockFailures d = [] from lockFailures_update.symm.trans none'] at fails
        cases fails

/-- Settles O22: CFG_LOCK runs its checks where firmware runs and the wipe is done, and is held before. -/
theorem lockChecks : Obligations.LockChecks := by
  refine ⟨fun s on first runs wiped idle => ?_, fun s on first early => ?_, fun s c held open' on => ?_⟩
  · have written := devCfgLock_first (d := entry s) on first
    have checks := written.trans (tryLock_checks rfl runs wiped idle)
    refine ⟨fun none' => lift_of_eq (checks.trans (runLockChecks_none ?_)), fun off least =>
      lift_of_eq (checks.trans (runLockChecks_some ?_))⟩
    · exact lockFailures_update.trans none'
    · exact (congrArg List.min? lockFailures_update).trans least
  · refine lift_of_eq ((devCfgLock_first (d := entry s) on first).trans (tryLock_waits ?_))
    exact early.imp id .inl
  · rintro (⟨rfl, loads, verifying, wiped⟩ | ⟨bf, hf, kb, kh, n, rfl, hub, before, runs⟩)
    · obtain ⟨l, loads⟩ := Option.isSome_iff_exists.1 loads
      have starts := devFirmwareRunning_tries (d := entry s) loads on verifying
      obtain ⟨phase, wipe⟩ := bootOfRunning_phase (l := l) (d := entry s)
      have wiped : wipeDone { entry s with boot := bootOfRunning l (entry s) } = true := by
        rw [wipeDone, wipe]
        exact wiped
      obtain ⟨boot, busy, idle⟩ := tryLock_held (d := { entry s with boot := bootOfRunning l (entry s) }) held open' phase wiped
      refine ⟨_, lift_of_eq starts, ?_, ?_, busy, idle⟩
      · rw [boot]
        exact phase
      · rw [wipeDone, boot]
        exact wiped
    · have ends := devWipeDone_eq (d := entry s) on (.inl hub) before (bb := bf) (bh := hf) (cb := kb) (ch := kh) (n := n)
        (part := none)
      obtain ⟨back, -, -⟩ := foldl_wipePart (bb := bf) (bh := hf) (cb := kb) (ch := kh) (wipeParts none) (entry s)
      have wiped := wipeDone_wipeParts (d := entry s) (bb := bf) (bh := hf) (cb := kb) (ch := kh) hub
      generalize (wipeParts none).foldl (fun d p => wipePart bf hf kb kh p d) (entry s) = x at back ends wiped
      rw [wipeEnds, if_pos wiped] at ends
      have phase : x.boot.phase = .running := (congrArg Boot.phase back.boot).trans runs
      have test : x.test = s.dev.test := back.test
      obtain ⟨boot, busy, idle⟩ := tryLock_held (d := { x with boot := { x.boot with
        selfDone := true, wipe := { x.boot.wipe with cycles := n % 2 ^ 32 } } }) (back.held held) (back.open' open') phase wiped
      refine ⟨_, lift_of_eq ends, ?_, ?_, test ▸ busy, test ▸ idle⟩
      · rw [boot]
        exact phase
      · rw [wipeDone, boot]
        exact wiped

end Sys2Proof.Machine
end

section
/-!
PROOF. Host accesses to BAR0 that have effects of their own (R346, R355, R514, R515).
-/
namespace Sys2Proof.Machine

variable {d : Device}

theorem regRead_out {out : List Emission} (r : RegName) : regRead { d with out := out } r = regRead d r := by
  cases r <;> rfl

/-- The registers whose read has an effect of its own. -/
theorem beforeRead_plain {r : RegName} {pool : PoolRead}
    (plain : r ∉ [.cfgStepDigest 0, .queEventWord, .queEventInfo, .tstLbStatus, .tstLbResult]) : beforeRead r pool d = d := by
  unfold beforeRead
  split <;> simp_all

theorem slice_zero {off size : Nat} (aligned : (size = 8 ∧ off % 8 = 0) ∨ (size = 4 ∧ off % 4 = 0)) :
    slice (bytesOfNat 8 0) (off % 8) size = List.replicate size 0#8 := by
  have low : (size = 8 ∧ off % 8 = 0) ∨ (size = 4 ∧ off % 8 = 0) ∨ (size = 4 ∧ off % 8 = 4) := by omega
  rcases low with ⟨rfl, low⟩ | ⟨rfl, low⟩ | ⟨rfl, low⟩ <;> rw [low] <;> decide

/-! BAR0 accesses by their guards (R346). -/

theorem devBar0SizeAccess_odd {off size : Nat} {isWrite : Bool} {pool : PoolRead} (on : linked d = true)
    (whole : ¬ (size = 8 ∧ off % 8 = 0)) (half : ¬ (size = 4 ∧ off % 4 = 0)) :
    devBar0SizeAccess off size isWrite pool d =
      emitAll (if isWrite then [] else [.readData (List.replicate size 0#8) false]) (setHifErr 0 d) := by
  simp only [devBar0SizeAccess, on, Bool.not_true, Bool.false_eq_true, if_false]
  rw [if_neg (by simpa [not_and] using And.intro (not_and.1 whole) (not_and.1 half))]
  cases isWrite
  · rfl
  · simp [emitAll]

theorem devBar0SizeAccess_write {off size : Nat} {pool : PoolRead} (on : linked d = true)
    (aligned : (size = 8 ∧ off % 8 = 0) ∨ (size = 4 ∧ off % 4 = 0)) : devBar0SizeAccess off size true pool d = d := by
  simp only [devBar0SizeAccess, on, Bool.not_true, Bool.false_eq_true, if_false]
  rw [if_pos (by simpa using aligned), if_pos trivial]

theorem devBar0SizeAccess_read {off size : Nat} {pool : PoolRead} (on : linked d = true)
    (aligned : (size = 8 ∧ off % 8 = 0) ∨ (size = 4 ∧ off % 4 = 0))
    (plain : ∀ r, regAt (off / 8 * 8) = some r →
      r ∉ [.cfgStepDigest 0, .queEventWord, .queEventInfo, .tstLbStatus, .tstLbResult]) :
    devBar0SizeAccess off size false pool d = emit (.readData (bar0Read off size d) false) d := by
  have other : ¬ regAt (off / 8 * 8) = some (.cfgStepDigest 0) := fun h => plain _ h (by simp)
  simp only [devBar0SizeAccess, on, Bool.not_true, Bool.false_eq_true, if_false]
  rw [if_pos (by simpa using aligned), if_neg other]
  cases here : regAt (off / 8 * 8) with
  | none => rfl
  | some r => simp only [Option.map_some, Option.getD_some, beforeRead_plain (plain r here)]

theorem bar0Read_register {off size : Nat} (outside : off < certWindow ∨ certWindow + 0x4000 ≤ off) :
    bar0Read off size d = slice (bytesOfNat 8 (((regAt (off / 8 * 8)).map (regRead d)).getD 0#64).toNat) (off % 8) size := by
  rw [bar0Read, if_neg]
  simp only [Bool.and_eq_true, decide_eq_true_eq]
  omega

theorem bar0Read_certificate {off size : Nat} (low : certWindow ≤ off) (high : off < certWindow + 0x4000) :
    bar0Read off size d = (List.range size).map fun k => certByte d (off - certWindow + k) := by
  rw [bar0Read, if_pos (by simp [low, high])]

/-- Settles O23: each access by what it reaches. -/
theorem hostAccessEvents : Obligations.HostAccessEvents := by
  refine ⟨fun s part on own => lift_of_eq ?_, fun s on => ⟨fun v => lift_of_eq (if_pos on), ?_, ?_⟩⟩
  · have here : toOwn (entry s) = entry s := if_neg (by
      rw [show (entry s).onTaken = false from own]
      decide)
    rw [devDigestLatch, if_neg (by rw [show linked (entry s) = true from on]; decide), here]
    rfl
  · exact fun off size isWrite pool whole half => lift_of_eq (devBar0SizeAccess_odd (d := entry s) on whole half)
  · intro off size pool aligned
    refine ⟨lift_of_eq (devBar0SizeAccess_write (d := entry s) on aligned), ?_⟩
    have reads := devBar0SizeAccess_read (d := entry s) (pool := pool) on aligned
    refine ⟨fun r here plain outside => lift_of_eq ?_, fun low high none' => lift_of_eq ?_, fun none' outside => lift_of_eq ?_⟩
    · rw [reads (by simpa [here] using plain), bar0Read_register outside, here]
      simp only [Option.map_some, Option.getD_some]
      rw [show regRead (entry s) r = regRead s.dev r from regRead_out r]
      rfl
    · rw [reads (by simp [none']), bar0Read_certificate low high]
      rfl
    · rw [reads (by simp [none']), bar0Read_register outside, none']
      exact congrArg (fun bs => emit (.readData bs false) (entry s)) (slice_zero aligned)

end Sys2Proof.Machine
end

section
/-!
PROOF. Loop-backs: their start, their phases, and the accesses that waited for them (R493 to R497, R502, R503).
-/
namespace Sys2Proof.Machine

variable {d : Device}

/-! ### An access from the host leaves a held CFG_LOCK held -/

/-- What each step of a fold leaves, the fold leaves. -/
theorem foldl_view {α β γ : Type} {view : β → γ} {f : β → α → β} (step : ∀ b x, view (f b x) = view b) (xs : List α) (b : β) :
    view (xs.foldl f b) = view b := by
  induction xs generalizing b with
  | nil => rfl
  | cons x xs ih => rw [List.foldl_cons, ih, step]

theorem ite_view {β γ : Type} {view : β → γ} {c : Prop} [Decidable c] {x y : β} {v : γ} (hx : view x = v) (hy : view y = v) :
    view (if c then x else y) = v := by
  split
  · exact hx
  · exact hy

theorem noteFound_cfgHeld (found : Found) (d : Device) : (noteFound found d).cfgHeld = d.cfgHeld := by
  rw [foundOnly_noteFound found d]

theorem bar2Events_cfgHeld (es : List MemEvent) (d : Device) : (bar2Events es d).cfgHeld = d.cfgHeld := by
  refine foldl_view (view := Device.cfgHeld) (fun d e => ?_) _ d
  cases e with
  | corrected w => exact (eventsOnly_noteCorrected w d).cfgHeld
  | stackCorrected w => exact ite_view rfl rfl
  | uncorrectable w stack => rfl

theorem freeFabric_cfgHeld (d : Device) : (freeFabric d).cfgHeld = d.cfgHeld := by
  refine Eq.trans (foldl_view (view := Device.cfgHeld) ?_ _ _) (foldl_view (view := Device.cfgHeld) ?_ _ _)
  · exact fun _ _ => ite_view rfl rfl
  · exact fun _ _ => rfl

theorem freeResults_cfgHeld (d : Device) : (freeResults d).cfgHeld = d.cfgHeld := by
  refine (freeFabric_cfgHeld _).trans (foldl_view (view := Device.cfgHeld) ?_ _ _)
  exact fun _ _ => rfl

theorem noteRaced_cfgHeld (a n : Nat) (d : Device) : (noteRaced a n d).cfgHeld = d.cfgHeld :=
  ite_view (view := Device.cfgHeld) rfl (ite_view (view := Device.cfgHeld) (freeResults_cfgHeld _) rfl)

theorem setHifErr_cfgHeld (k : Nat) (d : Device) : (setHifErr k d).cfgHeld = d.cfgHeld := msix_cfgHeld ..

theorem bar2Read_cfgHeld (a n : Nat) (d : Device) : (bar2Read a n d).cfgHeld = d.cfgHeld := by
  have runs (rs : List (Nat × List Byte)) : (rs.foldl bar2ReadRun ([], false, d)).2.2.cfgHeld = d.cfgHeld :=
    foldl_view (view := fun x : Tab Byte × Bool × Device => x.2.2.cfgHeld) (fun _ _ => bar2Events_cfgHeld ..) rs _
  refine Eq.trans (ite_view (view := Device.cfgHeld) (setHifErr_cfgHeld 1 _) rfl) (runs _)

theorem bar2Write_cfgHeld (a : Nat) (bs : List Byte) (d : Device) : (bar2Write a bs d).cfgHeld = d.cfgHeld := by
  have runs (rs : List (Nat × List Byte)) : (rs.foldl bar2Run d).cfgHeld = d.cfgHeld := by
    refine foldl_view (view := Device.cfgHeld) (fun _ _ => ?_) rs d
    exact (bar2Events_cfgHeld ..).trans (noteRaced_cfgHeld ..)
  exact Eq.trans (ite_view (view := Device.cfgHeld) (setHifErr_cfgHeld 1 _) rfl) (runs _)

theorem bar2Do_cfgHeld (op : Bar2Op) (d : Device) : (bar2Do op d).cfgHeld = d.cfgHeld := by
  cases op with
  | read => exact bar2Read_cfgHeld ..
  | write => exact bar2Write_cfgHeld ..

/-! ### The end of a loop-back -/

/-- The accesses that waited for a loop-back's link are made at its end (R496). -/
def makeAccesses (ws : List (Bar2Op × Found)) (d : Device) : Device :=
  ws.foldl (fun d w => bar2Do w.1 (noteFound w.2 d)) d

theorem endLoopback_free {f : Test → Test} (free : d.cfgHeld = false) : endLoopback f d =
    makeAccesses (f d.test).waiting { d with test := { f d.test with busy := false, done := true, waiting := [] } } := by
  refine tryLock_free (Eq.trans ?_ free)
  exact foldl_view (view := Device.cfgHeld) (fun d w => (bar2Do_cfgHeld ..).trans (noteFound_cfgHeld ..)) _ _

/-- A loop-back's counts since the last look (R503). -/
theorem advanceLoopback_eq (d : Device) :
    advanceLoopback d = { d with freeCtr := (advanceLoopback d).freeCtr, test := { d.test with
      units := (advanceLoopback d).test.units, errors := (advanceLoopback d).test.errors
      corr := (advanceLoopback d).test.corr } } := by
  unfold advanceLoopback
  dsimp only
  split <;> rfl

theorem advanceLoopback_unlocked (lock : d.test.lock = false) : advanceLoopback d = d := by
  rw [advanceLoopback]
  exact if_pos (by simp [lock])

/-- An abort of a loop-back for which nothing waits (R497). -/
theorem abortLoopback_busy (busy : d.test.busy = true) (none' : d.test.waiting = []) (free : d.cfgHeld = false) :
    abortLoopback d = { d with freeCtr := (advanceLoopback d).freeCtr, test := { (advanceLoopback d).test with
      aborted := true, pass := false, busy := false, done := true } } := by
  have eq := advanceLoopback_eq d
  rw [abortLoopback, if_neg (by simp [busy]), endLoopback_free (by rw [eq]; exact free)]
  dsimp only
  rw [eq]
  simp only [none', makeAccesses, List.foldl_nil]

/-! ### START -/

/-- The masks of TST_LB_CTL. -/
def controlMask : Nat := rwMask .tstLbCtl

theorem writeFields_tstLbCtl {v : W64} : writeFields .tstLbCtl .whole v d = setBits .tstLbCtl controlMask v d := by
  rw [writeFields_rw rfl, if_neg (by decide)]
  rfl

/-- Whether a START with a control word starts a loop-back (R493). -/
def controlStarts (v : W64) (d : Device) : Bool :=
  wipeDone d && !lockWritten d && !d.test.busy &&
    loopbackExists (bitsOf v.toNat 4 3) (bitsOf v.toNat 8 4) (bitsOf v.toNat 12 2) && decide (bitsOf v.toNat 16 32 ≠ 0)

theorem startLoopback_written (v : W64) (d : Device) : startLoopback (setBits .tstLbCtl controlMask v d) =
    let x := setBits .tstLbCtl controlMask v d
    if controlStarts v d then takeInterface (bitsOf v.toNat 4 3) (bitsOf v.toNat 8 4) { x with test := { Test.zero with
      busy := true, refused := d.test.refused, target := bitsOf v.toNat 4 3, index := bitsOf v.toNat 8 4
      depth := bitsOf v.toNat 12 2, residue := d.test.residue } }
    else { x with test := { d.test with refused := true } } := by
  have target : regField (setBits .tstLbCtl controlMask v d) .tstLbCtl 4 3 = bitsOf v.toNat 4 3 :=
    regField_setBits (by decide +kernel)
  have index : regField (setBits .tstLbCtl controlMask v d) .tstLbCtl 8 4 = bitsOf v.toNat 8 4 :=
    regField_setBits (by decide +kernel)
  have depth : regField (setBits .tstLbCtl controlMask v d) .tstLbCtl 12 2 = bitsOf v.toNat 12 2 :=
    regField_setBits (by decide +kernel)
  have seconds : regField (setBits .tstLbCtl controlMask v d) .tstLbCtl 16 32 = bitsOf v.toNat 16 32 :=
    regField_setBits (by decide +kernel)
  rw [startLoopback, target, index, depth, seconds]
  rfl

theorem devStart_eq {v : W64} (on : linked d = true) : devStart v d =
    whenD (v.getLsbD 1 && d.test.busy) abortLoopback (startLoopback (setBits .tstLbCtl controlMask v d)) := by
  rw [devStart, if_pos on, writeFields_tstLbCtl]
  rfl

/-- A loop-back takes its interface and nothing else. -/
theorem takeInterface_eq (target index : Nat) (d : Device) : takeInterface target index d = { d with
    power := { d.power with linkUp := d.power.linkUp && target != 0 }, fab := (takeInterface target index d).fab } := by
  match target with
  | 0 => simp [takeInterface]
  | 1 => simp [takeInterface]
  | 2 => simp [takeInterface]
  | n + 3 => simp [takeInterface]

theorem regGet_control {v : W64} {r : RegName} (other : r ≠ .tstLbCtl) :
    regGet (setBits .tstLbCtl controlMask v d) r = regGet d r :=
  regGet_regSet_ne _ _ _ _ other

theorem devStart_starts {v : W64} (on : linked d = true) (starts : controlStarts v d = true) :
    devStart v d = takeInterface (bitsOf v.toNat 4 3) (bitsOf v.toNat 8 4) { setBits .tstLbCtl controlMask v d with
      test := { Test.zero with
        busy := true, refused := d.test.refused, target := bitsOf v.toNat 4 3, index := bitsOf v.toNat 8 4
        depth := bitsOf v.toNat 12 2, residue := d.test.residue } } := by
  have idle : d.test.busy = false := by
    simp only [controlStarts, Bool.and_eq_true, Bool.not_eq_true'] at starts
    exact starts.1.1.2
  rw [devStart_eq on, idle, Bool.and_false, startLoopback_written, whenD, if_neg (by decide)]
  exact if_pos starts

theorem startLoopback_refused {v : W64} (refused : controlStarts v d = false) :
    startLoopback (setBits .tstLbCtl controlMask v d) =
      { setBits .tstLbCtl controlMask v d with test := { d.test with refused := true } } := by
  rw [startLoopback_written]
  exact if_neg (ne_true_of_eq_false refused)

/-- The run phase ends with its verdict (R502, R503). -/
theorem devRunPhaseEnd_locked {u e k : Nat} (busy : d.test.busy = true) (lock : d.test.lock = true) (none' : d.test.waiting = [])
    (free : d.cfgHeld = false) : devRunPhaseEnd u e k d = { d with test := { lastCounts u e k d.test with
      pass := (lastCounts u e k d.test).errors = 0, busy := false, done := true } } := by
  rw [devRunPhaseEnd, if_pos (by simp [busy, lock]), endLoopback_free free]
  simp only [lastCounts, none', makeAccesses, List.foldl_nil]

/-- Settles O18: a loop-back starts, goes through its phases, and ends, with the accesses that waited. -/
theorem loopbackRuns : Obligations.LoopbackRuns := by
  refine ⟨fun s v on => ⟨fun starts => ?_, fun refused alone => ?_, fun busy aborts none' free => ?_⟩, fun s busy free =>
    ⟨fun lock => ⟨lift_of_eq ?_, lift_of_eq ?_⟩, fun lock none' u e k => ?_, fun on none' => ?_⟩⟩
  · have runs := (devStart_starts (d := entry s) on starts).trans (takeInterface_eq _ _ _)
    exact ⟨_, lift_of_eq runs, rfl, rfl, rfl, rfl, rfl, rfl, rfl, rfl, rfl, rfl, rfl, rfl, rfl, rfl, rfl,
      fun r other => regGet_control other⟩
  · have quiet : (v.getLsbD 1 && (entry s).test.busy) = false := by
      rcases alone with idle | off
      · rw [show (entry s).test.busy = false from idle, Bool.and_false]
      · rw [off, Bool.false_and]
    have refuses := devStart_eq (d := entry s) (v := v) on
    rw [quiet, startLoopback_refused (d := entry s) refused, whenD, if_neg (by decide)] at refuses
    exact ⟨_, lift_of_eq refuses, rfl, rfl, rfl, fun r other => regGet_control other⟩
  · have refused : controlStarts v (entry s) = false := by
      simp only [controlStarts, show (entry s).test.busy = true from busy, Bool.not_true, Bool.and_false, Bool.false_and]
    have ends := devStart_eq (d := entry s) (v := v) on
    rw [aborts, show (entry s).test.busy = true from busy, startLoopback_refused refused, whenD, Bool.and_self, if_pos rfl,
      abortLoopback_busy (by exact busy) (by exact none') (by exact free), advanceLoopback_eq] at ends
    exact ⟨_, lift_of_eq ends, rfl, rfl, rfl, rfl, rfl, rfl⟩
  · rw [devLoopbackLock, if_pos (by simp [entry, busy, lock])]
    rfl
  · rw [devLockLimit, if_pos (by simp [entry, busy, lock]), endLoopback_free (d := entry s) free]
    rfl
  · have ends := devRunPhaseEnd_locked (d := entry s) (u := u) (e := e) (k := k) busy lock none' free
    refine ⟨_, lift_of_eq ends, rfl, rfl, rfl, by simp, ?_, ?_⟩
    · intro counts
      have counts : countsUnits (entry s).test = true := by
        simp only [countsUnits, Bool.not_eq_true', Bool.and_eq_false_iff, decide_eq_false_iff_not]
        exact Classical.not_and_iff_not_or_not.1 counts
      simp only [lastCounts, counts, if_true]
      exact ⟨rfl, rfl⟩
    · intro target depth
      have counts : countsUnits (entry s).test = false := by
        simp only [countsUnits, Bool.not_eq_false', Bool.and_eq_true, decide_eq_true_eq]
        exact ⟨target, depth⟩
      simp only [lastCounts, counts, Bool.false_eq_true, if_false, and_self]
  · have aborts : devAbort (entry s) = abortLoopback (entry s) := if_pos on
    have ends := aborts.trans (abortLoopback_busy (d := entry s) busy none' free)
    refine ⟨_, lift_of_eq ends, rfl, rfl, rfl, rfl, rfl, fun lock => ?_⟩
    rw [advanceLoopback_unlocked (d := entry s) lock]
    exact ⟨rfl, rfl⟩

end Sys2Proof.Machine
end

section
/-!
PROOF. The lengths of what the hashes deliver: Keccak's state keeps its shape of five planes of five lanes.
-/
namespace Sys2Proof.Machine

/-- Five planes of five lanes. -/
def Shaped (s : Planes) : Prop := s.length = 5 ∧ ∀ p ∈ s, p.length = 5

theorem shaped_map {s : Planes} {f : List Nat → List Nat} (h : Shaped s) (keeps : ∀ p : List Nat, p.length = 5 → (f p).length = 5) :
    Shaped (s.map f) := by
  refine ⟨by rw [List.length_map, h.1], fun p hp => ?_⟩
  obtain ⟨q, hq, rfl⟩ := List.mem_map.1 hp
  exact keeps q (h.2 q hq)

theorem shaped_set {s : Planes} {i : Nat} {p : List Nat} (h : Shaped s) (lanes : p.length = 5) : Shaped (s.set i p) := by
  refine ⟨by rw [List.length_set, h.1], fun q hq => ?_⟩
  rcases List.mem_or_eq_of_mem_set hq with old | rfl
  · exact h.2 q old
  · exact lanes

theorem shaped_modifyHead {s : Planes} {f : List Nat → List Nat} (h : Shaped s)
    (keeps : ∀ p : List Nat, p.length = 5 → (f p).length = 5) : Shaped (s.modifyHead f) := by
  obtain ⟨len, lanes⟩ := h
  cases s with
  | nil => cases len
  | cons p s =>
    refine ⟨len, fun q hq => ?_⟩
    rcases List.mem_cons.1 hq with rfl | hq
    · exact keeps p (lanes p List.mem_cons_self)
    · exact lanes q (List.mem_cons_of_mem _ hq)

theorem shaped_getD {s : Planes} {i : Nat} (h : Shaped s) (small : i < 5) : (s.getD i []).length = 5 := by
  rw [List.getD_eq_getElem?_getD, List.getElem?_eq_getElem (by rw [h.1]; exact small), Option.getD_some]
  exact h.2 _ (List.getElem_mem _)

theorem shaped_walkLanes {s : Planes} (left t x y : Nat) {acc : Planes} (h : Shaped acc) : Shaped (walkLanes s left t x y acc) := by
  induction left generalizing t x y acc with
  | zero => exact h
  | succ left ih =>
    refine ih _ _ _ (shaped_set h ?_)
    rw [List.length_set]
    exact shaped_getD h (Nat.mod_lt _ (by decide))

theorem length_chiPlane {p : List Nat} (h : p.length = 5) : (chiPlane p).length = 5 := by
  match p, h with
  | [_, _, _, _, _], _ => rfl

theorem length_thetaEffect {p : List Nat} (h : p.length = 5) :
    (List.zipWith Nat.xor (p.rotateRight 1) ((p.rotateLeft 1).map (turnLane 1))).length = 5 := by
  match p, h with
  | [_, _, _, _, _], _ => rfl

theorem length_xorLanes {s : Planes} {acc : List Nat} (h : ∀ p ∈ s, p.length = 5) (lanes : acc.length = 5) :
    (s.foldl (List.zipWith Nat.xor) acc).length = 5 := by
  induction s generalizing acc with
  | nil => exact lanes
  | cons p s ih =>
    refine ih (fun q hq => h q (List.mem_cons_of_mem _ hq)) ?_
    rw [List.length_zipWith, lanes, h p List.mem_cons_self, Nat.min_self]

theorem shaped_thetaPlanes {s : Planes} (h : Shaped s) : Shaped (thetaPlanes s) := by
  refine shaped_map h fun p lanes => ?_
  rw [List.length_zipWith, lanes, length_thetaEffect (length_xorLanes h.2 (List.length_replicate ..)), Nat.min_self]

theorem shaped_keccakRound {st : Nat × Planes} (h : Shaped st.2) : Shaped (keccakRound st).2 := by
  simp only [keccakRound]
  refine shaped_modifyHead (shaped_map ?_ fun p => length_chiPlane) fun p lanes => ?_
  · exact shaped_walkLanes _ _ _ _ (shaped_thetaPlanes h)
  · rw [List.length_modifyHead, lanes]

theorem shaped_keccakF {s : Planes} (h : Shaped s) : Shaped (keccakF s) := by
  have rounds (n : Nat) : Shaped (Nat.repeat keccakRound n (1, s)).2 := by
    induction n with
    | zero => exact h
    | succ n ih => exact shaped_keccakRound ih
  exact rounds 24

/-- A whole number of pieces. -/
theorem pieces_whole {n k fuel : Nat} {bs : List Byte} (some' : 0 < n) (whole : bs.length = n * k) (enough : k ≤ fuel) :
    (pieces n fuel bs).length = k ∧ ∀ p ∈ pieces n fuel bs, p.length = n := by
  induction k generalizing fuel bs with
  | zero =>
    obtain rfl : bs = [] := List.length_eq_zero_iff.1 whole
    cases fuel <;> exact ⟨rfl, nofun⟩
  | succ k ih =>
    obtain ⟨fuel, rfl⟩ : ∃ m, fuel = m + 1 := ⟨fuel - 1, by omega⟩
    have left : bs.length = n * k + n := whole
    have rest := ih (bs := bs.drop n) (fuel := fuel) (by rw [List.length_drop, left, Nat.add_sub_cancel]) (by omega)
    have filled : bs.isEmpty = false := by
      cases bs with
      | nil => simp at left; omega
      | cons => rfl
    simp only [pieces, filled, Bool.false_eq_true, if_false, List.length_cons, rest.1, true_and]
    rintro p (_ | ⟨_, hp⟩)
    · rw [List.length_take, left]
      omega
    · exact rest.2 p hp

theorem shaped_absorbBlock {s : Planes} {block : List Byte} (h : Shaped s) : Shaped (absorbBlock s block) := by
  obtain ⟨rows, wide⟩ := pieces_whole (n := 40) (k := 5) (fuel := 5) (bs := padTo 200 block) (by decide) (padTo_length ..) (Nat.le_refl _)
  have lanes (p : List Nat) (hp : p ∈ (pieces 40 5 (padTo 200 block)).map words64) : p.length = 5 := by
    obtain ⟨row, hrow, rfl⟩ := List.mem_map.1 hp
    have long := wide row hrow
    rw [words64, List.length_map]
    exact (pieces_whole (n := 8) (k := 5) (by decide) long (by omega)).1
  refine shaped_keccakF ⟨?_, fun p hp => ?_⟩
  · rw [List.length_zipWith, h.1, List.length_map, rows, Nat.min_self]
  · rw [← List.map_uncurry_zip_eq_zipWith] at hp
    obtain ⟨⟨q, r⟩, hqr, rfl⟩ := List.mem_map.1 hp
    obtain ⟨hq, hr⟩ := List.of_mem_zip hqr
    simp only [Function.uncurry, List.length_zipWith, h.2 q hq, lanes r hr, Nat.min_self]

theorem shaped_foldl (xs : List (List Byte)) {s : Planes} (h : Shaped s) : Shaped (xs.foldl absorbBlock s) := by
  induction xs generalizing s with
  | nil => exact h
  | cons x xs ih =>
    rw [List.foldl_cons]
    exact ih (shaped_absorbBlock h)

theorem shaped_keccakAbsorb (rate domain : Nat) (m : List Byte) : Shaped (keccakAbsorb rate domain m) := by
  unfold keccakAbsorb
  refine shaped_foldl _ ⟨List.length_replicate .., fun p hp => ?_⟩
  rw [List.eq_of_mem_replicate hp, List.length_replicate]

/-- The bytes of a state of the shape. -/
theorem length_stateBytes {s : Planes} (h : Shaped s) : (s.flatMap fun p => p.flatMap (bytesOfNat 8)).length = 200 := by
  have lane (p : List Nat) : (p.flatMap (bytesOfNat 8)).length = 8 * p.length := by
    induction p with
    | nil => rfl
    | cons v p ih => simp only [List.flatMap_cons, List.length_append, bytesOfNat_length, ih, List.length_cons]; omega
  match s, h with
  | [a, b, c, d, e], ⟨_, lanes⟩ =>
    simp only [List.flatMap_cons, List.flatMap_nil, List.length_append, lane, List.length_nil]
    rw [lanes a (by simp), lanes b (by simp), lanes c (by simp), lanes d (by simp), lanes e (by simp)]

theorem shake256_512_length (m : List Byte) : (shake256_512 m).length = 64 := by
  have block := length_stateBytes (shaped_keccakAbsorb 136 0x1F m)
  unfold shake256_512 shake256
  generalize keccakAbsorb 136 0x1F m = planes at block
  have blocks : keccakSqueeze 136 (64 / 136 + 1) planes = ((planes.flatMap fun p => p.flatMap (bytesOfNat 8)).take 136) ++ [] := rfl
  rw [blocks, List.append_nil, List.take_take, List.length_take, block]
  rfl

end Sys2Proof.Machine
end

section
/-!
PROOF. SPDM requests and their answers (R480).
-/
namespace Sys2Proof.Machine

variable {d : Device}

/-! ### Requests by their guards -/

theorem spdmRequest_ready {code : Nat} {ready : Bool} {f : Device → Device} (serves : spdmServes d = true)
    (lives : d.fuses.lifecycle ≠ .scrap) (ok : ready = true) : spdmRequest code ready f d = f d := by
  rw [spdmRequest, if_neg (by simp [serves]), if_neg lives, if_neg (by simp [ok])]

theorem devGetVersion_eq (serves : spdmServes d = true) : devGetVersion d = spdmExchange .version [0x10#8, 0x84#8, 0#8, 0#8]
    [0x10#8, 0x04#8, 0#8, 0#8, 0#8, 1#8, 0x00#8, 0x13#8] d := by
  rw [devGetVersion, if_neg (by simp [serves])]

/-- The plain GET_CAPABILITIES request, and its response. -/
def capabilitiesPlain : List Byte :=
  [0x13#8, 0xE1#8, 0#8, 0#8] ++ List.replicate 8 0#8 ++ (bytesOfNat 4 spdmMax ++ bytesOfNat 4 spdmMax)
def capabilitiesAnswer (time : Nat) : List Byte :=
  [0x13#8, 0x61#8, 0#8, 0#8, 0#8, BitVec.ofNat 8 time, 0#8, 0#8] ++ bytesOfNat 4 spdmFlags ++
    (bytesOfNat 4 spdmMax ++ bytesOfNat 4 spdmMax)

theorem devGetCapabilities_eq {msg : List Byte} (serves : spdmServes d = true) (begun : d.boot.spdm ≠ .start) :
    devGetCapabilities msg d = spdmExchange .capabilities (messageBytes msg capabilitiesPlain)
      (capabilitiesAnswer (Config.free d.freeCtr)) { d with freeCtr := d.freeCtr + 1 } := by
  rw [devGetCapabilities, if_neg (by simp [serves]), if_neg begun]
  rfl

theorem devNegotiateAlgorithms_eq {a h : Bool} {msg : List Byte} (serves : spdmServes d = true)
    (lives : d.fuses.lifecycle ≠ .scrap) (ready : d.boot.spdm ≠ .start) (ready' : d.boot.spdm ≠ .version) :
    devNegotiateAlgorithms a h msg d = if !a && !h then spdmError spdmInvalid 0 d
      else spdmExchange .negotiated (messageBytes msg (negotiateRequest a h)) (algorithms a h) d :=
  spdmRequest_ready serves lives (by simp [ready, ready'])

theorem spdmAfter_negotiated {code : Nat} {f : Device → Device} (serves : spdmServes d = true)
    (lives : d.fuses.lifecycle ≠ .scrap) (ready : d.boot.spdm = .negotiated) :
    spdmAfter code f d = f { d with boot := { d.boot with measured := [] } } :=
  spdmRequest_ready serves lives (by simp [ready])

theorem messageBytes_given {msg plain : List Byte} (given : msg ≠ []) : messageBytes msg plain = msg := by
  cases msg with
  | nil => exact absurd rfl given
  | cons => rfl

/-! ### Measurements -/

theorem measurementOf_length (d : Device) (i : Nat) : (measurementOf d i).length = 64 := by
  unfold measurementOf
  repeat' split
  all_goals first | exact shake256_512_length _ | exact padTo_length ..

theorem measurementBlock_length (d : Device) (i : Nat) : (measurementBlock d i).length = 71 := by
  simp only [measurementBlock, List.length_append, bytesOfNat_length, measurementOf_length]

theorem nonceBytes_spec (n : Nat) (d : Device) :
    (nonceBytes n d).1.length = n ∧ (nonceBytes n d).2 = { d with freeCtr := (nonceBytes n d).2.freeCtr } := by
  induction n generalizing d with
  | zero => exact ⟨rfl, rfl⟩
  | succ n ih =>
    obtain ⟨len, only⟩ := ih (takeFree d).2
    exact ⟨congrArg (· + 1) len, only⟩

/-- A MEASUREMENTS response with one block: its head, and what follows the block. -/
def measurementsHead : List Byte := [0x13#8, 0x60#8, 0#8, 0#8, 1#8] ++ bytesOfNat 3 71
def measurementsBody (i : Nat) (signed : Bool) (msg : List Byte) (d : Device) : List Byte :=
  measurementsHead ++ measurementBlock d i ++ (nonceBytes 32 d).1 ++ bytesOfNat 2 0 ++ requesterContext signed msg

/-- The parts of a response with one block, whatever signature follows. -/
theorem measurementsBody_parts (i : Nat) (signed : Bool) (msg sig : List Byte) (d : Device) :
    let r := measurementsBody i signed msg d ++ sig
    r.take 8 = measurementsHead ∧ slice r 8 71 = measurementBlock d i ∧ slice r 113 8 = requesterContext signed msg := by
  have head : measurementsHead.length = 8 := rfl
  have block := measurementBlock_length d i
  have nonce := (nonceBytes_spec 32 d).1
  have opaque' : (bytesOfNat 2 0).length = 2 := rfl
  have context : (requesterContext signed msg).length = 8 := padTo_length ..
  simp only [measurementsBody, slice]
  generalize measurementsHead = a at *
  generalize measurementBlock d i = b at *
  generalize (nonceBytes 32 d).1 = n at *
  generalize bytesOfNat 2 0 = o at *
  generalize requesterContext signed msg = c at *
  simp only [List.append_assoc]
  refine ⟨List.take_left' head, ?_, ?_⟩
  · rw [List.drop_left' head]
    exact List.take_left' block
  · rw [← List.append_assoc a, ← List.append_assoc (a ++ b), ← List.append_assoc (a ++ b ++ n),
      List.drop_left' (by simp only [List.length_append, head, block, nonce, opaque'])]
    exact List.take_left' context

theorem answerMeasurements_one {i : Nat} {signed : Bool} {msg : List Byte} (low : 1 ≤ i) (high : i ≤ 5)
    (slot : signed = true → field msg 36 1 % 16 = 0) :
    ∃ sig boot, answerMeasurements i signed msg d = { d with
      out := d.out ++ [.doe (measurementsBody i signed msg d ++ sig)], freeCtr := (nonceBytes 32 d).2.freeCtr, boot := boot } ∧
      boot.transcript = d.boot.transcript := by
  have serves : ¬ ((i ≠ 0xFF && 5 < i) || (signed && field msg 36 1 % 16 ≠ 0)) = true := by
    cases signed with
    | false => simp; omega
    | true => simp [slot rfl]; omega
  have only := (nonceBytes_spec 32 d).2
  have first : i ≠ 0 := by omega
  have all : i ≠ 0xFF := by omega
  have body : [0x13#8, 0x60#8, BitVec.ofNat 8 (if i = 0 then 5 else 0), 0#8] ++ bytesOfNat 1 [i].length ++
      bytesOfNat 3 ([i].flatMap (measurementBlock d)).length ++ [i].flatMap (measurementBlock d) ++ (nonceBytes 32 d).1 ++
      bytesOfNat 2 0 ++ requesterContext signed msg = measurementsBody i signed msg d := by
    simp only [first, if_false, List.flatMap_cons, List.flatMap_nil, List.append_nil, measurementBlock_length]
    rfl
  simp only [answerMeasurements]
  rw [if_neg serves]
  simp only [if_neg first, if_neg all] at body ⊢
  rw [body, only]
  cases signed with
  | false =>
    refine ⟨[], { d.boot with measured := d.boot.measured ++ msg ++ measurementsBody i false msg d }, ?_, rfl⟩
    rw [List.append_nil]
    rfl
  | true => exact ⟨_, _, rfl, rfl⟩

theorem answerMeasurements_otherSlot {i : Nat} {msg : List Byte} (slot : field msg 36 1 % 16 ≠ 0) :
    answerMeasurements i true msg d = spdmError spdmInvalid 0 d := by
  rw [answerMeasurements, if_pos (by simp [slot])]

theorem devGetMeasurements_eq {i : Nat} {signed : Bool} {nonce msg : List Byte} (serves : spdmServes d = true)
    (lives : d.fuses.lifecycle ≠ .scrap) (ready : d.boot.spdm = .negotiated) (keyed : signed = true → d.boot.aliasSeed ≠ []) :
    devGetMeasurements i signed nonce msg d =
      if inBoundary d then { d with boot := { d.boot with
        measWaiting := some (i, signed, messageBytes msg (measurementsRequest i signed nonce)) } }
      else answerMeasurements i signed (messageBytes msg (measurementsRequest i signed nonce)) d := by
  refine (spdmRequest_ready serves lives (by simp [ready])).trans (if_neg ?_)
  cases signed with
  | false => simp
  | true => simpa using keyed rfl

theorem devGetCertificate_inside {off len : Nat} (serves : spdmServes d = true) (lives : d.fuses.lifecycle ≠ .scrap)
    (ready : d.boot.spdm = .negotiated) (inside : off < d.boot.chain.length) :
    devGetCertificate 0 off len d =
      let part := slice d.boot.chain off (min len (spdmMax - 8))
      emit (.doe ([0x13#8, 0x02#8, 0#8, 0#8] ++ bytesOfNat 2 part.length ++
        bytesOfNat 2 (d.boot.chain.length - off - part.length) ++ part)) { d with boot := { d.boot with measured := [] } } := by
  have filled : ¬ d.boot.chain.isEmpty = true := by
    intro empty
    rw [List.isEmpty_iff.1 empty] at inside
    cases inside
  refine (spdmAfter_negotiated serves lives ready).trans ?_
  dsimp only
  rw [if_neg filled, if_neg (by simpa using inside)]

/-- Settles O25: each request in its order is answered. -/
theorem spdmAnswers : Obligations.SpdmAnswers := by
  refine ⟨fun s serves => ⟨⟨_, _, lift_of_eq (devGetVersion_eq (d := entry s) serves)⟩, fun msg begun => ?_,
    fun lives begun versioned msg => ⟨fun a h offers => ?_, ?_⟩, fun code other => ?_⟩, fun s serves lives ready => ?_⟩
  · refine ⟨_, _, lift_of_eq (devGetCapabilities_eq (d := entry s) serves begun), messageBytes_given, rfl, rfl⟩
  · refine ⟨_, lift_of_eq ((devNegotiateAlgorithms_eq (d := entry s) serves lives begun versioned).trans (if_neg ?_)),
      messageBytes_given⟩
    cases a <;> cases h <;> simp at offers ⊢
  · exact lift_of_eq ((devNegotiateAlgorithms_eq (d := entry s) serves lives begun versioned).trans (if_pos rfl))
  · refine lift_of_eq ?_
    rw [devUnsupportedRequest, if_neg (by rw [show spdmServes (entry s) = true from serves]; simpa using other)]
    rfl
  · refine ⟨lift_of_eq (spdmAfter_negotiated (d := entry s) serves lives ready), fun off len inside => lift_of_eq ?_,
      fun i signed nonce msg keyed => ?_⟩
    · exact devGetCertificate_inside (d := entry s) serves lives ready inside
    · have asks := devGetMeasurements_eq (d := entry s) (i := i) (nonce := nonce) (msg := msg) serves lives ready keyed
      refine ⟨fun idle low high slot => ?_, fun idle signs slot => ?_, fun busy => lift_of_eq (asks.trans (if_pos busy))⟩
      · have asks := asks.trans (if_neg (ne_true_of_eq_false idle))
        obtain ⟨sig, boot, answers, transcript⟩ := answerMeasurements_one (d := entry s) low high slot
        obtain ⟨head, block, context⟩ := measurementsBody_parts i signed (messageBytes msg (measurementsRequest i signed nonce)) sig
          (entry s)
        exact ⟨_, _, lift_of_eq (asks.trans answers), rfl, head, block, context, transcript, rfl⟩
      · subst signs
        exact lift_of_eq ((asks.trans (if_neg (ne_true_of_eq_false idle))).trans (answerMeasurements_otherSlot slot))

end Sys2Proof.Machine
end

section
/-!
PROOF. Consumer commands, and the drain engine's token queues (R355, R386 to R389).
-/
namespace Sys2Proof.Machine

variable {d : Device}

/-! ### Reads of a queue's pool without errors -/

theorem poisonWords_none (ctr : Nat) (ws : List QWord) : poisonWords ctr [] ws = ws := by
  simp only [poisonWords, List.contains_nil, Bool.false_eq_true, if_false]
  exact List.map_fst_zip (by simp)

/-- A read without errors leaves the queue's words, and every other queue. -/
theorem poolRead_clean (q : Nat) (d : Device) : ∃ ms errs,
    poolRead q PoolRead.clean d = { setQueue q { queueOf d q with markers := ms } d with errs := errs } := by
  refine ⟨goodMarkers [] ((queueOf d q).words.zip (List.range (queueOf d q).words.length)) (queueOf d q).markers,
    { d.errs with parityWords := satAdd 32 d.errs.parityWords 0, parityPointer := satAdd 16 d.errs.parityPointer 0 }, ?_⟩
  simp only [poolRead, PoolRead.clean, lostAt, List.filter_nil, poisonWords_none, Option.map_none, Option.filter_none,
    List.isEmpty_nil, if_true, List.length_nil, List.replicate_zero, List.foldl_nil, Option.isSome_none, Bool.false_eq_true, if_false]
  rfl

theorem refill_free {q : Nat} (free : (queueOf d q).port = []) : refill q d = d := by
  simp only [refill, free, List.isEmpty_nil, if_true]

/-- A queue set anew, whose producer holds nothing back. -/
theorem refill_setQueue {q : Nat} {x : QState} (free : x.port = []) : refill q (setQueue q x d) = setQueue q x d :=
  refill_free (by rw [queueOf_setQueue_self, free])

theorem sameButQueues_setQueue {q : Nat} {x : QState} : SameButQueues d (setQueue q x d) := rfl

/-! ### Consumer commands -/

/-- What POP leaves. -/
theorem devPop_clean {q : Fin 1024} (on : powered d = true) (free : (queueOf d q.val).port = []) :
    let t := devPop q PoolRead.clean d
    (queueOf t q.val).words = (queueOf d q.val).words.drop 1 ∧ (queueOf t q.val).gap = (queueOf d q.val).gap ∧
      t.mem = d.mem ∧ t.out = d.out ∧ ∀ k, k ≠ q.val → queueOf t k = queueOf d k := by
  dsimp only
  cases words : (queueOf d q.val).words with
  | nil =>
    have still : devPop q PoolRead.clean d = d := by
      rw [devPop, whenD, if_neg (by simp [words])]
    rw [still, words]
    exact ⟨rfl, rfl, rfl, rfl, fun _ _ => rfl⟩
  | cons w ws =>
    obtain ⟨ms, errs, read⟩ := poolRead_clean q.val d
    have pops : devPop q PoolRead.clean d = popQueue q.val (poolRead q.val PoolRead.clean d) := by
      rw [devPop, whenD, if_pos (by simp [on, words])]
      rfl
    rw [pops, read]
    generalize here : ({ setQueue q.val { queueOf d q.val with markers := ms } d with errs := errs } : Device) = x
    have queue : queueOf x q.val = { queueOf d q.val with markers := ms } := by
      rw [← here]
      exact queueOf_setQueue_self ..
    have others (k : Nat) (other : k ≠ q.val) : queueOf x k = queueOf d k := by
      rw [← here]
      exact queueOf_setQueue_ne _ _ _ _ other
    simp only [popQueue]
    rw [refill_setQueue (by rw [queue]; exact free), queueOf_setQueue_self, queue]
    refine ⟨by rw [withWords, words], rfl, ?_, ?_, fun k other => ?_⟩
    · rw [← here]
      rfl
    · rw [← here]
      rfl
    · rw [queueOf_setQueue_ne _ _ _ _ other, others k other]

theorem dropRestQueue_some {q : Nat} {ws : List QWord} (free : (queueOf d q).port = [])
    (ends : afterEnd (queueOf d q).words = some ws) : dropRestQueue q d = setQueue q (withWords (queueOf d q) ws) d := by
  simp only [dropRestQueue, ends]
  exact refill_setQueue free

theorem dropRestQueue_begun {q : Nat} (free : (queueOf d q).port = []) (open' : afterEnd (queueOf d q).words = none)
    (begun : (queueOf d q).begun ≠ 0) :
    dropRestQueue q d = setQueue q { withWords (queueOf d q) [] with swallow := true, refusing := false } d := by
  simp only [dropRestQueue, open', Nat.pos_of_ne_zero begun, if_true]
  exact refill_setQueue free

theorem dropRestQueue_none {q : Nat} (open' : afterEnd (queueOf d q).words = none) (none' : (queueOf d q).begun = 0) :
    dropRestQueue q d = d := by
  simp only [dropRestQueue, open', none', Nat.lt_irrefl, if_false]

theorem flushQueue_free {q : Nat} (free : (queueOf d q).port = []) : flushQueue q d = setQueue q
    { withWords (queueOf d q) [] with
      gap := 0, swallow := (queueOf d q).swallow || decide (0 < (queueOf d q).begun), refusing := false } d :=
  refill_setQueue free

/-- Settles O27: each command sets its own queue anew. -/
theorem consumerCommands : Obligations.ConsumerCommands := by
  intro s q on free
  have free : (queueOf (entry s) q.val).port = [] := free
  refine ⟨⟨_, rfl, devPop_clean (d := entry s) on free⟩, ?_, ?_⟩
  · refine ⟨_, lift_of_eq (if_pos on), ?_⟩
    have others (x : QState) (k : Nat) (other : k ≠ q.val) : queueOf (setQueue q.val x (entry s)) k = queueOf s.dev k :=
      queueOf_setQueue_ne _ _ _ _ other
    cases ends : afterEnd (queueOf (entry s) q.val).words with
    | some ws =>
      have ends' : afterEnd (queueOf s.dev q.val).words = some ws := ends
      rw [dropRestQueue_some free ends]
      refine ⟨sameButQueues_setQueue, fun ws' h => ?_, fun h => ?_, fun h => ?_, others _⟩
      · obtain rfl : ws = ws' := Option.some.inj (ends'.symm.trans h)
        rw [queueOf_setQueue_self]
        exact ⟨rfl, rfl⟩
      · cases ends'.symm.trans h
      · cases ends'.symm.trans h
    | none =>
      have ends' : afterEnd (queueOf s.dev q.val).words = none := ends
      by_cases begun : (queueOf (entry s) q.val).begun = 0
      · rw [dropRestQueue_none ends begun]
        refine ⟨rfl, fun ws h => ?_, fun _ some' => absurd begun some', fun _ _ => rfl, fun _ _ => rfl⟩
        cases ends'.symm.trans h
      · rw [dropRestQueue_begun free ends begun]
        refine ⟨sameButQueues_setQueue, fun ws h => ?_, fun _ _ => ?_, fun _ none' => absurd none' begun, others _⟩
        · cases ends'.symm.trans h
        · rw [queueOf_setQueue_self]
          exact ⟨rfl, rfl⟩
  · refine ⟨_, lift_of_eq ((if_pos on).trans (flushQueue_free free)), sameButQueues_setQueue, ?_⟩
    rw [queueOf_setQueue_self]
    refine ⟨rfl, rfl, ?_, fun k other => queueOf_setQueue_ne _ _ _ _ other⟩
    simp only [Nat.pos_iff_ne_zero]
    rfl

end Sys2Proof.Machine
end

section
/-!
PROOF. The drain engine's token queues (R386, R388).
-/
namespace Sys2Proof.Machine

variable {d : Device}

/-- From `a` to `b` the drain of queue `n` has taken `k` packets of `m` words: the queue, its ring's producer count, what leaves
the device, counts and free values alone have changed. -/
structure Drained (n k m : Nat) (a b : Device) : Prop where
  words : (queueOf b n).words = (queueOf a n).words.drop m
  port : (queueOf b n).port = (queueOf a n).port
  prod : Tab.getD b.hif.tqProd n 0 =
    if k = 0 then Tab.getD a.hif.tqProd n 0 else (Tab.getD a.hif.tqProd n 0 + k) % 2 ^ 32
  mem : b.mem = a.mem
  job : b.job = a.job
  role : b.role = a.role
  others : ∀ j, j ≠ n → queueOf b j = queueOf a j

theorem Drained.refl (n : Nat) (d : Device) : Drained n 0 0 d d :=
  ⟨rfl, rfl, rfl, rfl, rfl, rfl, fun _ _ => rfl⟩

theorem tokenRecord_device (p : List QWord) (ms : List Nat) (d : Device) :
    (tokenRecord p ms d).2.2 = { d with freeCtr := (tokenRecord p ms d).2.2.freeCtr } := by
  unfold tokenRecord
  dsimp only
  split
  · rfl
  · split <;> rfl

theorem ringDone_eq (off prod vec : Nat) (d : Device) :
    ringDone off prod vec d = { d with out := (ringDone off prod vec d).out, pcie := (ringDone off prod vec d).pcie } := by
  unfold ringDone
  dsimp only [whenD]
  split
  · rw [msix_eq]
    rfl
  · rfl

theorem Drained.trans {n j k l m : Nat} {a b c : Device} (h : Drained n j l a b) (h' : Drained n k m b c) :
    Drained n (j + k) (l + m) a c where
  words := by rw [h'.words, h.words, List.drop_drop]
  port := h'.port.trans h.port
  prod := by
    rw [h'.prod, h.prod]
    repeat' split
    all_goals omega
  mem := h'.mem.trans h.mem
  job := h'.job.trans h.job
  role := h'.role.trans h.role
  others := fun i other => (h'.others i other).trans (h.others i other)

/-- One packet goes to its ring. -/
def writeToken (n : Nat) (p : List QWord) (d : Device) : Device :=
  let x := queueOf d n
  let r := tokenRecord p x.markers d
  let d := setQueue n { x with words := x.words.drop p.length, markers := r.2.1 } r.2.2
  let c := ringCfg d (.hifTq (fin64 n))
  let prod := Tab.getD d.hif.tqProd n 0
  let next := (prod + 1) % 2 ^ 32
  let d := emit (.hostWrite (ringEntry c prod 16) r.1) d
  ringDone (1024 + 8 * n) next c.vec { d with hif := { d.hif with tqProd := Tab.put d.hif.tqProd n next } }

theorem writeTokens_cons (n : Nat) (p : List QWord) (ps : List (List QWord)) (d : Device) :
    writeTokens n (p :: ps) d = writeTokens n ps (writeToken n p d) := rfl

theorem queueOf_congr {a b : Device} (same : a.queues = b.queues) (q : Nat) : queueOf a q = queueOf b q := by
  rw [queueOf, queueOf, same]

theorem drained_writeToken (n : Nat) (p : List QWord) (d : Device) : Drained n 1 p.length d (writeToken n p d) := by
  simp only [writeToken]
  generalize rec : tokenRecord p (queueOf d n).markers d = r
  have free : r.2.2 = { d with freeCtr := r.2.2.freeCtr } := by rw [← rec]; exact tokenRecord_device ..
  rw [ringDone_eq, free]
  generalize set : setQueue n _ { d with freeCtr := r.2.2.freeCtr } = y
  have queue : queueOf y n = { queueOf d n with words := (queueOf d n).words.drop p.length, markers := r.2.1 } := by
    rw [← set]
    exact queueOf_setQueue_self ..
  have others (j : Nat) (other : j ≠ n) : queueOf y j = queueOf d j := by
    rw [← set]
    exact queueOf_setQueue_ne _ _ _ _ other
  have same : y.hif = d.hif ∧ y.mem = d.mem ∧ y.job = d.job ∧ y.role = d.role := by
    rw [← set]
    exact ⟨rfl, rfl, rfl, rfl⟩
  obtain ⟨hif, mem, job, role⟩ := same
  have words : (queueOf y n).words = (queueOf d n).words.drop p.length := by rw [queue]
  have port : (queueOf y n).port = (queueOf d n).port := by rw [queue]
  refine ⟨words, port, ?_, mem, job, role, others⟩
  rw [if_neg (by decide), ← hif]
  exact getD_put_self ..

/-- Each packet takes one ring entry, and its words leave the queue. -/
theorem drained_writeTokens (n : Nat) (ps : List (List QWord)) (d : Device) :
    Drained n ps.length ps.flatten.length d (writeTokens n ps d) := by
  induction ps generalizing d with
  | nil => exact .refl n d
  | cons p ps ih =>
    rw [writeTokens_cons, List.length_cons, List.flatten_cons, List.length_append, Nat.add_comm ps.length 1]
    exact (drained_writeToken n p d).trans (ih _)

/-- A read of the pool without errors leaves what the drain engine looks at. -/
theorem drained_poolRead (n : Nat) (d : Device) : Drained n 0 0 d (poolRead n PoolRead.clean d) := by
  obtain ⟨ms, errs, read⟩ := poolRead_clean n d
  have queue : queueOf (poolRead n PoolRead.clean d) n = { queueOf d n with markers := ms } := by
    rw [read]
    exact queueOf_setQueue_self ..
  refine ⟨by rw [queue]; rfl, by rw [queue], ?_, ?_, ?_, ?_, fun j other => ?_⟩ <;> rw [read]
  · rfl
  · rfl
  · rfl
  · rfl
  · exact queueOf_setQueue_ne _ _ _ _ other

/-- Packets that fit the ring leave the queue for it. -/
theorem drained_drainTokens (n : Nat) (d : Device) (free : (queueOf d n).port = []) :
    let ps := packetsOf (queueOf d n)
    let k := min ps.length (tqRoom d n)
    Drained n k ((ps.take k).flatten.length) d (drainTokens n (poolRead n PoolRead.clean d)) := by
  obtain ⟨ms, errs, read⟩ := poolRead_clean n d
  have queue : queueOf (poolRead n PoolRead.clean d) n = { queueOf d n with markers := ms } := by
    rw [read]
    exact queueOf_setQueue_self ..
  have room : tqRoom (poolRead n PoolRead.clean d) n = tqRoom d n := by
    rw [read]
    rfl
  have packets : packetsOf (queueOf (poolRead n PoolRead.clean d) n) = packetsOf (queueOf d n) := by
    rw [queue]
    rfl
  have reads := drained_poolRead n d
  generalize poolRead n PoolRead.clean d = x at *
  have writes := drained_writeTokens n ((packetsOf (queueOf d n)).take (tqRoom d n)) x
  have taken : (packetsOf (queueOf d n)).take (min (packetsOf (queueOf d n)).length (tqRoom d n)) =
      (packetsOf (queueOf d n)).take (tqRoom d n) := by
    rw [Nat.min_comm, ← List.take_take, List.take_length]
  have drains : drainTokens n x = writeTokens n ((packetsOf (queueOf d n)).take (tqRoom d n)) x := by
    rw [drainTokens, room, packets]
    exact refill_free (writes.port.trans (reads.port.trans free))
  have all := reads.trans writes
  rw [List.length_take, Nat.zero_add, Nat.zero_add, Nat.min_comm] at all
  dsimp only
  rw [taken, drains]
  exact all

theorem devDrain_tokens {n : Nat} {h : n < 128} (token : n < 64) (on : powered d = true) (locked : d.cfgLocked = true)
    (ready : batchReady d n = true) : devDrain ⟨n, h⟩ PoolRead.clean d = drainTokens n (poolRead n PoolRead.clean d) := by
  simp only [devDrain, on, locked, drainReady, token, ready, if_true, Bool.not_true, Bool.or_self, Bool.false_eq_true, if_false]

theorem devUnreadTimeout_tokens {n : Nat} {h : n < 129} (token : n < 64) (on : powered d = true) (locked : d.cfgLocked = true)
    (due : 0 < min (packetsOf (queueOf d n)).length (tqRoom d n)) :
    devUnreadTimeout ⟨n, h⟩ PoolRead.clean d = drainTokens n (poolRead n PoolRead.clean d) := by
  obtain ⟨some', room⟩ := Nat.lt_min.1 due
  have filled : (packetsOf (queueOf d n)).isEmpty = false := by
    rw [List.isEmpty_eq_false_iff]
    exact List.length_pos_iff.1 some'
  simp only [devUnreadTimeout, on, filled, token, whenD, locked, room, decide_true, Bool.not_true, Bool.not_false, Bool.or_self,
    Bool.and_self, Bool.false_eq_true, if_true, if_false]

/-- Settles O28: each packet takes one entry, and the words taken leave the queue. -/
theorem tokensDrain : Obligations.TokensDrain := by
  intro s n token on locked free q u ps k drained some'
  have moved := drained_drainTokens n (entry s) free
  have prod := moved.prod
  rw [if_neg (by exact Nat.ne_of_gt some')] at prod
  refine ⟨fun ready => ⟨_, lift_of_eq (devDrain_tokens (d := entry s) token on locked ready), ?_⟩,
    ⟨_, lift_of_eq (devUnreadTimeout_tokens (d := entry s) token on locked some'), ?_⟩⟩
  · exact ⟨moved.words, prod, moved.mem, moved.job, moved.role, moved.others⟩
  · exact ⟨moved.words, prod, moved.mem, moved.job, moved.role, moved.others⟩

end Sys2Proof.Machine
end

section
/-!
PROOF. The doorbell page, and completion timeouts (R352, R353, R355, R402, R530).
-/
namespace Sys2Proof.Machine

variable {d : Device}

/-! ### What the device tells the host leaves memory and power -/

/-- From `a` to `b` memory and power have stayed. -/
def Talks (a b : Device) : Prop := b.mem = a.mem ∧ b.power = a.power

theorem Talks.refl (d : Device) : Talks d d := ⟨rfl, rfl⟩

theorem Talks.trans {a b c : Device} (h : Talks a b) (k : Talks b c) : Talks a c := ⟨k.1.trans h.1, k.2.trans h.2⟩

theorem Talks.ite {a b b' : Device} {c : Prop} [Decidable c] (h : Talks a b) (k : Talks a b') : Talks a (if c then b else b') := by
  split
  · exact h
  · exact k

theorem talks_foldl {α : Type} {f : Device → α → Device} (step : ∀ d x, Talks d (f d x)) (xs : List α) (d : Device) :
    Talks d (xs.foldl f d) := by
  induction xs generalizing d with
  | nil => exact .refl d
  | cons x xs ih => exact (step d x).trans (ih _)

theorem talks_pushPacket (q : Nat) (ws : List W64) (d : Device) : Talks d (pushPacket q ws d) := by
  rw [pushPacket_eq]
  exact ⟨rfl, rfl⟩

theorem talks_postEvent (k : EventKind) (level block cell step info : Nat) (d : Device) :
    Talks d (postEvent k level block cell step info d) := by
  rw [postEvent_eq]
  exact ⟨rfl, rfl⟩

theorem talks_swapRoles (d : Device) : Talks d (swapRoles d) := by
  unfold swapRoles
  split <;> exact ⟨rfl, rfl⟩

theorem talks_inTurn (taken : Bool) {f : Device → Device} (talks : ∀ d, Talks d (f d)) (d : Device) : Talks d (inTurn taken f d) :=
  .ite (talks d) (((talks_swapRoles d).trans (talks _)).trans (talks_swapRoles _))

theorem talks_flushList (ps : List (Nat × List W64)) (d : Device) : Talks d (flushList ps d) := by
  induction ps generalizing d with
  | nil => exact .refl d
  | cons p ps ih => exact .ite (.refl d) ((talks_pushPacket ..).trans (ih _))

theorem talks_complete (cq code opcode kind xstatus handle : Nat) (tag : W64) (step result : Nat) (d : Device) :
    Talks d (complete cq code opcode kind xstatus handle tag step result d) := by
  have noted (q : Nat) (ws : List W64) : Talks d (noteReleased q ws d) := .ite ⟨rfl, rfl⟩ ⟨rfl, rfl⟩
  exact .ite (.refl d) ((noted _ _).trans (talks_flushList _ _))

theorem talks_answerMeasurements (i : Nat) (signed : Bool) (msg : List Byte) (d : Device) :
    Talks d (answerMeasurements i signed msg d) := by
  have only := (nonceBytes_spec 32 d).2
  refine .ite (.refl d) ?_
  dsimp only
  rw [only]
  exact ⟨rfl, rfl⟩

theorem talks_serveWaiting (d : Device) : Talks d (serveWaiting d) := by
  have report : Talks d (if d.boot.reportPending then writeReport { d with boot := { d.boot with reportPending := false } } else d) :=
    .ite ⟨rfl, rfl⟩ ⟨rfl, rfl⟩
  have reply (i : Nat) (signed : Bool) (msg : List Byte) (x : Device) :
      Talks x (answerMeasurements i signed msg { x with boot := { x.boot with measWaiting := none } }) :=
    Talks.trans (b := { x with boot := { x.boot with measWaiting := none } }) ⟨rfl, rfl⟩ (talks_answerMeasurements ..)
  unfold serveWaiting
  dsimp only
  split
  · exact report.trans (reply ..)
  · exact report

/-- What a device that stops tells the host: the event, its descriptors, its log, an attach in progress (R401, R402). -/
def fatalTold (level block info : Nat) (d : Device) : Device :=
  let descs := pendingDescs d
  let n := d.job.number
  let d := postEvent .fatal level block 0xF n info d
  let d := descs.foldl (fun d f => inTurn f.1 (completeDesc f.2 codeFatal (namedHandle f.2) n 0) d) d
  let d := if d.hif.log.mode = 0 then d
    else inTurn false (complete d.hif.log.cq codeFatal 0x50 0 0 0 d.hif.log.tag n 0) d
  if d.twin.state = .attaching || d.twin.state = .syncing then complete d.twin.cq codeFatal 0x41 0 0 0 d.twin.tag n 0 d else d

/-- A device that has told the host stands still. -/
def fatalHalt (d : Device) : Device :=
  { d with
    job := { d.job with fatal := true, halted := true }
    boot := { d.boot with phase := .halted, loading := none }
    work := Work.idle
    bnd := { Boundary.none with posting := d.bnd.posting }
    hif := { d.hif with fetched := [], queries := [], log := { d.hif.log with mode := 0 } }
    role := { d.role with held := [] }
    twin := { d.twin with taken := d.twin.taken.map fun r => { r with held := [] } }
    fab := { d.fab with up := 0#8, downEvt := d.fab.downEvt ||| d.fab.up, twinUp := false } }

theorem fatalAt_eq (level block info : Nat) (runs : d.job.fatal = false) :
    fatalAt level block info d = serveWaiting (fatalHalt (fatalTold level block info d)) := by
  rw [fatalAt, if_neg (by simp [runs]), fatalHalt, fatalTold]

theorem talks_fatalHalt (d : Device) : Talks d (fatalHalt d) := ⟨rfl, rfl⟩

theorem talks_fatalTold (level block info : Nat) (d : Device) : Talks d (fatalTold level block info d) := by
  have descs (ps : List (Bool × Fetched)) (n : Nat) (x : Device) :
      Talks x (ps.foldl (fun d f => inTurn f.1 (completeDesc f.2 codeFatal (namedHandle f.2) n 0) d) x) :=
    talks_foldl (fun _ _ => talks_inTurn _ (fun _ => talks_complete ..) _) ps x
  have event := talks_postEvent .fatal level block 0xF d.job.number info d
  have log (x : Device) : Talks x (if x.hif.log.mode = 0 then x
      else inTurn false (complete x.hif.log.cq codeFatal 0x50 0 0 0 x.hif.log.tag d.job.number 0) x) :=
    .ite (.refl x) (talks_inTurn _ (fun _ => talks_complete ..) _)
  have attach (x : Device) : Talks x (if x.twin.state = .attaching || x.twin.state = .syncing then
      complete x.twin.cq codeFatal 0x41 0 0 0 x.twin.tag d.job.number 0 x else x) := .ite (talks_complete ..) (.refl x)
  exact ((event.trans (descs _ _ _)).trans (log _)).trans (attach _)

/-- What waits for the end of a boundary leaves how the device stands. -/
theorem serveWaiting_job (d : Device) : (serveWaiting d).job = d.job ∧ (serveWaiting d).boot.phase = d.boot.phase := by
  have answers (i : Nat) (signed : Bool) (msg : List Byte) (x : Device) :
      (answerMeasurements i signed msg x).job = x.job ∧ (answerMeasurements i signed msg x).boot.phase = x.boot.phase := by
    have only := (nonceBytes_spec 32 x).2
    unfold answerMeasurements
    split
    · exact ⟨rfl, rfl⟩
    · dsimp only
      rw [only]
      exact ⟨rfl, rfl⟩
  have report : ∀ b : Bool, ∀ x : Device, (if b then writeReport { x with boot := { x.boot with reportPending := false } } else x).job =
      x.job ∧ (if b then writeReport { x with boot := { x.boot with reportPending := false } } else x).boot.phase = x.boot.phase := by
    intro b x
    cases b <;> exact ⟨rfl, rfl⟩
  obtain ⟨job, phase⟩ := report d.boot.reportPending d
  unfold serveWaiting
  dsimp only
  split
  · exact ⟨(answers ..).1.trans job, (answers ..).2.trans phase⟩
  · exact ⟨job, phase⟩

theorem fatalAt_stops (level block info : Nat) (runs : d.job.fatal = false) :
    (fatalAt level block info d).job.fatal = true ∧ (fatalAt level block info d).job.halted = true ∧
      (fatalAt level block info d).boot.phase = .halted ∧ Talks d (fatalAt level block info d) := by
  rw [fatalAt_eq _ _ _ runs]
  obtain ⟨job, phase⟩ := serveWaiting_job (fatalHalt (fatalTold level block info d))
  rw [job, phase]
  exact ⟨rfl, rfl, rfl, ((talks_fatalTold ..).trans (talks_fatalHalt _)).trans (talks_serveWaiting _)⟩

/-! ### The doorbell page -/

/-- A ring stops with its bit (R355). -/
theorem stopRing_spec (n : Nat) (d : Device) : (stopRing n d) = { d with
      hif := { d.hif with sqErr := (stopRing n d).hif.sqErr }, out := (stopRing n d).out, pcie := (stopRing n d).pcie } ∧
    ∀ k < 64, (stopRing n d).hif.sqErr.getLsbD k = (d.hif.sqErr.getLsbD k || decide (k = n)) := by
  unfold stopRing
  split
  next stopped =>
    refine ⟨rfl, fun k _ => ?_⟩
    by_cases same : k = n
    · simp [same, stopped]
    · simp [same]
  · refine ⟨?_, fun k small => ?_⟩
    · rw [msix_eq]
    · rw [msix_hif]
      simp only [BitVec.getLsbD_or, BitVec.getLsbD_shiftLeft, BitVec.getLsbD_one]
      by_cases same : k = n
      · subst same
        simp [small]
      · have : ¬ (k - n = 0 ∧ ¬ k < n) := by omega
        simp [small, same]
        omega

/-- Whether a ring's counts lie more than a ring apart (R355). -/
def overrun (d : Device) (n : Fin 64) : Bool :=
  (ringCfg d (.hifSq n)).en && decide (ringSize (ringCfg d (.hifSq n)) < sqWaiting d n.val)

/-- From `a` to `b` nothing has changed but stopped rings and their messages. -/
def StopsOnly (a b : Device) : Prop :=
  b = { a with hif := { a.hif with sqErr := b.hif.sqErr }, out := b.out, pcie := b.pcie }

theorem StopsOnly.view {a b : Device} (h : StopsOnly a b) :
    b = { a with hif := b.hif, out := b.out, pcie := b.pcie } ∧ b.hif = { a.hif with sqErr := b.hif.sqErr } := by
  unfold StopsOnly at h
  exact ⟨by rw [h], congrArg Device.hif h⟩

theorem StopsOnly.trans {a b c : Device} (h : StopsOnly a b) (k : StopsOnly b c) : StopsOnly a c := by
  unfold StopsOnly at *
  rw [k, h]

theorem overrun_stopsOnly {a b : Device} (h : StopsOnly a b) (n : Fin 64) : overrun b n = overrun a n := by
  rw [h]
  rfl

/-- The rings of a list that overrun stop. -/
theorem foldl_stopRing (ns : List (Fin 64)) (d : Device) :
    let x := ns.foldl (fun d n => if overrun d n then stopRing n.val d else d) d
    StopsOnly d x ∧ ∀ n : Fin 64, x.hif.sqErr.getLsbD n.val = (d.hif.sqErr.getLsbD n.val || (decide (n ∈ ns) && overrun d n)) := by
  induction ns generalizing d with
  | nil => exact ⟨rfl, fun n => by simp⟩
  | cons m ns ih =>
    have first : StopsOnly d (if overrun d m then stopRing m.val d else d) ∧ ∀ n : Fin 64,
        (if overrun d m then stopRing m.val d else d).hif.sqErr.getLsbD n.val =
          (d.hif.sqErr.getLsbD n.val || (decide (n = m) && overrun d m)) := by
      split
      next exceeds =>
        obtain ⟨only, bits⟩ := stopRing_spec m.val d
        refine ⟨only, fun n => ?_⟩
        rw [bits n.val n.isLt, exceeds, Bool.and_true]
        simp only [Fin.ext_iff]
      next fine =>
        refine ⟨rfl, fun n => ?_⟩
        simp [fine]
    obtain ⟨only, bits⟩ := first
    obtain ⟨only', bits'⟩ := ih (if overrun d m then stopRing m.val d else d)
    refine ⟨only.trans only', fun n => ?_⟩
    rw [List.foldl_cons, bits', bits, overrun_stopsOnly only, Bool.or_assoc]
    by_cases same : n = m
    · subst same
      cases overrun d n <;> simp
    · simp [same]

theorem stopOverrun_spec (d : Device) : StopsOnly d (stopOverrun d) ∧
    ∀ n : Fin 64, (stopOverrun d).hif.sqErr.getLsbD n.val = (d.hif.sqErr.getLsbD n.val || overrun d n) := by
  obtain ⟨only, bits⟩ := foldl_stopRing (List.finRange 64) d
  refine ⟨only, fun n => ?_⟩
  have all := bits n
  rwa [decide_eq_true (List.mem_finRange n), Bool.true_and] at all

theorem devDoorbellPoll_runs {page : Option Doorbell} (on : powered d = true) (locked : d.cfgLocked = true)
    (kept : d.twin.retired = false) (runs : d.job.halted = false) (elsewhere : d.bnd.ops.head? ≠ some .doorbell) :
    devDoorbellPoll page d = readPage page d := by
  rw [devDoorbellPoll, if_neg (by simp [on, locked, kept]), if_neg elsewhere, if_neg (by simp [runs])]

/-! ### Completion timeouts -/

theorem serving_logExpiry : serving (logExpiry d) = serving d := rfl

theorem devCompletionTimeout_doorbell (serves : serving d = true) :
    devCompletionTimeout .doorbell d = setHifErr 2 (logExpiry d) := if_pos serves

theorem devCompletionTimeout_other (serves : serving d = true) : devCompletionTimeout .other d = logExpiry d := if_pos serves

theorem devCompletionTimeout_descriptor {r : Fin 64} (waits : fetches d r = true) : devCompletionTimeout (.descriptor r) d =
    msix 0 { logExpiry d with hif := { d.hif with sqErr := d.hif.sqErr ||| (1#64 <<< r.val) } } := by
  have going : ¬ (logExpiry d).hif.sqErr.getLsbD r.val = true := by
    simp only [fetches, Bool.and_eq_true, Bool.not_eq_true'] at waits
    rw [Bool.not_eq_true]
    exact waits.1.2
  refine (if_pos waits).trans ?_
  rw [stopRing, if_neg going]
  rfl

theorem devCompletionTimeout_linkDown (serves : serving d = true) :
    devCompletionTimeout .linkDown d = goFatal 0 { d with power := { d.power with linkUp := false } } := by
  simp only [serving, fwRuns, Bool.and_eq_true] at serves
  obtain ⟨⟨⟨⟨on, phase⟩, fatal⟩, -⟩, -⟩ := serves
  have runs : fwRuns { d with power := { d.power with linkUp := false } } = true := by
    simp only [fwRuns, phase, fatal, Bool.and_true]
    exact on
  simp only [devCompletionTimeout, on, Bool.not_true, Bool.false_eq_true, if_false, runs, if_true]

/-- The least time of a read's range (R530). -/
theorem expired_iff {t : Nat} : expired d (some t) = true ↔ (if d.pcie.host.cplTimeout = 1#4 then 90
    else if d.pcie.host.cplTimeout = 0#4 ∨ d.pcie.host.cplTimeout = 2#4 then 9000 else 16000) ≤ t := by
  simp only [expired, readExpiry, decide_eq_true_eq, Bool.or_eq_true]
  split
  · rfl
  · split <;> rfl

/-- The counts of a page are taken (R352). -/
def pageTaken (p : Doorbell) (d : Device) : Device :=
  { d with hif := { d.hif with
      sqProd := pageCounts p.sqProd, cqCons := pageCounts p.cqCons, tqCons := pageCounts p.tqCons
      log := { d.hif.log with
        host := p.logHost.toNat
        bytes := if d.hif.log.mode = 2 then p.logBytes.take (p.logHost.toNat - d.hif.log.dev) else d.hif.log.bytes } } }

/-- A page that is read: its counts, and the rings that overrun (R352, R355). -/
theorem readPage_some (p : Doorbell) (d : Device) :
    let x := readPage (some p) d
    x = { d with hif := x.hif, out := x.out, pcie := x.pcie } ∧
      x.hif = { (pageTaken p d).hif with sqErr := x.hif.sqErr } ∧
      ∀ n : Fin 64, x.hif.sqErr.getLsbD n.val = (d.hif.sqErr.getLsbD n.val ||
        ((ringCfg d (.hifSq n)).en && decide (ringSize (ringCfg d (.hifSq n)) < sqWaiting x n.val))) := by
  obtain ⟨only, bits⟩ := stopOverrun_spec (pageTaken p d)
  obtain ⟨all, hif⟩ := only.view
  refine ⟨all, hif, fun n => (bits n).trans ?_⟩
  have waiting : sqWaiting (readPage (some p) d) n.val = sqWaiting (pageTaken p d) n.val := by
    simp only [sqWaiting]
    rw [show (readPage (some p) d).hif = _ from hif]
  rw [waiting]
  rfl

/-- Settles O29: the page by its counts, a timeout by what waited. -/
theorem doorbellPagesRead : Obligations.DoorbellPagesRead := by
  refine ⟨fun s on locked kept runs elsewhere => ?_, fun s after serves => ⟨fun late => ?_, fun t rd known early up => ?_, ?_⟩⟩
  · have polls (page : Option Doorbell) := devDoorbellPoll_runs (d := entry s) (page := page) on locked kept runs elsewhere
    refine ⟨lift_of_eq (polls none), fun p => ⟨_, lift_of_eq (polls (some p)), rfl, ?_⟩⟩
    obtain ⟨only, hif, bits⟩ := readPage_some p (entry s)
    generalize readPage (some p) (entry s) = x at only hif bits
    refine ⟨only, ?_, ?_, ?_, ?_, ?_, ?_, bits⟩ <;> rw [hif] <;> rfl
  · have due : expired (entry s) after = true := by
      cases after with
      | none => rfl
      | some t => exact expired_iff.2 (late t rfl)
    have acts (rd : HostRead) : whenD (rd = .linkDown || expired (entry s) after) (devCompletionTimeout rd) (entry s) =
        devCompletionTimeout rd (entry s) := if_pos (by rw [due, Bool.or_true])
    refine ⟨lift_of_eq ((acts _).trans (devCompletionTimeout_doorbell (d := entry s) serves)),
      lift_of_eq ((acts _).trans (devCompletionTimeout_other (d := entry s) serves)), fun r => ⟨fun waits => ?_, fun none' => ?_⟩⟩
    · exact lift_of_eq ((acts _).trans (devCompletionTimeout_descriptor (d := entry s) waits))
    · exact lift_of_eq ((acts _).trans (if_neg (ne_true_of_eq_false none')))
  · subst known
    refine lift_of_eq (if_neg ?_)
    have early : ¬ expired (entry s) (some t) = true := fun due => Nat.not_le.2 early (expired_iff.1 due)
    exact fun due => early ((Bool.or_eq_true_iff.1 due).resolve_left fun down => up (of_decide_eq_true down))
  · have down : whenD (HostRead.linkDown = .linkDown || expired (entry s) after) (devCompletionTimeout .linkDown) (entry s) =
        devCompletionTimeout .linkDown (entry s) := if_pos rfl
    have going : (entry s).job.fatal = false := by
      simp only [serving, fwRuns, Bool.and_eq_true, Bool.not_eq_true'] at serves
      exact serves.1.1.2
    obtain ⟨fatal, halted, phase, mem, power⟩ := fatalAt_stops 3 0xFF 0
      (d := { entry s with power := { s.dev.power with linkUp := false } }) going
    refine ⟨_, lift_of_eq (down.trans (devCompletionTimeout_linkDown (d := entry s) serves)), ?_, fatal, halted, phase, mem⟩
    exact congrArg Power.linkUp power

end Sys2Proof.Machine
end

section
/-!
PROOF. BAR2 accesses (R347, R496, R534).
-/
namespace Sys2Proof.Machine

variable {d : Device}

/-! ### The runs of an access whose bytes all lie where it may go -/

theorem bar2Runs_all_from {p : Nat → Bool} (bs : List Byte) (a at' : Nat) (run : List Byte) (some' : run ≠ [])
    (all : ∀ k, k < bs.length → p (a + k) = true) : bar2Runs p a bs at' run = [(at', run ++ bs)] := by
  induction bs generalizing a run with
  | nil => simp [bar2Runs, some']
  | cons b bs ih =>
    have here : p a = true := all 0 (Nat.succ_pos _)
    have there (k : Nat) (lt : k < bs.length) : p (a + 1 + k) = true := by
      rw [Nat.add_right_comm]
      exact all (k + 1) (Nat.succ_lt_succ lt)
    simp [bar2Runs, here, some', ih (a + 1) (run ++ [b]) (by simp) there]

theorem bar2Runs_all {p : Nat → Bool} {bs : List Byte} {a : Nat} (some' : bs ≠ [])
    (all : ∀ k, k < bs.length → p (a + k) = true) : bar2Runs p a bs 0 [] = [(a, bs)] := by
  obtain ⟨b, bs, rfl⟩ := List.exists_cons_of_ne_nil some'
  have here : p a = true := all 0 (Nat.succ_pos _)
  have there (k : Nat) (lt : k < bs.length) : p (a + 1 + k) = true := by
    rw [Nat.add_right_comm]
    exact all (k + 1) (Nat.succ_lt_succ lt)
  simp [bar2Runs, here, bar2Runs_all_from bs (a + 1) a [b] (by simp) there]

/-! ### Bytes that no open span covers -/

theorem inSpans_of_meetsSpans {ss : List (Nat × Nat)} {a n k : Nat} (clear : meetsSpans ss a n = false) (lt : k < n) :
    inSpans ss (a + k) = false := by
  simp only [meetsSpans, inSpans, List.any_eq_false, rangesMeet, Bool.and_eq_true, bne_iff_ne, decide_eq_true_eq] at clear ⊢
  intro s mem
  have := clear s mem
  omega

theorem openBytes_clear {ss : List (Nat × Nat)} {c a : Nat} {bs : List Byte} (clear : meetsSpans ss a bs.length = false) :
    openBytes ss c a bs = bs := by
  refine List.ext_getElem (by simp [openBytes]) fun k _ lt => ?_
  simp [openBytes, inSpans_of_meetsSpans clear lt]

/-! ### A read -/

theorem find_zip_range (bs : List Byte) (a k : Nat) (lt : k < bs.length) :
    Tab.find (((List.range bs.length).map (a + ·)).zip bs) (a + k) = some bs[k] := by
  induction bs generalizing a k with
  | nil => exact absurd lt (Nat.not_lt_zero k)
  | cons b bs ih =>
    rw [List.length_cons, List.range_succ_eq_map]
    simp only [List.map_cons, List.zip_cons_cons, Tab.find, Nat.add_zero, List.map_map]
    cases k with
    | zero => simp
    | succ k =>
      have places : (a + ·) ∘ Nat.succ = (a + 1 + ·) := funext fun i => (Nat.add_right_comm a 1 i).symm
      rw [if_neg (by omega), List.getElem_cons_succ, places, ← Nat.add_assoc, Nat.add_right_comm]
      exact ih (a + 1) k (Nat.lt_of_succ_lt_succ lt)

/-- What waits in the output is no byte of the firmware's. -/
theorem firmwareByte_entry (s : State) (a : Nat) : firmwareByte (entry s) a = firmwareByte s.dev a := by
  have own : toOwn (entry s) = { toOwn s.dev with out := [] } := by
    have swapped : swapRoles (entry s) = { swapRoles s.dev with out := [] } := by
      simp only [swapRoles, entry]
      cases s.dev.twin.taken <;> rfl
    by_cases taken : s.dev.onTaken = true
    · rw [toOwn, toOwn, if_pos taken, if_pos (show (entry s).onTaken = true from taken), swapped]
    · rw [toOwn, toOwn, if_neg taken, if_neg (show ¬ (entry s).onTaken = true from taken)]
      rfl
  unfold firmwareByte
  rw [own]
  rfl

theorem bar2Read_clear {a n : Nat} (unhurt : d.mem.upsets = []) (unarmed : d.mem.armed = none)
    (all : ∀ k, k < n → bar2Reaches d (a + k) = true ∧ memoryDone d (a + k) = true ∧ firmwareByte d (a + k) = none)
    (clear : meetsSpans (stepWrites d) a n = false) :
    bar2Read a n d = emit (.readData (readBytes d.mem.bytes a n) false) d := by
  have read : (bar2Runs (fun x => bar2Reaches d x && memoryDone d x) a (List.replicate n 0#8) 0 []).foldl bar2ReadRun ([], false, d)
      = (((List.range n).map (a + ·)).zip (readBytes d.mem.bytes a n), false, d) := by
    rcases Nat.eq_zero_or_pos n with rfl | pos
    · rfl
    · rw [bar2Runs_all (by simp; omega) fun k lt => by
        rw [List.length_replicate] at lt
        rw [(all k lt).1, (all k lt).2.1, Bool.and_self]]
      simp only [List.foldl_cons, List.foldl_nil, bar2ReadRun, List.length_replicate, touchRange_clean d.mem a n unhurt unarmed]
      rfl
  have bytes : ((List.range n).map fun k => bar2Byte d (a + k)
      (Tab.getD (((List.range n).map (a + ·)).zip (readBytes d.mem.bytes a n)) (a + k) 0#8)) = readBytes d.mem.bytes a n := by
    refine List.ext_getElem (by simp) fun k lt lt' => ?_
    have kn : k < n := by simpa using lt
    obtain ⟨reaches, done, bare⟩ := all k kn
    have found := find_zip_range (readBytes d.mem.bytes a n) a k lt'
    rw [readBytes_length] at found
    simp [bar2Byte, reaches, done, bare, Tab.getD, found]
  have reaches : ((List.range n).any fun k => !bar2Reaches d (a + k)) = false := by
    rw [List.any_eq_false]
    intro k mem
    rw [(all k (List.mem_range.1 mem)).1]
    decide
  have same : openBytes (stepWrites d) d.freeCtr a (readBytes d.mem.bytes a n) = readBytes d.mem.bytes a n :=
    openBytes_clear (by rw [readBytes_length]; exact clear)
  unfold bar2Read
  dsimp only
  rw [read]
  dsimp only
  rw [bytes, clear]
  simp only [Bool.false_eq_true, if_false, Bool.or_false]
  rw [show (List.range n).any (fun k => !bar2Reaches { d with freeCtr := d.freeCtr } (a + k)) = false from reaches]
  rw [if_neg Bool.false_ne_true, same]

/-! ### A write -/

theorem noteRaced_clear {a n : Nat} (clear : meetsSpans d.work.read a n = false) : (noteRaced a n d).mem = d.mem := by
  unfold noteRaced
  split
  · rfl
  · dsimp only
    rw [if_neg (by rw [clear]; exact Bool.false_ne_true)]

theorem bar2Write_clear {a : Nat} {bs : List Byte} (unhurt : d.mem.upsets = []) (unarmed : d.mem.armed = none) (some' : bs ≠ [])
    (all : ∀ k, k < bs.length → bar2Writes d (a + k) = true)
    (clear : meetsSpans (stepWrites d ++ d.work.read) a bs.length = false) :
    bar2Write a bs d = { noteRaced a bs.length d with mem := { d.mem with bytes := writeBytes d.mem.bytes a bs } } := by
  have meets : (List.range bs.length).any (fun k => !bar2Reaches d (a + k) || inHub (a + k)) = false := by
    rw [List.any_eq_false]
    intro k mem
    have := all k (List.mem_range.1 mem)
    simp only [bar2Writes, Bool.and_eq_true, Bool.not_eq_true'] at this
    rw [this.1.1, this.1.2]
    decide
  have read : meetsSpans d.work.read a bs.length = false := by
    simp only [meetsSpans, List.any_append, Bool.or_eq_false_iff] at clear
    exact clear.2
  have kept : (noteRaced a bs.length d).mem = d.mem := noteRaced_clear read
  have run : bar2Run d (a, bs) = { noteRaced a bs.length d with mem := { d.mem with bytes := writeBytes d.mem.bytes a bs } } := by
    unfold bar2Run
    dsimp only
    rw [openBytes_clear clear, clear]
    simp only [Bool.false_eq_true, if_false]
    rw [show noteRaced a bs.length { d with freeCtr := d.freeCtr } = noteRaced a bs.length d from rfl, kept,
      writeRange_clean d.mem a bs unhurt unarmed]
    rfl
  unfold bar2Write
  dsimp only
  rw [meets, if_neg Bool.false_ne_true, bar2Runs_all some' all, List.foldl_cons, List.foldl_nil, run]

/-! ### BAR2_ACCESS -/

theorem devBar2Access_open {op : Bar2Op} (on : linked d = true) (none' : d.test.waiting = []) (free : linkTaken op d = false) :
    devBar2Access op [] d = bar2Do op d := by
  simp [devBar2Access, on, none', free]

theorem devBar2Access_waits {op : Bar2Op} {found : Found} (on : linked d = true) (taken : linkTaken op d = true) :
    devBar2Access op found d = { d with test := { d.test with waiting := d.test.waiting ++ [(op, found)] } } := by
  simp [devBar2Access, on, taken]

/-- A write that touches no byte of the firmware's is the device's to make. -/
theorem execBar2Access_write {s : State} {off : Nat} {bs : List Byte} {found : Found}
    (free : ∀ k, k < bs.length → firmwareOwned s.dev (bar2Base s.dev + off + k) = false) :
    execBar2Access (.write off bs) s found = lift (devBar2Access (.write off bs) found) s := by
  refine if_neg fun owned => ?_
  obtain ⟨k, mem, own⟩ := List.any_eq_true.1 (Bool.and_eq_true_iff.1 owned).2
  rw [free k (List.mem_range.1 mem)] at own
  exact Bool.false_ne_true own

/-- Settles O24: the bytes of an access inside wiped memory lie in one run. -/
theorem bar2Reaches_obligation : Obligations.Bar2Reaches := by
  intro s off on clean wf a open'
  obtain ⟨unhurt, unarmed⟩ := clean
  refine ⟨fun n all clear free => ?_, fun bs some' all free clear => ?_, fun bs k lt owned => ?_, fun found => ⟨?_, ?_⟩⟩
  · exact lift_of_eq ((devBar2Access_open (d := entry s) on free.1 free.2).trans
      (bar2Read_clear (d := entry s) unhurt unarmed
        (fun k lt => ⟨(all k lt).1, (all k lt).2.1, (firmwareByte_entry s _).trans (all k lt).2.2⟩) clear))
  · refine (execBar2Access_write fun k lt => (all k lt).2).trans (lift_of_eq ?_)
    exact (devBar2Access_open (d := entry s) on free.1 free.2).trans
      (bar2Write_clear (d := entry s) unhurt unarmed some' (fun k lt => (all k lt).1) clear)
  · exact if_pos (Bool.and_eq_true_iff.2 ⟨on, List.any_eq_true.2 ⟨k, List.mem_range.2 lt, owned⟩⟩)
  · exact fun n taken => lift_of_eq (devBar2Access_waits (d := entry s) on taken)
  · exact fun bs taken free => (execBar2Access_write free).trans (lift_of_eq (devBar2Access_waits (d := entry s) on taken))

end Sys2Proof.Machine
end

section
/-!
PROOF. Ports of the fabric and of the twin (R285, R293, R322, R422).
-/
namespace Sys2Proof.Machine

variable {d : Device}

/-! ### A device without triggered entries -/

theorem firstEntry_none {p : Nat → TrigEntry → Bool} (none' : trigTable d = []) : firstEntry d p = none := by
  simp [firstEntry, none']

theorem settleLoop_none (none' : trigTable d = []) (fuel : Nat) : settleLoop fuel d = d := by
  cases fuel with
  | zero => rfl
  | succ fuel =>
    have going : stuck d = false := by simp [stuck, none']
    rw [settleLoop, firstEntry_none none', firstEntry_none none', going]
    exact ite_self d

/-- Where no entry is triggered, only the ports send what is ready. -/
theorem settle_none (none' : trigTable d = []) : settle d = serve d := by rw [settle, settleLoop_none none']

/-! ### Chunks of a port that goes down -/

theorem markAgain_eq (id port : Nat) (d : Device) : markAgain id port d =
    { d with fab := { d.fab with chunks := (markAgain id port d).fab.chunks }, errs := (markAgain id port d).errs } := by
  unfold markAgain
  split <;> rfl

/-- From `a` to `b` nothing has changed but the chunks that wait for their acknowledgement, and the counts. -/
def ChunksOnly (a b : Device) : Prop := b = { a with fab := { a.fab with chunks := b.fab.chunks }, errs := b.errs }

theorem ChunksOnly.trans {a b c : Device} (h : ChunksOnly a b) (k : ChunksOnly b c) : ChunksOnly a c := by
  unfold ChunksOnly at *
  rw [k, h]

theorem chunksOnly_foldl {α : Type} {f : Device → α → Device} (step : ∀ d x, ChunksOnly d (f d x)) (xs : List α) (d : Device) :
    ChunksOnly d (xs.foldl f d) := by
  induction xs generalizing d with
  | nil => exact rfl
  | cons x xs ih => exact (step d x).trans (ih _)

theorem chunksOnly_moveChunks (port : Nat) (d : Device) : ChunksOnly d (moveChunks port d) := by
  refine chunksOnly_foldl (fun d id => ?_) _ d
  split
  next t _ =>
    dsimp only
    split
    · exact rfl
    · exact markAgain_eq ..
  next => exact rfl

theorem planeDown_none {port : Nat} (none' : d.fab.entries = []) : planeDown port d = d := by simp [planeDown, none']

/-- A port that goes down, before its chunks move to another (R293). -/
def portLost (port : Fin 8) (d : Device) : Device :=
  { d with fab := { d.fab with
      up := d.fab.up &&& ~~~(1#8 <<< port.val), downEvt := d.fab.downEvt ||| (1#8 <<< port.val)
      chunks := d.fab.chunks.filter fun c => !(c.2.port = port.val && c.2.chunk.ftype = 0x10) } }

theorem devPortDown_idle {port : Fin 8} (on : powered d = true) (going : d.job.fatal = false) (up : portUp d port.val = true)
    (none' : d.fab.entries = []) (bare : trigTable d = []) :
    devPortDown port d = serve (moveChunks port.val (portLost port d)) := by
  have moved := chunksOnly_moveChunks port.val (portLost port d)
  have entries : (moveChunks port.val (portLost port d)).fab.entries = [] :=
    (congrArg (fun e => e.fab.entries) moved).trans none'
  have table : trigTable (moveChunks port.val (portLost port d)) = [] := by
    have loaded : (moveChunks port.val (portLost port d)).loaded = d.loaded := by rw [moved]; rfl
    rw [trigTable, loaded]
    exact bare
  rw [devPortDown, if_neg (by simp [on, going, up])]
  exact (congrArg settle (planeDown_none entries)).trans (settle_none table)

/-! ### The twin port -/

theorem progressDone_idle {begin' : Device → Device} (idle : d.job.inFlight = false) : progressDone begin' d = d :=
  if_pos (by simp [idle])

theorem devTwinPortDown_idle {page : Option Doorbell} (on : powered d = true) (going : d.job.fatal = false)
    (still : (twinGone { d with fab := { d.fab with twinUp := false } }).job.inFlight = false) :
    devTwinPortDown page d = if serving d then twinGone { d with fab := { d.fab with twinUp := false } } else
      { d with fab := { d.fab with twinUp := false } } := by
  rw [devTwinPortDown, if_neg (by simp [on, going])]
  dsimp only
  rw [progressDone_idle still]
  rfl

/-- An event of the device changes the queues and tells the host. -/
theorem deviceEvent_eq (k : EventKind) (step info : Nat) (d : Device) : deviceEvent k step info d =
    { d with queues := (deviceEvent k step info d).queues, slabs := (deviceEvent k step info d).slabs
             out := (deviceEvent k step info d).out, pcie := (deviceEvent k step info d).pcie } := postEvent_eq ..

/-- A pair that is lost is dropped with an event (R422). -/
theorem faultDetach_lost (pair : mirrors d = false) : ∃ queues slabs out pcie, faultDetach .lost false d =
    { dropTwin .lost d with queues := queues, slabs := slabs, out := out, pcie := pcie } := by
  have event := deviceEvent_eq .twin d.job.number (twinCode .lost + 2 ^ 16 * (shadowStep d).getD 0) (dropTwin .lost d)
  have told : faultDetach .lost false d =
      deviceEvent .twin d.job.number (twinCode .lost + 2 ^ 16 * (shadowStep d).getD 0) (dropTwin .lost d) := by
    rw [faultDetach, pair]
    rfl
  exact ⟨_, _, _, _, told.trans event⟩

theorem mirrors_paired (pair : d.twin.state = .paired) : mirrors d = false := by simp [mirrors, mirrorSide, pair]

theorem twinGone_paired (pair : d.twin.state = .paired) : twinGone d = faultDetach .lost false d := by rw [twinGone, pair]

theorem twinGone_unpaired (alone : d.twin.state = .unpaired) : twinGone d = d := by rw [twinGone, alone]

/-- Settles O54: a port that is lost moves its chunks; a lost twin port drops an idle pair. -/
theorem portsChange : Obligations.PortsChange := by
  refine ⟨fun s p runs idle => ⟨?_, ?_⟩, fun s p on going up none' bare => ?_, fun s on going alone idle page => ?_,
    fun s serves pair idle page => ?_⟩
  · exact lift_of_eq (if_neg (by simp [show fwRuns (entry s) = true from runs, show (entry s).test.busy = false from idle]))
  · exact lift_of_eq (if_neg (by simp [show fwRuns (entry s) = true from runs, show (entry s).test.busy = false from idle]))
  · have moved := chunksOnly_moveChunks p.val (portLost p (entry s))
    refine ⟨_, lift_of_eq (devPortDown_idle (d := entry s) on going up none' bare), ?_⟩
    dsimp only
    rw [serve_fab_up, serve_fab_downEvt, serve_fab_particles, serve_job, serve_mem, serve_role, moved]
    exact ⟨rfl, rfl, rfl, rfl, rfl, rfl⟩
  · have gone : twinGone { entry s with fab := { s.dev.fab with twinUp := false } } =
        { entry s with fab := { s.dev.fab with twinUp := false } } := twinGone_unpaired alone
    refine lift_of_eq ((devTwinPortDown_idle (d := entry s) on going ((congrArg (fun e => e.job.inFlight) gone).trans idle)).trans ?_)
    rw [show twinGone { entry s with fab := { (entry s).fab with twinUp := false } } = _ from gone]
    exact ite_self _
  · obtain ⟨queues, slabs, out, pcie, lost⟩ :=
      faultDetach_lost (mirrors_paired (d := { entry s with fab := { s.dev.fab with twinUp := false } }) pair)
    have gone := (twinGone_paired (d := { entry s with fab := { s.dev.fab with twinUp := false } }) pair).trans lost
    have runs : fwRuns s.dev = true := by
      simp only [serving, Bool.and_eq_true] at serves
      exact serves.1.1
    simp only [fwRuns, Bool.and_eq_true, Bool.not_eq_true'] at runs
    have acts := devTwinPortDown_idle (d := entry s) (page := page) runs.1.1 runs.2
      ((congrArg (fun e => e.job.inFlight) gone).trans idle)
    refine ⟨_, lift_of_eq ((acts.trans (if_pos serves)).trans gone), rfl, rfl, rfl, rfl, rfl, rfl⟩

end Sys2Proof.Machine
end

section
/-!
PROOF. Scrubbing (R448, R449, R451): the statement fails where the place of a scrubber lies outside its memory.
-/
namespace Sys2Proof.Machine

/-- A powered device whose hub is wiped and scrubbed, with the hub's scrubber far beyond its last word. -/
def scrubberOutside : Device :=
  { deviceAtPowerOn with
    boot := { deviceAtPowerOn.boot with wipe := { deviceAtPowerOn.boot.wipe with hubDone := true } }
    regs := [(.cfgScrub, 0x100010001#64)]
    scrub := [(128, 2 ^ 40)] }

/-- Refutes O60: the place of a scrubber is not bounded by the statement; a word outside the address map has no symbol to
correct, and nothing is counted. -/
theorem not_scrubsAdvance : ¬ Obligations.ScrubsAdvance := by
  intro holds
  have runs : scrubRuns scrubberOutside .hub = true := by decide +kernel
  have counts : (devScrubRead .hub { symbols := [(0, 1#8)], stackCorrected := false, stackUncorrected := false }
      (entry { dev := scrubberOutside, pending := [] })).errs.corr ≠ satAdd48 scrubberOutside.errs.corr 1 := by decide +kernel
  obtain ⟨t, ran, -, -, corr, -⟩ :=
    (holds { dev := scrubberOutside, pending := [] } .hub runs ⟨rfl, rfl⟩ rfl).2 0 1#8 (by decide) (by decide)
  exact counts ((congrArg (fun d : Device => d.errs.corr) (lift_next _ _ _ ran).1).symm.trans corr)

end Sys2Proof.Machine
end

section
/-!
PROOF. Errors of a step and watchdogs (R401, R402, R404, R406, R473).
-/
namespace Sys2Proof.Machine

variable {d : Device}

/-! ### A completion enters its queue and changes nothing else -/

/-- From `a` to `b` nothing has changed but the queues, and the completions that wait for them. -/
def Queued (a b : Device) : Prop := b = { a with
  queues := b.queues, slabs := b.slabs, bnd := { a.bnd with posting := b.bnd.posting, released := b.bnd.released } }

theorem Queued.trans {a b c : Device} (h : Queued a b) (k : Queued b c) : Queued a c := by
  unfold Queued at *
  rw [k, h]

theorem queued_pushPacket (q : Nat) (ws : List W64) (d : Device) : Queued d (pushPacket q ws d) := by
  unfold Queued
  rw [pushPacket_eq]

theorem queued_flushList (ps : List (Nat × List W64)) (d : Device) : Queued d (flushList ps d) := by
  induction ps generalizing d with
  | nil => rfl
  | cons p ps ih =>
    rw [flushList]
    split
    · rfl
    · exact (queued_pushPacket ..).trans (ih _)

theorem queued_noteReleased (q : Nat) (ws : List W64) (d : Device) : Queued d (noteReleased q ws d) := by
  unfold noteReleased
  split <;> rfl

theorem queued_postPacket (q : Nat) (ws : List W64) (d : Device) : Queued d (postPacket q ws d) := rfl

theorem queued_complete (cq code opcode kind xstatus handle : Nat) (tag : W64) (step result : Nat) (d : Device) :
    Queued d (complete cq code opcode kind xstatus handle tag step result d) := by
  unfold complete
  dsimp only
  split
  · exact queued_postPacket ..
  · exact ((queued_noteReleased ..).trans (queued_postPacket ..)).trans (queued_flushList _ _)

theorem Queued.out {a b : Device} (h : Queued a b) : b.out = a.out := by rw [h]
theorem Queued.role {a b : Device} (h : Queued a b) : b.role = a.role := by rw [h]
theorem Queued.mem {a b : Device} (h : Queued a b) : b.mem = a.mem := by rw [h]
theorem Queued.job {a b : Device} (h : Queued a b) : b.job = a.job := by rw [h]
theorem Queued.hif {a b : Device} (h : Queued a b) : b.hif = a.hif := by rw [h]
theorem Queued.twin {a b : Device} (h : Queued a b) : b.twin = a.twin := by rw [h]
theorem Queued.boot {a b : Device} (h : Queued a b) : b.boot = a.boot := by rw [h]
theorem Queued.fab {a b : Device} (h : Queued a b) : b.fab = a.fab := by rw [h]

/-! ### A device that stops -/

/-- From `a` to `b` the job and the fuses have stayed. -/
def SameJob (a b : Device) : Prop := b.job = a.job ∧ b.fuses = a.fuses

theorem SameJob.refl (d : Device) : SameJob d d := ⟨rfl, rfl⟩

theorem SameJob.trans {a b c : Device} (h : SameJob a b) (k : SameJob b c) : SameJob a c := ⟨k.1.trans h.1, k.2.trans h.2⟩

theorem Queued.sameJob {a b : Device} (h : Queued a b) : SameJob a b := by
  unfold Queued at h
  constructor <;> rw [h]

theorem sameJob_swapRoles (d : Device) : SameJob d (swapRoles d) := by
  unfold swapRoles
  split <;> exact ⟨rfl, rfl⟩

theorem sameJob_inTurn (taken : Bool) {f : Device → Device} (same : ∀ d, SameJob d (f d)) (d : Device) : SameJob d (inTurn taken f d) := by
  unfold inTurn
  split
  · exact same d
  · exact ((sameJob_swapRoles d).trans (same _)).trans (sameJob_swapRoles _)

theorem sameJob_foldl {α : Type} {f : Device → α → Device} (step : ∀ d x, SameJob d (f d x)) (xs : List α) (d : Device) :
    SameJob d (xs.foldl f d) := by
  induction xs generalizing d with
  | nil => exact .refl d
  | cons x xs ih => exact (step d x).trans (ih _)

theorem sameJob_fatalTold (level block info : Nat) (d : Device) : SameJob d (fatalTold level block info d) := by
  have event : SameJob d (postEvent .fatal level block 0xF d.job.number info d) := by
    rw [postEvent_eq]
    exact ⟨rfl, rfl⟩
  have descs (ps : List (Bool × Fetched)) (n : Nat) (x : Device) :
      SameJob x (ps.foldl (fun d f => inTurn f.1 (completeDesc f.2 codeFatal (namedHandle f.2) n 0) d) x) :=
    sameJob_foldl (fun _ _ => sameJob_inTurn _ (fun _ => (queued_complete ..).sameJob) _) ps x
  have log (n : Nat) (x : Device) : SameJob x (if x.hif.log.mode = 0 then x
      else inTurn false (complete x.hif.log.cq codeFatal 0x50 0 0 0 x.hif.log.tag n 0) x) := by
    split
    · exact .refl x
    · exact sameJob_inTurn _ (fun _ => (queued_complete ..).sameJob) _
  have attach (n : Nat) (x : Device) : SameJob x (if x.twin.state = .attaching || x.twin.state = .syncing then
      complete x.twin.cq codeFatal 0x41 0 0 0 x.twin.tag n 0 x else x) := by
    split
    · exact (queued_complete ..).sameJob
    · exact .refl x
  exact ((event.trans (descs _ _ _)).trans (log _ _)).trans (attach _ _)

/-- From `a` to `b` nothing has changed but answers and the boot state. -/
def Spoke (a b : Device) : Prop := b = { a with out := b.out, freeCtr := b.freeCtr, boot := b.boot }

theorem Spoke.trans {a b c : Device} (h : Spoke a b) (k : Spoke b c) : Spoke a c := by
  unfold Spoke at *
  rw [k, h]

theorem spoke_writeReport (d : Device) : Spoke d (writeReport d) := rfl

theorem spoke_answerMeasurements (i : Nat) (signed : Bool) (msg : List Byte) (d : Device) :
    Spoke d (answerMeasurements i signed msg d) := by
  have only := (nonceBytes_spec 32 d).2
  unfold answerMeasurements Spoke
  split
  · rfl
  · dsimp only
    rw [only]
    rfl

/-- The report that waits for the end of a boundary is written. -/
def reportWaiting (d : Device) : Device :=
  if d.boot.reportPending then writeReport { d with boot := { d.boot with reportPending := false } } else d

theorem spoke_reportWaiting (d : Device) : Spoke d (reportWaiting d) := by
  unfold reportWaiting
  split
  · exact Spoke.trans (b := { d with boot := { d.boot with reportPending := false } }) rfl (spoke_writeReport _)
  · exact rfl

theorem serveWaiting_eq (d : Device) : serveWaiting d = ((reportWaiting d).boot.measWaiting.map fun w =>
    answerMeasurements w.1 w.2.1 w.2.2
      { reportWaiting d with boot := { (reportWaiting d).boot with measWaiting := none } }).getD (reportWaiting d) := by
  unfold serveWaiting
  rw [reportWaiting]
  dsimp only
  split
  next w found => rw [found]; rfl
  next none' => rw [none']; rfl

/-- What waits for the end of a boundary answers the host, and leaves everything but the boot state. -/
theorem spoke_serveWaiting (d : Device) : Spoke d (serveWaiting d) := by
  have reply (i : Nat) (signed : Bool) (msg : List Byte) (x : Device) :
      Spoke x (answerMeasurements i signed msg { x with boot := { x.boot with measWaiting := none } }) :=
    Spoke.trans (b := { x with boot := { x.boot with measWaiting := none } }) rfl (spoke_answerMeasurements ..)
  rw [serveWaiting_eq]
  cases (reportWaiting d).boot.measWaiting with
  | none => exact spoke_reportWaiting d
  | some w => exact (spoke_reportWaiting d).trans (reply ..)

/-- What a device that has told the host leaves of its work. -/
theorem fatalHalt_leaves (d : Device) :
    let t := serveWaiting (fatalHalt d)
    t.fab.up = 0#8 ∧ t.fab.twinUp = false ∧ t.work = Work.idle ∧ t.hif.fetched = [] ∧ t.hif.queries = [] ∧ t.role.held = [] ∧
      t.hif.log.mode = 0 ∧ t.fuses = d.fuses ∧ t.job.number = d.job.number := by
  have waits := spoke_serveWaiting (fatalHalt d)
  dsimp only
  refine ⟨?_, ?_, ?_, ?_, ?_, ?_, ?_, ?_, ?_⟩ <;> rw [waits] <;> rfl

/-- What a device leaves that has stopped (R401, R402). -/
theorem fatalAt_leaves (level block info : Nat) (runs : d.job.fatal = false) :
    let t := fatalAt level block info d
    t.job.fatal = true ∧ t.job.halted = true ∧ t.boot.phase = .halted ∧ t.fab.up = 0#8 ∧ t.fab.twinUp = false ∧
      t.work = Work.idle ∧ t.hif.fetched = [] ∧ t.hif.queries = [] ∧ t.role.held = [] ∧ t.hif.log.mode = 0 ∧
      t.mem = d.mem ∧ t.fuses = d.fuses ∧ t.job.number = d.job.number := by
  obtain ⟨fatal, halted, phase, mem, -⟩ := fatalAt_stops level block info runs
  obtain ⟨job, fuses⟩ := sameJob_fatalTold level block info d
  rw [fatalAt_eq level block info runs] at fatal halted phase mem ⊢
  generalize fatalTold level block info d = x at *
  obtain ⟨up, twinUp, work, fetched, queries, held, mode, fuses', number⟩ := fatalHalt_leaves x
  exact ⟨fatal, halted, phase, up, twinUp, work, fetched, queries, held, mode, mem, fuses'.trans fuses,
    number.trans (congrArg Job.number job)⟩

/-- No operation of a boundary is left. -/
theorem fatalAt_ops (level block info : Nat) (runs : d.job.fatal = false) : (fatalAt level block info d).bnd.ops = [] := by
  rw [fatalAt_eq level block info runs]
  generalize fatalTold level block info d = x
  rw [spoke_serveWaiting (fatalHalt x)]
  rfl

end Sys2Proof.Machine
end

section
/-!
PROOF. Errors of a step at a member, and the watchdogs (R401, R402, R404, R406, R428, R435, R473, R495).
-/
namespace Sys2Proof.Machine

variable {d : Device}

/-! ### A step at a member -/

/-- What holds of a member other than member 0 while its step is in flight. -/
theorem stepAtMember_iff : StepAtMember d = true ↔ serving d = true ∧ d.job.inFlight = true ∧ d.job.halted = false ∧
    d.job.aborted = false ∧ d.job.doneSent = false ∧ inBoundary d = false ∧ isLead d = false ∧ d.twin.state = .unpaired ∧
    d.twin.taken = none ∧ d.onTaken = false := by
  simp [StepAtMember, and_assoc]

theorem serving_iff : serving d = true ↔ powered d = true ∧ d.boot.phase = .running ∧ d.job.fatal = false ∧ d.cfgLocked = true ∧
    d.twin.retired = false := by
  simp [serving, fwRuns, and_assoc]

theorem fwRuns_of_serving (serves : serving d = true) : fwRuns d = true := by
  simp only [serving, Bool.and_eq_true] at serves
  exact serves.1.1

theorem mirrors_unpaired (alone : d.twin.state = .unpaired) : mirrors d = false := by simp [mirrors, mirrorSide, alone]

theorem toOwn_own (own : d.onTaken = false) : toOwn d = d := if_neg (by simp [own])

/-- A particle leaves, and is kept until it is acknowledged. -/
theorem sendParticle_leaves {node : Nat} {p : Particle} (follows : mirrors d = false) : sendParticle node p d =
    { d with
      out := d.out ++ [.particle d.fab.up node p]
      fab := { d.fab with particles := Tab.put d.fab.particles d.fab.nextId { node := node, particle := p, resends := 0 }
                          nextId := d.fab.nextId + 1 } } := by
  rw [sendParticle, follows]
  rfl

/-- The particles of a device after one more leaves. -/
def withParticle (d : Device) (node : Nat) (p : Particle) : Fabric :=
  { d.fab with particles := Tab.put d.fab.particles d.fab.nextId { node := node, particle := p, resends := 0 }
               nextId := d.fab.nextId + 1 }

/-- STEP_DONE with FAULT of the step in flight. -/
def faultParticle (d : Device) : Particle :=
  { type := 0x02, status := 1, group := 0, gen := d.job.gen, step := d.job.number, sender := myRank d, entry := 0 }

/-- The job of a member whose step has faulted and been reported. -/
def faultedJob (named : List ErrorSite) (d : Device) : Job :=
  { d.job with named := d.job.named ++ named, faulted := true, doneSent := true, aborted := true }

/-- The fault of a member's step goes to member 0 at once (R36). -/
theorem faultStep_member (at' : StepAtMember d = true) : faultStep d = { d with
    job := { d.job with faulted := true, doneSent := true, aborted := true }
    out := d.out ++ [.particle d.fab.up (partitionNode d 0) (faultParticle d)]
    fab := withParticle d (partitionNode d 0) (faultParticle d) } := by
  obtain ⟨serves, flies, going, fresh, unsent, outside, member, alone, none', own⟩ := stepAtMember_iff.1 at'
  obtain ⟨-, -, lives, -, -⟩ := serving_iff.1 serves
  have now : faultStep d = faultNow d := if_neg (by simp [outside])
  have lead : ¬ isLead { d with job := { d.job with faulted := true } } = true := by
    rw [show isLead { d with job := { d.job with faulted := true } } = isLead d from rfl, member]
    decide
  have reports : faultNow d = reportFault { d with job := { d.job with faulted := true } } := by
    rw [faultNow, if_neg (by simp [lives, going]), if_neg (by simp [flies])]
    dsimp only
    rw [toOwn_own own, if_neg lead]
  rw [now, reports, reportFault, if_neg (by simp [fresh])]
  dsimp only
  rw [unsent, if_neg Bool.false_ne_true]
  exact sendParticle_leaves (mirrors_unpaired (d := { d with job := _ }) alone)

/-- A STEP error at a member (R402, R404). -/
theorem stepError_member {level block cell info : Nat} {named : List ErrorSite} (at' : StepAtMember d = true) :
    stepError level block cell info named d =
      { postEvent .stepFault level block cell d.job.number info d with
        job := faultedJob named d
        out := (postEvent .stepFault level block cell d.job.number info d).out ++
          [.particle d.fab.up (partitionNode d 0) (faultParticle d)]
        fab := withParticle d (partitionNode d 0) (faultParticle d) } := by
  have flies : d.job.inFlight = true := (stepAtMember_iff.1 at').2.1
  have event := postEvent_eq .stepFault level block cell d.job.number info d
  unfold stepError
  generalize postEvent .stepFault level block cell d.job.number info d = e at event ⊢
  rw [event]
  have touched (queues : Tab QState) (slabs : Tab Chain) (out : List Emission) (pcie : Pcie) :
      stepTouched { d with queues := queues, slabs := slabs, out := out, pcie := pcie } = true := by
    simp [stepTouched, flies]
  dsimp only
  rw [touched, if_pos rfl]
  exact faultStep_member (d := { d with queues := _, slabs := _, out := _, pcie := _, job := { d.job with named := _ } }) at'

/-! ### What an event tells the host -/

theorem msix_out (v : Nat) (d : Device) : (msix v d).out =
    if d.pcie.host.msixEnable = true ∧ ¬ (d.pcie.host.functionMask || d.pcie.host.vectorMask.getLsbD v || pcieTest d) = true then
      d.out ++ [.msix v] else d.out := by
  rw [msix]
  dsimp only
  by_cases enable : d.pcie.host.msixEnable = true
  · by_cases masked : (d.pcie.host.functionMask || d.pcie.host.vectorMask.getLsbD v || pcieTest d) = true
    · rw [if_neg (by simp [enable]), if_pos masked, if_neg fun told => told.2 masked]
    · rw [if_neg (by simp [enable]), if_neg masked, if_pos ⟨enable, masked⟩]
      rfl
  · rw [if_pos (by simpa using enable), if_neg fun told => enable told.1]

theorem msix_out_congr (v : Nat) {a b : Device} (out : a.out = b.out) (pcie : a.pcie = b.pcie) (test : a.test = b.test) :
    (msix v a).out = (msix v b).out := by
  rw [msix_out, msix_out, out, pcie, show pcieTest a = pcieTest b by rw [pcieTest, test, pcieTest]]

/-- An event other than a correction has its message where the queue has room. -/
theorem postEvent_out {k : EventKind} {level block cell step info : Nat} (room : queueFull d 128 = false) (other : k ≠ .corrected) :
    (postEvent k level block cell step info d).out = (msix 0 d).out := by
  rw [postEvent, room, if_pos (by simp [other])]
  refine msix_out_congr 0 ?_ ?_ ?_ <;> rw [pushPacket_eq]

theorem postEvent_corrected_out {level block cell step info : Nat} :
    (postEvent .corrected level block cell step info d).out = d.out := by
  rw [postEvent, if_neg (by simp), pushPacket_eq]

/-! ### The errors -/

/-- What a STEP error at a member has left in `u`. -/
def Reported (d : Device) (level block cell info : Nat) (named : List ErrorSite) (u : Device) : Prop :=
  u.job.faulted = true ∧ u.job.named = d.job.named ++ named ∧ u.job.number = d.job.number ∧
    (queueOf u 128).words.map (·.data) = (queueOf d 128).words.map (·.data) ++
      eventWords d .stepFault level block cell d.job.number info ∧
    u.out = (msix 0 d).out ++ [.particle d.fab.up (partitionNode d 0) (faultParticle d)] ∧
    u.mem = d.mem ∧ u.role = d.role ∧ u.work = d.work ∧ u.active = d.active

theorem reported_stepError {level block cell info : Nat} {named : List ErrorSite} (at' : StepAtMember d = true)
    (gap : (queueOf d 128).gap = 0) (room : queueFull d 128 = false) (whole : (queueOf d 128).cut = false) :
    Reported d level block cell info named (stepError level block cell info named d) := by
  have words := postEvent_words .stepFault level block cell d.job.number info d room gap whole
  have out := postEvent_out (k := .stepFault) (level := level) (block := block) (cell := cell) (step := d.job.number) (info := info)
    room (by decide)
  have event := postEvent_eq .stepFault level block cell d.job.number info d
  rw [stepError_member at']
  refine ⟨rfl, rfl, rfl, words, congrArg (· ++ _) out, ?_, ?_, ?_, ?_⟩ <;>
    (generalize postEvent .stepFault level block cell d.job.number info d = e at event; rw [event])

theorem Reported.of_freeCtr {ctr level block cell info : Nat} {named : List ErrorSite} {u : Device}
    (h : Reported { d with freeCtr := ctr } level block cell info named u) : Reported d level block cell info named u := by
  obtain ⟨faulted, names, number, words, out, rest⟩ := h
  have told : (msix 0 { d with freeCtr := ctr }).out = (msix 0 d).out := msix_out_congr 0 rfl rfl rfl
  exact ⟨faulted, names, number, words, out.trans (congrArg (· ++ _) told), rest⟩

theorem Reported.of_logExpiry {level block cell info : Nat} {named : List ErrorSite} {u : Device}
    (h : Reported (logExpiry d) level block cell info named u) : Reported d level block cell info named u := by
  obtain ⟨faulted, names, number, words, out, rest⟩ := h
  have told : (msix 0 (logExpiry d)).out = (msix 0 d).out := by
    rw [msix_out, msix_out]
    rfl
  exact ⟨faulted, names, number, words, out.trans (congrArg (· ++ _) told), rest⟩

/-- A tile that runs and makes no progress names its cell, unless a throttled region may have stretched its budget. -/
theorem devTileWatchdog_reports {x : CtxId} (at' : StepAtMember d = true) (gap : (queueOf d 128).gap = 0)
    (room : queueFull d 128 = false) (whole : (queueOf d 128).cut = false) (runs : tileRuns x d = true) :
    ∃ named, Reported d 0 x.block.val x.cell.val 0 named (devTileWatchdog x d) ∧ (named = [.cell x.block x.cell] ∨ named = []) ∧
      ((∀ i ∈ d.power.throttled, ∀ r, i ≠ .rm r) → named = [.cell x.block x.cell]) := by
  have fw := fwRuns_of_serving (stepAtMember_iff.1 at').1
  rw [devTileWatchdog, if_neg (by simp [fw, runs])]
  dsimp only
  split
  next stretched =>
    refine ⟨_, (reported_stepError (d := { d with freeCtr := d.freeCtr + 1 }) at' gap room whole).of_freeCtr, ?_, fun none' => ?_⟩
    · split
      · exact .inl rfl
      · exact .inr rfl
    · obtain ⟨i, mem, isRm⟩ := List.any_eq_true.1 stretched
      cases i with
      | rm r => exact absurd rfl (none' _ mem r)
      | _ => exact absurd isRm Bool.false_ne_true
  next =>
    exact ⟨_, reported_stepError at' gap room whole, .inl (if_pos rfl), fun _ => if_pos rfl⟩

/-- A corrected error of the link only counts (R406). -/
theorem countCorrected_eq {level block info : Nat} : countCorrected level block info d =
    postEvent .corrected level block 0xF d.job.number info { d with errs := { d.errs with corr := satAdd48 d.errs.corr 1 } } := rfl

theorem countCorrected_reports {level block info : Nat} (gap : (queueOf d 128).gap = 0) (room : queueFull d 128 = false)
    (whole : (queueOf d 128).cut = false) :
    let u := countCorrected level block info d
    u.errs = { d.errs with corr := satAdd48 d.errs.corr 1 } ∧ u.job = d.job ∧ u.out = d.out ∧
      (queueOf u 128).words.map (·.data) = (queueOf d 128).words.map (·.data) ++
        eventWords d .corrected level block 0xF d.job.number info ∧ u.mem = d.mem := by
  have words := postEvent_words .corrected level block 0xF d.job.number info
    { d with errs := { d.errs with corr := satAdd48 d.errs.corr 1 } } room gap whole
  have event := postEvent_eq .corrected level block 0xF d.job.number info
    { d with errs := { d.errs with corr := satAdd48 d.errs.corr 1 } }
  dsimp only
  rw [countCorrected_eq]
  refine ⟨?_, ?_, postEvent_corrected_out, words, ?_⟩ <;>
    (generalize postEvent .corrected level block 0xF d.job.number info _ = e at event; rw [event])

/-! ### O59 -/

theorem devResidueMismatch_member {site : ErrorSite} (runs : fwRuns d = true) (used : siteInUse d site = true)
    (unit' : ∀ r, site ≠ .regionManager r) : devResidueMismatch site d =
      stepError (sitePlace site).1 (sitePlace site).2.1 (sitePlace site).2.2 0 [site] d := by
  rw [devResidueMismatch, if_neg (by simp [runs, used])]
  cases site with
  | regionManager r => exact absurd rfl (unit' r)
  | _ => rfl

theorem devResidueMismatch_regionManager {r : Fin 8} (runs : fwRuns d = true) :
    devResidueMismatch (.regionManager r) d = fatalAt 2 0xFF 0 d := if_neg (by simp [runs, siteInUse])

theorem devLinkRetryTimeout_tested {l : Fin 24} {x : Bool}
    (tested : d.test.busy = true ∧ d.test.target = 4 ∧ d.test.index = l.val) : devLinkRetryTimeout l x d = d :=
  if_pos (by simp [tested])

theorem devLinkRetryTimeout_untested {l : Fin 24} {x : Bool} (runs : fwRuns d = true)
    (untested : ¬ (d.test.busy = true ∧ d.test.target = 4 ∧ d.test.index = l.val)) :
    devLinkRetryTimeout l x d = if x then stepError 2 0xFF 0xF 0 [] d else countCorrected 2 0xFF l.val d := by
  refine if_neg ?_
  rw [and_assoc.symm] at untested
  simpa [runs] using untested

/-- What stops a device whose firmware runs: a watchdog of the hub or of a region manager, and a parity error in a region
manager's memory. -/
theorem fatal_of_watchdog {s : State} {level block info : Nat} {f : Device → Device}
    (stops : f (entry s) = fatalAt level block info (entry s)) (runs : fwRuns s.dev = true) :
    ∃ t, lift f s = .next t ∧ t.dev.job.fatal = true ∧ t.dev.job.halted = true ∧ t.dev.boot.phase = .halted ∧
      t.dev.fab.up = 0#8 ∧ t.dev.fab.twinUp = false ∧ t.dev.work = Work.idle ∧ t.dev.hif.fetched = [] ∧
      t.dev.hif.queries = [] ∧ t.dev.role.held = [] ∧ t.dev.hif.log.mode = 0 ∧ t.dev.mem = s.dev.mem ∧
      t.dev.fuses = s.dev.fuses ∧ t.dev.job.number = s.dev.job.number := by
  have lives : (entry s).job.fatal = false := by
    simp only [fwRuns, Bool.and_eq_true, Bool.not_eq_true'] at runs
    exact runs.2
  exact ⟨_, lift_of_eq stops, fatalAt_leaves level block info lives⟩

/-- Settles O59: an error of a step at a member is reported; a watchdog of the managers stops the device. -/
theorem errorsReportAndWatchdogsStop : Obligations.ErrorsReportAndWatchdogsStop := by
  refine ⟨fun s at' gap room whole => ?_, fun s c which runs => ?_⟩
  · have fw : fwRuns (entry s) = true := fwRuns_of_serving (stepAtMember_iff.1 at').1
    intro reported
    have reports {level block cell info : Nat} {named : List ErrorSite} :=
      reported_stepError (d := entry s) (level := level) (block := block) (cell := cell) (info := info) (named := named)
        at' gap room whole
    refine ⟨fun site used unit' => ⟨_, lift_of_eq (devResidueMismatch_member (d := entry s) fw used unit'), reports⟩,
      fun x tile => ?_, ⟨fun l x hit => lift_of_eq (devLinkRetryTimeout_tested (d := entry s) hit),
        fun l miss => ⟨_, lift_of_eq (devLinkRetryTimeout_untested (d := entry s) fw miss), reports⟩,
        fun l miss => ⟨_, lift_of_eq (devLinkRetryTimeout_untested (d := entry s) fw miss),
          countCorrected_reports (d := entry s) gap room whole⟩, fun flies => ?_⟩⟩
    · obtain ⟨named, told, which⟩ := devTileWatchdog_reports (d := entry s) (x := x) at' gap room whole tile
      exact ⟨_, named, lift_of_eq rfl, told, which⟩
    · have serves : serving s.dev = true := (stepAtMember_iff.1 at').1
      have acts : devCompletionTimeout .step (entry s) = stepFault 0 (logExpiry (entry s)) :=
        if_pos (Bool.and_eq_true_iff.2 ⟨serves, flies⟩)
      have due : whenD (HostRead.step = .linkDown || expired (entry s) none) (devCompletionTimeout .step) (entry s) =
          devCompletionTimeout .step (entry s) := if_pos rfl
      exact ⟨_, lift_of_eq (due.trans acts), (reported_stepError (d := logExpiry (entry s)) at' gap room whole).of_logExpiry⟩
  · rcases which with rfl | ⟨r, rfl | rfl⟩
    · exact fatal_of_watchdog (f := fun d => whenD (fwRuns d) (goFatal 0) d) (if_pos runs) runs
    · exact fatal_of_watchdog (f := fun d => whenD (fwRuns d) (fatalAt 2 0xFF 0) d) (if_pos runs) runs
    · exact fatal_of_watchdog (devResidueMismatch_regionManager (d := entry s) runs) runs

end Sys2Proof.Machine
end

section
/-!
PROOF. Claims and steals (R127 to R131, R135, R136).
-/
namespace Sys2Proof.Machine

variable {d : Device}

/-! ### The places of a tile -/

/-- How often a tile lies between two bounds, and in a range that is left. -/
def between (low high i : Nat) : Nat := if low ≤ i ∧ i < high then 1 else 0
def inRange (c : TileCounter) (i : Nat) : Nat := between c.next c.stop i

theorem between_empty {low high i : Nat} (empty : high ≤ low) : between low high i = 0 := if_neg (by omega)

theorem between_split {low mid high i : Nat} (above : mid ≤ high) (below : low ≤ mid ∨ high ≤ mid) :
    between low mid i + between mid high i = between low high i := by
  unfold between
  repeat' split
  all_goals omega

theorem filter_length_update {α : Type} {p q : α → Bool} {a : α} {xs : List α} (nodup : xs.Nodup) (mem : a ∈ xs)
    (same : ∀ x, x ≠ a → q x = p x) :
    (xs.filter q).length + (if p a = true then 1 else 0) = (xs.filter p).length + (if q a = true then 1 else 0) := by
  induction xs with
  | nil => exact absurd mem List.not_mem_nil
  | cons x xs ih =>
    obtain ⟨out, nodup⟩ := List.nodup_cons.1 nodup
    simp only [List.filter_cons]
    by_cases here : x = a
    · subst here
      have rest : xs.filter q = xs.filter p := List.filter_congr fun y mem => same y fun eq => out (eq ▸ mem)
      rw [rest]
      cases p x <;> cases q x <;> simp
    · have := ih nodup ((List.mem_cons.1 mem).resolve_left fun eq => here eq.symm)
      rw [same x here]
      cases p x <;> simp <;> omega

/-- A counter that changes moves only the tiles of its own range. -/
theorem tilePlaces_setCounter {g : Nat} {c : TileCounter} {i : Nat} (lt : g < 128) :
    tilePlaces (setCounter g c d) i + inRange (counterOf d g) i = tilePlaces d i + inRange c i := by
  have other (x : Nat) (ne : x ≠ g) : counterOf (setCounter g c d) x = counterOf d x := getD_put_ne _ _ _ _ _ ne
  have self : counterOf (setCounter g c d) g = c := getD_put_self ..
  have moved := filter_length_update (xs := List.range 128) (a := g) List.nodup_range (List.mem_range.2 lt)
    (p := fun x => (counterOf d x).next ≤ i && i < (counterOf d x).stop)
    (q := fun x => (counterOf (setCounter g c d) x).next ≤ i && i < (counterOf (setCounter g c d) x).stop)
    fun x ne => by rw [other x ne]
  rw [self] at moved
  simp only [Bool.and_eq_true, decide_eq_true_eq] at moved
  simp only [tilePlaces, inRange, between]
  have work : (setCounter g c d).work.contexts = d.work.contexts ∧ (setCounter g c d).work.issue = d.work.issue := ⟨rfl, rfl⟩
  rw [work.1, work.2]
  omega

/-- The places of tiles in contexts: an idle context holds none. -/
theorem tilePlaces_filter_idle {p : Holding → Bool} {i : Nat} (idle : ∀ h, p h = false → h.tile = none) :
    tilePlaces { d with work := { d.work with contexts := d.work.contexts.filter p } } i = tilePlaces d i := by
  have same : (d.work.contexts.filter p).filter (fun h => decide (h.tile = some i)) =
      d.work.contexts.filter fun h => decide (h.tile = some i) := by
    rw [List.filter_filter]
    refine List.filter_congr fun h _ => ?_
    cases kept : p h with
    | true => simp
    | false => simp [idle h kept]
  simp only [tilePlaces]
  rw [same]
  rfl

theorem tilePlaces_updateTileStat {r : Nat} {f : TileStat → TileStat} {i : Nat} :
    tilePlaces (updateTileStat r f d) i = tilePlaces d i := rfl

theorem tilePlaces_setBlock {g : Nat} {b : BlockWork} {i : Nat} : tilePlaces (setBlock g b d) i = tilePlaces d i := rfl

/-- What a steal leaves of the two counters (R128). -/
def stolenFrom (c : TileCounter) : TileCounter := { c with stop := c.stop - remaining c / 2 }
def stolenBy (c : TileCounter) : TileCounter := { c with next := c.stop - remaining c / 2 }

theorem inRange_spent {c : TileCounter} {i : Nat} (spent : c.stop ≤ c.next) : inRange c i = 0 := between_empty spent

theorem inRange_stolen (c : TileCounter) (i : Nat) : inRange (stolenFrom c) i + inRange (stolenBy c) i = inRange c i := by
  have low : (c.stop - c.next) / 2 ≤ c.stop - c.next := Nat.div_le_self ..
  exact between_split (low := c.next) (mid := c.stop - (c.stop - c.next) / 2) (high := c.stop) (Nat.sub_le ..) (by omega)

theorem inRange_claimed (c : TileCounter) (i : Nat) : inRange { c with next := c.next + 1 } i +
    (if c.next < c.stop ∧ c.next = i then 1 else 0) = inRange c i := by
  simp only [inRange, between]
  repeat' split
  all_goals omega

/-- The upper half of a range goes to a block whose own range is exhausted: no tile is lost and none doubled. -/
theorem tilePlaces_takeHalf {v g i : Nat} (victim : v < 128) (thief : g < 128) (ne : v ≠ g)
    (spent : (counterOf d g).stop ≤ (counterOf d g).next) : tilePlaces (takeHalf v g d) i = tilePlaces d i := by
  have lower := tilePlaces_setCounter (d := d) (c := stolenFrom (counterOf d v)) (i := i) victim
  have upper := tilePlaces_setCounter (d := setCounter v (stolenFrom (counterOf d v)) d) (c := stolenBy (counterOf d v)) (i := i) thief
  have own : counterOf (setCounter v (stolenFrom (counterOf d v)) d) g = counterOf d g := getD_put_ne _ _ _ _ _ ne.symm
  rw [own] at upper
  have taken : tilePlaces (takeHalf v g d) i =
      tilePlaces (setCounter g (stolenBy (counterOf d v)) (setCounter v (stolenFrom (counterOf d v)) d)) i :=
    (tilePlaces_filter_idle fun h gone => by
      simp only [Bool.or_eq_false_iff, Option.isSome_eq_false_iff, Option.isNone_iff_eq_none] at gone
      exact gone.1).trans rfl
  have halves := inRange_stolen (counterOf d v) i
  rw [inRange_spent spent] at upper
  omega

/-! ### The victim of a steal -/

theorem victimOf_mem {obs : Nat → TileCounter} {least v : Nat} {gs : List Nat} (found : victimOf obs least gs = some v) : v ∈ gs := by
  have best (xs : List Nat) (b : Option Nat) : ∀ y, xs.foldl (fun (b : Option Nat) g =>
      match b with
      | none => some g
      | some x => if remaining (obs x) < remaining (obs g) then some g else some x) b = some y → y ∈ xs ∨ b = some y := by
    induction xs generalizing b with
    | nil => exact fun y eq => .inr eq
    | cons x xs ih =>
      intro y eq
      rcases ih _ y eq with mem | here
      · exact .inl (List.mem_cons_of_mem x mem)
      · cases b with
        | none => exact .inl (List.mem_cons.2 (.inl (Option.some.inj here).symm))
        | some b =>
          dsimp only at here
          split at here
          · exact .inl (List.mem_cons.2 (.inl (Option.some.inj here).symm))
          · exact .inr here
  simp only [victimOf, Option.filter_eq_some_iff] at found
  exact (best gs none v found.1).resolve_right (by simp)

/-- What an attempt can do: nothing but count, or take half of a victim's range. -/
theorem attempt_cases (r g least again : Nat) (gs : List Nat) (seen : List SeenWord) (d : Device) :
    let x := attempt r g least again gs seen d
    let counted := updateTileStat r (fun y => { y with casFail := bump20 y.casFail }) d
    x.2 = d ∨ x.2 = counted ∨ ∃ v ∈ gs, x.2 = takeHalf v g d ∨ x.2 = takeHalf v g counted := by
  unfold attempt
  dsimp only
  split
  · exact .inl rfl
  next v found =>
    have mem := victimOf_mem found
    split
    · exact .inr (.inr ⟨v, mem, .inl rfl⟩)
    · split
      · exact .inr (.inl rfl)
      · split
        · exact .inr (.inr ⟨v, mem, .inr rfl⟩)
        · split
          · exact .inr (.inl rfl)
          next w found' => exact .inr (.inr ⟨w, victimOf_mem found', .inr rfl⟩)

theorem tilePlaces_attempt {r g least again i : Nat} {gs : List Nat} {seen : List SeenWord} (thief : g < 128)
    (others : ∀ v ∈ gs, v < 128 ∧ v ≠ g) (spent : (counterOf d g).stop ≤ (counterOf d g).next) :
    tilePlaces (attempt r g least again gs seen d).2 i = tilePlaces d i := by
  rcases attempt_cases r g least again gs seen d with same | counted | ⟨v, mem, taken | taken⟩
  · rw [same]
  · rw [counted, tilePlaces_updateTileStat]
  · rw [taken, tilePlaces_takeHalf (others v mem).1 thief (others v mem).2 spent]
  · rw [taken, tilePlaces_takeHalf (d := updateTileStat ..) (others v mem).1 thief (others v mem).2 spent, tilePlaces_updateTileStat]

theorem regionBlocks_spec {g : Nat} (thief : g < 128) :
    ∀ v ∈ ((List.range 16).map (16 * (g / 16) + ·)).filter (· ≠ g), v < 128 ∧ v ≠ g := by
  intro v mem
  simp only [List.mem_filter, List.mem_map, List.mem_range, decide_eq_true_eq] at mem
  obtain ⟨⟨k, small, rfl⟩, ne⟩ := mem
  exact ⟨by omega, ne⟩

theorem otherRegions_spec {r g : Nat} (own : g / 16 = r) : ∀ v ∈ (List.range 128).filter (fun x => x / 16 ≠ r), v < 128 ∧ v ≠ g := by
  intro v mem
  simp only [List.mem_filter, List.mem_range, decide_eq_true_eq] at mem
  exact ⟨mem.1, fun eq => mem.2 (eq ▸ own)⟩

theorem tilePlaces_blockSteal {g i : Nat} {seen : List SeenWord} (thief : g < 128)
    (spent : (counterOf d g).stop ≤ (counterOf d g).next) : tilePlaces (blockSteal g seen d) i = tilePlaces d i := by
  unfold blockSteal
  dsimp only
  split
  · rfl
  · split
    · have tried := tilePlaces_attempt (d := d) (r := g / 16) (least := minBlock d) (again := minBlock d) (seen := seen) (i := i)
        thief (regionBlocks_spec thief) spent
      split
      · exact tilePlaces_updateTileStat.trans tried
      · exact tilePlaces_setBlock.trans tried
    · exact tilePlaces_setBlock

/-! ### TILE_CLAIM and REGION_STEAL -/

/-- A claim: NEXT advances and a context holds what it got. -/
def claimed (x : CtxId) (tile : Option Nat) (d : Device) : Device :=
  let g := x.block.val
  { d with work := { d.work with
      counters := Tab.put d.work.counters g { counterOf d g with next := (counterOf d g).next + 1 }
      contexts := d.work.contexts ++
        [{ ctx := x, tile := tile, order := d.work.claims, msu := tile.bind (msuGroup (issuedStages d) g) }]
      claims := d.work.claims + 1 } }

theorem devTileClaim_eq {x : CtxId} {seen : List SeenWord} (may : mayClaim x d = true) : devTileClaim x seen d =
    if (counterOf d x.block.val).next < (counterOf d x.block.val).stop then
      claimed x (some (counterOf d x.block.val).next) d
    else blockSteal x.block.val seen (claimed x none d) := if_neg (by simp [may])

theorem counterOf_claimed {x : CtxId} {tile : Option Nat} : counterOf (claimed x tile d) x.block.val =
    { counterOf d x.block.val with next := (counterOf d x.block.val).next + 1 } := getD_put_self ..

theorem tilePlaces_claimed {x : CtxId} {tile : Option Nat} {i : Nat} :
    tilePlaces (claimed x tile d) i + inRange (counterOf d x.block.val) i = tilePlaces d i +
      inRange { counterOf d x.block.val with next := (counterOf d x.block.val).next + 1 } i + (if tile = some i then 1 else 0) := by
  have moved := tilePlaces_setCounter (d := d) (i := i)
    (c := { counterOf d x.block.val with next := (counterOf d x.block.val).next + 1 }) x.block.isLt
  have held : tilePlaces (claimed x tile d) i = tilePlaces
      (setCounter x.block.val { counterOf d x.block.val with next := (counterOf d x.block.val).next + 1 } d) i +
        (if tile = some i then 1 else 0) := by
    have contexts : (claimed x tile d).work.contexts = d.work.contexts ++
      [{ ctx := x, tile := tile, order := d.work.claims, msu := tile.bind (msuGroup (issuedStages d) x.block.val) }] := rfl
    simp only [tilePlaces]
    rw [contexts, List.filter_append, List.length_append]
    have counters (k : Nat) : counterOf (claimed x tile d) k =
      counterOf (setCounter x.block.val { counterOf d x.block.val with next := (counterOf d x.block.val).next + 1 } d) k := rfl
    simp only [counters]
    have rest : (claimed x tile d).work.issue = d.work.issue := rfl
    rw [rest]
    have last : ((List.filter (fun h : Holding => decide (h.tile = some i))
        [{ ctx := x, tile := tile, order := d.work.claims, msu := tile.bind (msuGroup (issuedStages d) x.block.val) }])).length =
        if tile = some i then 1 else 0 := by
      by_cases same : tile = some i <;> simp [same]
    rw [last]
    have work (c : TileCounter) : (setCounter x.block.val c d).work.contexts = d.work.contexts ∧
      (setCounter x.block.val c d).work.issue = d.work.issue := ⟨rfl, rfl⟩
    rw [(work _).1, (work _).2]
    omega
  omega

theorem tilePlaces_devTileClaim {x : CtxId} {seen : List SeenWord} {i : Nat} :
    tilePlaces (devTileClaim x seen d) i = tilePlaces d i := by
  by_cases may : mayClaim x d = true
  · rw [devTileClaim_eq may]
    split
    next left =>
      have moved := tilePlaces_claimed (d := d) (x := x) (tile := some (counterOf d x.block.val).next) (i := i)
      have front := inRange_claimed (counterOf d x.block.val) i
      simp only [left, true_and] at front
      simp only [Option.some.injEq] at moved
      omega
    next spent =>
      have moved := tilePlaces_claimed (d := d) (x := x) (tile := none) (i := i)
      have stolen := tilePlaces_blockSteal (d := claimed x none d) (seen := seen) (i := i) x.block.isLt
        (by rw [counterOf_claimed]; dsimp only; omega)
      have front := inRange_claimed (counterOf d x.block.val) i
      simp only [spent, false_and, if_false] at front
      simp only [reduceCtorEq, if_false] at moved
      omega
  · exact congrArg (tilePlaces · i) (if_pos (by simpa using may))

theorem tilePlaces_devRegionSteal {r : Fin 8} {b : Fin 16} {seen : List SeenWord} {i : Nat}
    (spent : (counterOf d (16 * r.val + b.val)).stop ≤ (counterOf d (16 * r.val + b.val)).next) :
    tilePlaces (devRegionSteal r b seen d) i = tilePlaces d i := by
  have thief : 16 * r.val + b.val < 128 := by omega
  unfold devRegionSteal
  dsimp only
  split
  · rfl
  · split
    · have tried := tilePlaces_attempt (d := d) (r := r.val) (least := regField d .cfgSteal 16 16) (again := minBlock d)
        (seen := seen) (i := i) thief (otherRegions_spec (r := r.val) (by omega)) spent
      split
      · exact tilePlaces_updateTileStat.trans tried
      · exact tilePlaces_setBlock.trans tried
    · exact tilePlaces_setBlock

/-- Settles O41: a claim moves a tile into a context, a steal moves tiles to an exhausted range. -/
theorem tilesKeepTheirPlace : Obligations.TilesKeepTheirPlace := by
  refine ⟨fun s t x seen i ran => ?_, fun s t r b seen i spent ran => ?_⟩
  · rw [lifted ran]
    exact tilePlaces_devTileClaim (d := entry s)
  · rw [lifted ran]
    exact tilePlaces_devRegionSteal (d := entry s) spent

/-- What a steal that takes half of v's range leaves of the counters. -/
theorem counterOf_takeHalf {v g : Nat} (ne : v ≠ g) (k : Nat) : counterOf (takeHalf v g d) k =
    if k = g then stolenBy (counterOf d v) else if k = v then stolenFrom (counterOf d v) else counterOf d k := by
  have thief : counterOf (takeHalf v g d) k =
      counterOf (setCounter g (stolenBy (counterOf d v)) (setCounter v (stolenFrom (counterOf d v)) d)) k := rfl
  rw [thief]
  by_cases own : k = g
  · rw [if_pos own, own]
    exact getD_put_self ..
  · rw [if_neg own]
    by_cases victim : k = v
    · rw [if_pos victim, victim]
      exact (getD_put_ne _ _ _ _ _ ne).trans (getD_put_self ..)
    · rw [if_neg victim]
      exact (getD_put_ne _ _ _ _ _ own).trans (getD_put_ne _ _ _ _ _ victim)

theorem devRegionSteal_takes {r : Fin 8} {b : Fin 16} {v : Nat} (runs : stepRuns d = true) (issued : d.work.issue ≠ none)
    (asked : (blockOfWork d (16 * r.val + b.val)).asked = true) (on : regField d .cfgSteal 33 1 = 1)
    (found : victimOf (counterOf d) (regField d .cfgSteal 16 16) ((List.range 128).filter fun x => x / 16 ≠ r.val) = some v) :
    devRegionSteal r b [] d = updateTileStat r.val (fun s => { s with stealsX := bump20 s.stealsX })
      (takeHalf v (16 * r.val + b.val) d) := by
  have took : attempt r.val (16 * r.val + b.val) (regField d .cfgSteal 16 16) (minBlock d)
      ((List.range 128).filter fun x => x / 16 ≠ r.val) [] d = (true, takeHalf v (16 * r.val + b.val) d) := by
    have seen : observed d [] = counterOf d := rfl
    simp only [attempt, seen, found, if_true]
  rw [devRegionSteal]
  dsimp only
  rw [if_neg (by simp [runs, issued, asked]), if_pos on, took]
  rfl

/-- Settles O40: a claim by the range that its block has left, a region steal by its victim. -/
theorem tilesClaimedAndStolen : Obligations.TilesClaimedAndStolen := by
  refine ⟨fun s x seen may => ⟨fun left => ?_, fun spent off unasked => ?_⟩, fun s r b v runs issued asked on found => ?_⟩
  · exact lift_of_eq ((devTileClaim_eq (d := entry s) may).trans (if_pos left))
  · have may' : (blockOfWork s.dev x.block.val).done = false := by
      simp only [mayClaim, Bool.and_eq_true, Bool.not_eq_true'] at may
      exact may.1.1.2
    have asks : blockSteal x.block.val seen (claimed x none (entry s)) =
        setBlock x.block.val { asked := true, done := false } (claimed x none (entry s)) := by
      rw [blockSteal]
      dsimp only
      rw [show blockOfWork (claimed x none (entry s)) x.block.val = blockOfWork s.dev x.block.val from rfl, unasked, may',
        show regField (claimed x none (entry s)) .cfgSteal 32 1 = regField s.dev .cfgSteal 32 1 from rfl, off]
      rfl
    refine ⟨_, lift_of_eq (((devTileClaim_eq (d := entry s) may).trans (if_neg (Nat.not_lt.2 spent))).trans asks), ?_, ?_, rfl⟩
    · exact counterOf_claimed (d := entry s) (tile := none)
    · exact congrArg BlockWork.asked (getD_put_self ..)
  · have ne : v ≠ 16 * r.val + b.val := (otherRegions_spec (r := r.val) (by omega) v (victimOf_mem found)).2
    have counters (k : Nat) := counterOf_takeHalf (d := entry s) ne k
    refine ⟨_, lift_of_eq (devRegionSteal_takes (d := entry s) runs issued asked on found), ?_, ?_, ?_, fun k nv ng => ?_, ?_⟩
    · exact (counters v).trans ((if_neg ne).trans (if_pos rfl))
    · exact (counters _).trans (if_pos rfl)
    · exact congrArg BlockWork.asked (getD_put_self ..)
    · exact (counters k).trans ((if_neg ng).trans (if_neg nv))
    · exact congrArg TileStat.stealsX (getD_put_self ..)

end Sys2Proof.Machine
end

section
/-!
PROOF. Sampling (R7, R29, R265, R266, R270).
-/
namespace Sys2Proof.Machine

variable {d : Device}

/-! ### What a unit of the step reads and writes where memory holds no error -/

theorem noteRead_eq (a n : Nat) (d : Device) :
    noteRead a n d = { d with work := { d.work with read := (noteRead a n d).work.read } } := by
  unfold noteRead
  split <;> rfl

theorem racedBytes_none {a : Nat} {bs : List Byte} (none' : d.work.raced = []) : racedBytes a bs d = (bs, d) :=
  if_neg (by simp [none'])

theorem freeRaced_none {a n : Nat} (none' : d.work.raced = []) : freeRaced a n d = d := by
  rw [freeRaced, none']
  rfl

/-- A read of error-free memory that the host has not raced delivers its bytes and is noted. -/
theorem workRead_clean {a n : Nat} (inside : rangeInMap a n = true) (clean : ErrorFree d) (none' : d.work.raced = []) :
    workRead a n d = (readBytes d.mem.bytes a n, noteRead a n d) := by
  have raced : (noteRead a n d).work.raced = [] := by
    rw [noteRead_eq]
    exact none'
  have read : unitRead a n d = (readBytes d.mem.bytes a n, [], d) := by
    rw [unitRead, touchRange_clean d.mem a n clean.1 clean.2]
  rw [workRead, if_neg (by simp [inside]), read]
  exact (congrArg (racedBytes a _) (freeRaced_none raced)).trans (racedBytes_none raced)

/-- A write into error-free memory that the host has not raced. -/
theorem workWrite_clean {a : Nat} {bs : List Byte} (inside : rangeInMap a bs.length = true) (clean : ErrorFree d)
    (none' : d.work.raced = []) : workWrite a bs d =
      { noteWrote a bs.length d with mem := { d.mem with bytes := writeBytes d.mem.bytes a bs } } := by
  rw [workWrite, if_neg (by simp [inside]), racedBytes_none none']
  dsimp only
  rw [writeRange_clean d.mem a bs clean.1 clean.2]
  rfl

theorem stepRuns_noteRead {a n : Nat} : stepRuns (noteRead a n d) = stepRuns d := by
  rw [noteRead_eq]
  rfl

/-! ### Sample points, draws, and the end of a region -/

theorem devSamplePoint_reads {i : Fin 64} {p : SamplePoint} (runs : stepRuns d = true) (clean : ErrorFree d)
    (none' : d.work.raced = []) (point : (pointsOf d)[i.val]? = some p) (done : clauseDone d p.clause = true)
    (fresh : i.val ∉ d.work.sampled) (head : rangeInMap p.list 4 = true) (few : natOfBytes (readBytes d.mem.bytes p.list 4) ≤ 65536)
    (inside : rangeInMap (p.list + 16) (16 * natOfBytes (readBytes d.mem.bytes p.list 4)) = true) :
    let n := natOfBytes (readBytes d.mem.bytes p.list 4)
    let e := noteRead (p.list + 16) (16 * n) (noteRead p.list 4 d)
    devSamplePoint i d = { e with work := { e.work with
      sampled := d.work.sampled ++ [i.val]
      jobs := d.work.jobs ++
        (pieces 16 n (readBytes d.mem.bytes (p.list + 16) (16 * n))).filterMap (parseSampleEntry i.val p) } } := by
  have first := workRead_clean head clean none'
  have same := noteRead_eq p.list 4 d
  have mem : (noteRead p.list 4 d).mem = d.mem := by rw [same]
  have second := workRead_clean (d := noteRead p.list 4 d) inside (by rw [ErrorFree, mem]; exact clean) (by rw [same]; exact none')
  rw [mem] at second
  have work : (noteRead (p.list + 16) (16 * natOfBytes (readBytes d.mem.bytes p.list 4)) (noteRead p.list 4 d)).work.sampled =
      d.work.sampled ∧ (noteRead (p.list + 16) (16 * natOfBytes (readBytes d.mem.bytes p.list 4)) (noteRead p.list 4 d)).work.jobs =
      d.work.jobs := by
    rw [noteRead_eq (p.list + 16), noteRead_eq p.list 4 d]
    exact ⟨rfl, rfl⟩
  dsimp only
  rw [devSamplePoint, point]
  dsimp only
  rw [if_neg (by simp [runs, done, fresh]), first]
  dsimp only
  rw [if_neg (by simp [stepRuns_noteRead, runs]), if_neg (by omega), second]
  dsimp only
  rw [if_neg (by simp [stepRuns_noteRead, runs]), work.1, work.2]

theorem recordDraw_leaves {p : SamplePoint} {x : SampleJob} {index token : Nat} {nofinite : Bool} (clean : ErrorFree d)
    (none' : d.work.raced = []) (inside : x.role = 3 → rangeInMap (p.logits + p.draftOut + 4 * x.row) 4 = true) :
    recordDraw p x index token nofinite d = { d with
      mem := if x.role = 3 then
          { d.mem with bytes := writeBytes d.mem.bytes (p.logits + p.draftOut + 4 * x.row) (bytesOfNat 4 token) }
        else d.mem
      work := { d.work with
        jobs := d.work.jobs.erase x
        drawn := d.work.drawn ++ [{ handle := x.handle, role := x.role, j := x.j, index := index, token := token, nofinite := nofinite }]
        past := if x.role = 3 then d.work.past ++ [(p.logits + p.draftOut + 4 * x.row, 4)] else d.work.past
        counts := { d.work.counts with nofinite := d.work.counts.nofinite + ofBit nofinite } } } := by
  unfold recordDraw
  by_cases drafts : x.role = 3
  · simp only [if_pos drafts]
    have place : rangeInMap (p.logits + p.draftOut + 4 * x.row) (bytesOfNat 4 token).length = true := by
      rw [bytesOfNat_length]
      exact inside drafts
    rw [workWrite_clean place, bytesOfNat_length]
    · rfl
    · exact clean
    · exact none'
  · simp only [if_neg drafts]

theorem devDraw_reads {r : Fin 8} {x : SampleJob} {p : SamplePoint} {q : Request} (runs : stepRuns d = true) (clean : ErrorFree d)
    (none' : d.work.raced = []) (job : d.work.jobs.find? (·.region = r.val) = some x) (point : (pointsOf d)[x.point]? = some p)
    (req : reqOf d x.handle = some q) (inside : rangeInMap (rowAddr p x.row) (p.v * logitBytes p) = true)
    (place : x.role = 3 → rangeInMap (p.logits + p.draftOut + 4 * x.row) 4 = true) :
    let k := drawIndices q x
    let y := drawToken q.sampler (drawCount q (draftsBefore d.work.drawn x)) q.seed k.1 k.2
      (logitsOf p (readBytes d.mem.bytes (rowAddr p x.row) (p.v * logitBytes p)))
    let e := noteRead (rowAddr p x.row) (p.v * logitBytes p) d
    devDraw r d = { e with
      mem := if x.role = 3 then
          { d.mem with bytes := writeBytes d.mem.bytes (p.logits + p.draftOut + 4 * x.row) (bytesOfNat 4 y.1) } else d.mem
      work := { e.work with
        jobs := d.work.jobs.erase x
        drawn := d.work.drawn ++ [{ handle := x.handle, role := x.role, j := x.j, index := k.1, token := y.1, nofinite := y.2 }]
        past := if x.role = 3 then d.work.past ++ [(p.logits + p.draftOut + 4 * x.row, 4)] else d.work.past
        counts := { d.work.counts with nofinite := d.work.counts.nofinite + ofBit y.2 } } } := by
  have row := workRead_clean inside clean none'
  have same := noteRead_eq (rowAddr p x.row) (p.v * logitBytes p) d
  have goes : ¬ (!stepRuns (noteRead (rowAddr p x.row) (p.v * logitBytes p) d)) = true := by simp [stepRuns_noteRead, runs]
  dsimp only
  rw [devDraw, job]
  dsimp only
  rw [if_neg (by simp [runs]), point, req]
  dsimp only
  rw [row]
  dsimp only
  rw [if_neg goes]
  generalize noteRead (rowAddr p x.row) (p.v * logitBytes p) d = e at same ⊢
  have mem : e.mem = d.mem := by rw [same]
  rw [recordDraw_leaves (by rw [ErrorFree, mem]; exact clean) (by rw [same]; exact none') place, same]

theorem devRegionDone_ends {r : Fin 8} (runs : stepRuns d = true) (idle : clausesOver d = true)
    (rest : d.work.jobs.any (·.region = r.val) = false) (fresh : r.val ∉ d.work.regionsDone) : devRegionDone r d =
      { d with work := { d.work with regionsDone := d.work.regionsDone ++ [r.val] } } := by
  rw [devRegionDone, if_neg (by rw [runs, idle, rest]; simpa using fresh)]

/-- Settles O44: a list, a row of logits and a draft's place lie in error-free memory. -/
theorem sampling : Obligations.Sampling := by
  intro s runs clean none'
  refine ⟨?_, ?_, fun r idle rest fresh => ?_⟩
  · intro i p point done fresh n head few inside e
    exact lift_of_eq ((congrArg (devSamplePoint i) (noteFound_nil _)).trans (devSamplePoint_reads (d := entry s) runs clean none' point done fresh head few inside))
  · intro r x p q job point req inside out place k y e
    exact lift_of_eq ((congrArg (devDraw r) (noteFound_nil _)).trans (devDraw_reads (d := entry s) runs clean none' job point req inside place))
  · exact lift_of_eq (devRegionDone_ends (d := entry s) runs idle rest fresh)

end Sys2Proof.Machine
end

section
/-!
PROOF. Particles and frames as they arrive (R31 to R35, R286, R298, R421).
-/
namespace Sys2Proof.Machine

variable {d : Device} {type : Nat} {pin : ParticleIn} {p : Particle} {current : Device → Particle → Bool}
  {act : Particle → Device → Device}

/-! ### What a particle can do that arrives -/

/-- A particle that acts is acknowledged and remembered. -/
def received (pin : ParticleIn) (p : Particle) (d : Device) : Device :=
  { d with out := d.out ++ [ackOf d pin], fab := { d.fab with seen := d.fab.seen ++ [(pin.frame.src, p)] } }

@[simp] theorem received_job : (received pin p d).job = d.job := rfl

theorem receiveParticle_mirror (follows : mirrors d = true) : receiveParticle type pin current act d = d := if_pos follows

theorem receiveParticle_badFrame (own : mirrors d = false) (bad : frameOk d [0] pin.frame = false) :
    receiveParticle type pin current act d = discardFrame d := by
  rw [receiveParticle, if_neg (by simp [own]), if_pos (by simp [bad])]

theorem receiveParticle_illFormed (own : mirrors d = false) (good : frameOk d [0] pin.frame = true)
    (ill : parseParticle pin.frame.payload = none) : receiveParticle type pin current act d = countStale d := by
  rw [receiveParticle, if_neg (by simp [own]), if_neg (by simp [good]), ill]

theorem receiveParticle_formed (own : mirrors d = false) (good : frameOk d [0] pin.frame = true)
    (parsed : parseParticle pin.frame.payload = some p) (typed : p.type = type) : receiveParticle type pin current act d =
      if d.fab.seen.contains (pin.frame.src, p) then ackParticle pin d
      else if current d p then
        act p (received pin p d)
      else countStale d := by
  rw [receiveParticle, if_neg (by simp [own]), if_neg (by simp [good]), parsed]
  exact if_neg (by simp [typed])

theorem receiveParticle_copy (own : mirrors d = false) (good : frameOk d [0] pin.frame = true)
    (parsed : parseParticle pin.frame.payload = some p) (typed : p.type = type) (seen : (pin.frame.src, p) ∈ d.fab.seen) :
    receiveParticle type pin current act d = ackParticle pin d :=
  (receiveParticle_formed own good parsed typed).trans (if_pos (by simpa using seen))

theorem receiveParticle_stale (own : mirrors d = false) (fresh : Fresh d pin p type) (stale : current d p = false) :
    receiveParticle type pin current act d = countStale d := by
  obtain ⟨good, parsed, typed, unseen⟩ := fresh
  rw [receiveParticle_formed own good parsed typed, if_neg (by simpa using unseen), if_neg (by simp [stale])]

theorem receiveParticle_acts (own : mirrors d = false) (fresh : Fresh d pin p type) (now : current d p = true) :
    receiveParticle type pin current act d =
      act p (received pin p d) := by
  obtain ⟨good, parsed, typed, unseen⟩ := fresh
  rw [receiveParticle_formed own good parsed typed, if_neg (by simpa using unseen), if_pos now]

/-! ### STEP_WANT, STEP_DONE and STEP_START -/

theorem devStepWant_acts (serves : serving d = true) (own : mirrors d = false) (fresh : Fresh d pin p 0x04) (lead : isLead d = true)
    (gen : p.gen = d.job.gen) (step : p.step = d.job.number) (member : p.sender < memberCount d) : devStepWant pin d =
      { received pin p d with job := { d.job with wantNoted := true } } := by
  rw [devStepWant, if_neg (by simp [serves])]
  exact receiveParticle_acts own fresh (by simp [lead, gen, step, member])

theorem progressDone_notDone {begin' : Device → Device} (working : d.job.localDone = false) : progressDone begin' d = d :=
  if_pos (by simp [working])

theorem devStepDone_acts {page : Option Doorbell} (serves : serving d = true) (own : mirrors d = false) (fresh : Fresh d pin p 0x02)
    (lead : isLead d = true) (gen : p.gen = d.job.gen) (going : d.job.halted = false) (steady : d.job.awaitReady = false)
    (flies : d.job.inFlight = true) (working : d.job.localDone = false) (outside : inBoundary d = false) (good : p.status = 0)
    (step : p.step = d.job.number) (member : p.sender < memberCount d) : devStepDone pin page d =
      { received pin p d with job := { d.job with doneFrom := d.job.doneFrom ++ [p.sender] } } := by
  rw [devStepDone, if_neg (by simp [serves])]
  refine (receiveParticle_acts own fresh (by simp [lead, gen, step, member, going, flies, outside])).trans ?_
  rw [if_neg (by simp [isReady, steady]), if_neg (by simp [good])]
  exact progressDone_notDone working

theorem devStepStart_acts {page : Option Doorbell} (serves : serving d = true) (own : mirrors d = false) (fresh : Fresh d pin p 0x01)
    (member : isLead d = false) (gen : p.gen = d.job.gen) (going : d.job.halted = false) (sender : p.sender = 0)
    (idle : d.job.inFlight = false) (unordered : d.job.startOrdered = false) (outside : inBoundary d = false)
    (step : p.step = d.job.number) : devStepStart pin page d =
      { received pin p d with job := { d.job with startOrdered := true } } := by
  rw [devStepStart, if_neg (by simp [serves])]
  refine (receiveParticle_acts own fresh
    (by simp [member, gen, going, sender, startOrders, idle, unordered, outside, step])).trans ?_
  rw [if_neg (by simp [startCommits, idle])]
  rfl

/-- Settles O47: each particle acts by its type. -/
theorem stepParticlesAct : Obligations.StepParticlesAct := by
  intro s pin p page serves own gen becomes
  refine ⟨fun fresh lead step member => ?_, fun fresh lead going steady flies working outside good step member => ?_,
    fun fresh member going sender idle unordered outside step => ?_⟩
  · exact lift_of_eq (devStepWant_acts (d := entry s) serves own fresh lead gen step member)
  · exact lift_of_eq (devStepDone_acts (d := entry s) serves own fresh lead gen going steady flies working outside good step member)
  · exact lift_of_eq (devStepStart_acts (d := entry s) serves own fresh member gen going sender idle unordered outside step)

/-! ### Traffic that is discarded -/

theorem devStepWant_eq (serves : serving d = true) : devStepWant pin d = receiveParticle typeWant pin
    (fun d p => isLead d && p.gen = d.job.gen && p.step = d.job.number && p.sender < memberCount d)
    (fun _ d => { d with job := { d.job with wantNoted := true } }) d := if_neg (by simp [serves])

theorem devData_badFrame {port : Fin 9} {f : Frame} (serves : serving d = true) (bad : frameOk d [1, 2, 3] f = false)
    (takes : port.val = 8 ∨ mirrors d = false) : devData port f d = discardFrame d := by
  have enters : (mirrors d && decide (port.val ≠ 8)) = false := by
    rcases takes with twin | own
    · simp [twin]
    · simp [own]
  rw [devData, if_neg (by rw [fabricRuns, serves, enters]; decide), if_pos (by simp [bad])]

theorem devData_stale {port : Fin 9} {f : Frame} (serves : serving d = true) (own : mirrors d = false)
    (good : frameOk d [1, 2, 3] f = true) (fabric : port.val ≠ 8) (stale : staleFrame d f = true) : devData port f d = countStale d := by
  rw [devData, if_neg (by simp [fabricRuns, serves, own]), if_neg (by simp [good]), if_neg fabric, if_pos stale]

theorem devData_mirror {port : Fin 9} {f : Frame} (follows : mirrors d = true) (fabric : port.val ≠ 8) : devData port f d = d :=
  if_pos (by simp [follows, fabric])

/-- Settles O48: what is discarded only counts, and a copy is only acknowledged. -/
theorem badTrafficDiscarded : Obligations.BadTrafficDiscarded := by
  refine ⟨fun s pin serves own => ⟨fun bad => ?_, fun good => ⟨fun p parsed typed seen => ?_, fun ill => ?_⟩, fun p fresh old => ?_⟩,
    fun s port f serves => ⟨fun bad takes => ?_, fun good fabric own stale => ?_, fun follows fabric => ⟨?_, fun pin => ?_⟩⟩⟩
  · exact lift_of_eq ((devStepWant_eq (d := entry s) serves).trans (receiveParticle_badFrame own bad))
  · exact lift_of_eq ((devStepWant_eq (d := entry s) serves).trans (receiveParticle_copy own good parsed typed seen))
  · exact lift_of_eq ((devStepWant_eq (d := entry s) serves).trans (receiveParticle_illFormed own good ill))
  · refine lift_of_eq ((devStepWant_eq (d := entry s) serves).trans (receiveParticle_stale own fresh ?_))
    rw [decide_eq_false (show ¬ p.gen = (entry s).job.gen from old), Bool.and_false, Bool.false_and, Bool.false_and]
  · exact lift_of_eq (devData_badFrame (d := entry s) serves bad takes)
  · exact lift_of_eq (devData_stale (d := entry s) serves own good fabric stale)
  · exact lift_of_eq (devData_mirror (d := entry s) follows fabric)
  · exact lift_of_eq ((devStepWant_eq (d := entry s) serves).trans (receiveParticle_mirror follows))

end Sys2Proof.Machine
end

section
/-!
PROOF. The engine of exports (R333 to R340).
-/
namespace Sys2Proof.Machine

variable {d : Device}

/-! ### Chunks that are to leave -/

/-- From `a` to `b` nothing has changed but the chunks that are to leave. -/
def Sent (a b : Device) : Prop := b = { a with
  work := { a.work with sentCrcs := b.work.sentCrcs }, fab := { a.fab with chunks := b.fab.chunks, nextId := b.fab.nextId } }

theorem Sent.trans {a b c : Device} (h : Sent a b) (k : Sent b c) : Sent a c := by
  unfold Sent at *
  rw [k, h]

theorem Sent.role {a b : Device} (h : Sent a b) : b.role = a.role := by rw [h]

theorem sent_noteChunk (c : Chunk) (d : Device) : Sent d (noteChunk c d) := by
  unfold noteChunk
  split <;> rfl

theorem sent_sendOn (port : Nat) (c : Chunk) (d : Device) : Sent d (sendOn port c d) := by
  unfold sendOn
  dsimp only
  split
  · exact sent_noteChunk c d
  · exact (sent_noteChunk c d).trans rfl

theorem sent_foldl {α : Type} {f : Device → α → Device} (step : ∀ d x, Sent d (f d x)) (xs : List α) (d : Device) :
    Sent d (xs.foldl f d) := by
  induction xs generalizing d with
  | nil => rfl
  | cons x xs ih => exact (step d x).trans (ih _)

/-! ### What the engine reads where memory holds no error -/

theorem readSlot_clean {e : PageEntry} {n : Nat} (clean : ErrorFree d) : (readSlot e n d).2 = ([], d) := by
  unfold readSlot
  split
  · rfl
  · rw [unitRead, touchRange_clean d.mem e.slot n clean.1 clean.2]

theorem readPlaces_clean {e : PageEntry} {dh count : Nat} (clean : ErrorFree d) : (readPlaces e dh count d).2 = ([], d) := by
  unfold readPlaces
  generalize slotAreas dh e.fp4 = areas
  have all (acc : List Byte × List MemEvent × Device) (start : acc.2 = ([], d)) : (areas.foldl (fun acc a =>
      let r := readSlot { e with slot := e.slot + a.1 } (count * a.2) acc.2.2
      (acc.1 ++ r.1 ++ List.replicate ((256 - count) * a.2) 0#8, acc.2.1 ++ r.2.1, r.2.2)) acc).2 = ([], d) := by
    induction areas generalizing acc with
    | nil => exact start
    | cons a areas ih =>
      have slot := readSlot_clean (e := { e with slot := e.slot + a.1 }) (n := count * a.2) clean
      refine ih _ ?_
      dsimp only
      rw [start, slot]
      rfl
  exact all _ rfl

/-! ### Exports of a request -/

theorem shipOf_updateShip {h : Nat} {f : Shipping → Shipping} (same : ∀ x, (f x).handle = x.handle) :
    shipOf (updateShip h f d) h = (shipOf d h).map f := by
  have ships : shipsOf (updateShip h f d) = (shipsOf d).map fun x => if x.handle = h then f x else x := rfl
  have handle (x : Shipping) : (if x.handle = h then f x else x).handle = x.handle := by
    split
    · exact same x
    · rfl
  rw [shipOf, ships, List.find?_map, shipOf]
  have found : ((fun x : Shipping => decide (x.handle = h)) ∘ fun x => if x.handle = h then f x else x) =
      fun x => decide (x.handle = h) := funext fun x => by simp only [Function.comp, handle]
  rw [found]
  cases named : (shipsOf d).find? fun x => decide (x.handle = h) with
  | none => rfl
  | some x =>
    have is : x.handle = h := by simpa using List.find?_some named
    simp [is]

theorem shipOf_updated {h : Nat} {f : Shipping → Shipping} {x : Shipping} (same : ∀ x, (f x).handle = x.handle)
    (ship : shipOf d h = some x) : shipOf (updateShip h f d) h = some (f x) := by
  rw [shipOf_updateShip same, ship]
  rfl

theorem shipOf_role {a b : Device} (same : a.role = b.role) (h : Nat) : shipOf a h = shipOf b h := by
  rw [shipOf, shipsOf, same, shipOf, shipsOf]

/-- The page that starts (R336, R337). -/
theorem devExportPageStart_starts {h : Nat} {p : ExportPage} {x : Shipping} {l : SlotList} (serves : serving d = true)
    (own : mirrors d = false) (clean : ErrorFree d) (next : nextPage d = some (h, p)) (ship : shipOf d h = some x)
    (list : Tab.find d.fab.slotLists x.list = some l) (gen : l.gen = x.gen) (credit : l.seq < l.credit)
    (room : ((shipsOf d).flatMap fun y => y.pages.filter underWay).length < 512) : ∃ (n : Nat) (cs : List (Chunk × Nat)),
    devExportPageStart d = serve (cs.foldl (fun d c => sendChunk ((l.seq + c.2) % 8) c.1 d)
      (updateShip h (fun s => { s with
        started := s.started + 1
        pages := s.pages.map fun q => if q = p then { q with seq := some l.seq, chunksLeft := n } else q })
        { d with fab := { d.fab with slotLists := Tab.put d.fab.slotLists x.list { l with seq := l.seq + 1 } } })) := by
  let dh := if (listAt d p.key).dh = 0 then dimAt d p.key.layer p.key.head else (listAt d p.key).dh
  have read : (readPlaces p.entry dh p.count d).2 = ([], d) := readPlaces_clean clean
  let image := pageImage x p dh l.seq (x.cut && (x.pages.filter fun q => q.seq.isNone).length = 1)
    (readPlaces p.entry dh p.count d).1
  let cs := pieces chunkSize (image.length / chunkSize + 1) image
  refine ⟨cs.length, (cs.zip (List.range cs.length)).map fun c =>
    ({ dst := l.node, ftype := 0x20, vc := 2, gen := l.gen, group := 0, rank := 0, entry := x.list, flags := 0#7,
       step := l.seq, piece := 0, index := c.2, phase := 0, agree := 0#64, bytes := c.1 }, c.2), ?_⟩
  rw [devExportPageStart, if_neg (by simp [serves, own]), next]
  dsimp only
  rw [ship]
  dsimp only
  rw [list]
  dsimp only
  rw [if_neg (by simp only [gen, ne_eq, not_true_eq_false, decide_false, Bool.false_or, Bool.or_eq_true, decide_eq_true_eq]; omega)]
  change (if anyUncorrectable (readPlaces p.entry dh p.count d).2.1 then _ else _) = _
  rw [read, if_neg (show ¬ anyUncorrectable [] = true by decide)]
  rw [List.foldl_map]
  rfl

theorem ownTurn_own {f : Device → Device} (own : d.onTaken = false) : ownTurn f d = f d := if_neg (by simp [own])

/-- A credit particle raises the credit of its list (R333). -/
theorem devExportCredit_acts {pin : ParticleIn} {p : Particle} {l : SlotList} (serves : serving d = true) (own : mirrors d = false)
    (fresh : Fresh d pin p 0x20) (list : Tab.find d.fab.slotLists p.status = some l) (node : pin.frame.src = l.node)
    (gen : p.gen = l.gen) (more : l.credit < p.step) : devExportCredit pin d = { d with
      out := d.out ++ [ackOf d pin]
      fab := { d.fab with
        seen := d.fab.seen ++ [(pin.frame.src, p)]
        slotLists := Tab.put d.fab.slotLists p.status { l with credit := p.step } } } := by
  have list' : Tab.find (received pin p d).fab.slotLists p.status = some l := list
  rw [devExportCredit, if_neg (by simp [fabricRuns, serves])]
  refine (receiveParticle_acts own fresh (by simp [list, node, gen, more])).trans ?_
  rw [list']
  rfl

/-- Once the pages under way of a failed or finished one of the exports are all acknowledged, its completion enters its queue (R338, R340). -/
theorem checkShip_keeps {h : Nat} (d : Device) : (∃ f : Shipping → Shipping, (∀ x, (f x).handle = x.handle ∧ (f x).failure = x.failure) ∧
    shipOf (checkShip h d) h = (shipOf d h).map f) ∧ (checkShip h d).mem = d.mem ∧ (checkShip h d).job = d.job := by
  have stays : (∃ f : Shipping → Shipping, (∀ x, (f x).handle = x.handle ∧ (f x).failure = x.failure) ∧
      shipOf d h = (shipOf d h).map f) ∧ d.mem = d.mem ∧ d.job = d.job :=
    ⟨⟨id, fun _ => ⟨rfl, rfl⟩, by simp⟩, rfl, rfl⟩
  have closes (x : Shipping) (e : ExportEnd) (named : shipOf d h = some x) :
      (∃ f : Shipping → Shipping, (∀ x, (f x).handle = x.handle ∧ (f x).failure = x.failure) ∧
        shipOf (closeShip x e d) h = (shipOf d h).map f) ∧ (closeShip x e d).mem = d.mem ∧ (closeShip x e d).job = d.job := by
    have handle : x.handle = h := by simpa using List.find?_some named
    unfold closeShip
    split
    · exact stays
    · rw [handle]
      have told := queued_complete x.cq.val (endCodes e).2 0x20 2 (endCodes e).1 h x.tag d.job.number x.delivered
        { updateShip h (fun s => { s with closed := true }) d with errs := { d.errs with
          exportFailed := if (endCodes e).2 = codeStepFault then satAdd 20 d.errs.exportFailed 1 else d.errs.exportFailed } }
      refine ⟨⟨fun s => { s with closed := true }, fun _ => ⟨rfl, rfl⟩, ?_⟩, ?_, ?_⟩
      · refine (shipOf_role told.role h).trans ?_
        exact shipOf_updateShip fun _ => rfl
      · exact told.mem
      · exact told.job
  unfold checkShip
  split
  · exact stays
  next x named =>
    split
    · exact stays
    · split
      · split
        · exact stays
        · exact closes _ _ named
      · split
        · exact closes _ _ named
        · exact stays

theorem devCreditWaitTimeout_fails {h : Nat} {x : Shipping} (runs : fwRuns d = true) (ship : shipOf d h = some x)
    (waits : waitsForCredit d x = true) (opens : x.closed = false) (good : x.failure = none) :
    devCreditWaitTimeout h d = checkShip h (serve (takeOut (fun _ => false) (updateShip h (fun s => { s with
      failure := some .credit, pages := x.pages.filter underWay }) d))) := by
  rw [devCreditWaitTimeout, ship]
  dsimp only
  rw [if_pos (by simp [runs, waits]), failShip, ship]
  dsimp only
  rw [if_neg (by simp [opens, good])]
  rfl

/-- Settles O57: a page starts, credit rises, and a wait for it ends. -/
theorem exportsProceed : Obligations.ExportsProceed := by
  intro s serves own alone
  have free : mirrors (entry s) = false := mirrors_unpaired (d := entry s) alone
  refine ⟨fun h p x l clean next ship list gen credit room => ?_, fun pin p l fresh list node gen more => ?_,
    fun h x ship waits opens good => ?_⟩
  · obtain ⟨n, cs, starts⟩ := devExportPageStart_starts (d := entry s) serves free clean next ship list gen credit room
    have turn : (ownTurn devExportPageStart ∘ noteFound []) (entry s) = devExportPageStart (entry s) :=
      (congrArg (ownTurn devExportPageStart) (noteFound_nil _)).trans (ownTurn_own own)
    refine ⟨_, lift_of_eq (turn.trans starts), ?_⟩
    dsimp only
    generalize begun : updateShip h _ _ = e
    have sent : Sent e (cs.foldl (fun d c => sendChunk ((l.seq + c.2) % 8) c.1 d) e) := sent_foldl (fun _ _ => sent_sendOn ..) cs e
    have ships := (shipOf_role (serve_role _) h).trans (shipOf_role sent.role h)
    rw [serve_fab_slotLists, serve_mem, serve_job, ships, sent, ← begun]
    refine ⟨find_put_self .., ?_, rfl, rfl⟩
    rw [shipOf_updated (x := x)]
    · rfl
    · exact fun _ => rfl
    · exact ship
  · exact lift_of_eq (devExportCredit_acts (d := entry s) serves free fresh list node gen more)
  · have fails := devCreditWaitTimeout_fails (d := entry s) (fwRuns_of_serving serves) ship waits opens good
    refine ⟨_, lift_of_eq ((ownTurn_own (d := entry s) own).trans fails), ?_⟩
    dsimp only
    generalize failed : serve (takeOut (fun _ => false) _) = e
    obtain ⟨⟨f, same, ship'⟩, mem, job⟩ := checkShip_keeps (h := h) e
    rw [ship', mem, job, ← failed, serve_mem, serve_job, shipOf_role (serve_role _)]
    refine ⟨?_, rfl, rfl⟩
    have named : shipOf (updateShip h (fun s => { s with failure := some .credit, pages := x.pages.filter underWay }) (entry s)) h =
        some { x with failure := some .credit, pages := x.pages.filter underWay } := by
      rw [shipOf_updated (x := x)]
      · exact fun _ => rfl
      · exact ship
    rw [shipOf_role (a := takeOut _ _) (b := updateShip _ _ _) rfl, named]
    exact congrArg some (same _).2

end Sys2Proof.Machine
end

section
/-!
PROOF. Tier copies and re-quantisations that are done (R208, R214).
-/
namespace Sys2Proof.Machine

variable {d : Device}

theorem onCopyRole_own {c : TierCopy} {f : Device → Device} (serves : serving d = true) (own : d.onTaken = false)
    (mine : c.taken = false) (goes : d.bnd.ops.head? ≠ some .hold) : onCopyRole c f d = f d := by
  rw [onCopyRole, if_neg (by simp [serves]), if_pos (mine.trans own.symm)]
  exact if_neg goes

/-- A slot is read from error-free memory, whether a copy is noted as ended or not. -/
theorem readSlot_endCopy {e : PageEntry} {n : Nat} {x : CopyRun} (clean : ErrorFree d) :
    readSlot e n (endCopy x d) = ((readSlot e n d).1, [], endCopy x d) := by
  have same : (readSlot e n (endCopy x d)).1 = (readSlot e n d).1 := by
    unfold readSlot
    split <;> rfl
  exact Prod.ext same (readSlot_clean clean)

theorem copyDone_ends {c : TierCopy} {x : CopyRun} (clean : ErrorFree d) (runs : runOfCopy d false c = some x) : copyDone c d =
    queueEdit (editOf x 0#7) (writeSlot x.dest (readSlot x.source (slotBytes x.dh x.source.fp4) d).1 (endCopy x d)) := by
  rw [copyDone, runs]
  dsimp only
  rw [readSlot_endCopy clean]
  rfl

theorem requantDone_ends {c : TierCopy} {x : CopyRun} (clean : ErrorFree d) (runs : runOfCopy d true c = some x) :
    let y := requantSlot x.dh (min 256 ((listAt d x.key).npos - 256 * x.index)) d.freeCtr (readSlot x.source (slotBytes x.dh false) d).1
    requantDone c d = queueEdit (editOf x y.2)
      (writeSlot x.dest y.1 { endCopy x d with freeCtr := d.freeCtr + slotBytes x.dh true }) := by
  dsimp only
  rw [requantDone, runs]
  dsimp only
  rw [readSlot_endCopy clean]
  rfl

theorem writeSlot_mem (e : PageEntry) (bs : List Byte) (d : Device) : (writeSlot e bs d).mem =
    if e.tier = 2 then { d.mem with spill := writeBytes d.mem.spill e.slot bs } else (writeRange d.mem e.slot bs).1 := by
  unfold writeSlot
  split
  · rw [emit_mem]
  · rfl

theorem writeSlot_role (e : PageEntry) (bs : List Byte) (d : Device) : (writeSlot e bs d).role = d.role := by
  unfold writeSlot
  split
  · rw [emit_role]
  · rfl

theorem writeSlot_job (e : PageEntry) (bs : List Byte) (d : Device) : (writeSlot e bs d).job = d.job := by
  unfold writeSlot
  split
  · rw [emit_job]
  · rfl

/-- The edit of a copy that has ended waits for action 4; the lists stay (R208, R214). -/
theorem queueEdit_leaves {x : CopyRun} {flags : BitVec 7} {bs : List Byte} {e : Device} (mem : e.mem = d.mem)
    (role : e.role = (endCopy x d).role) (job : e.job = d.job) :
    let t := queueEdit (editOf x flags) (writeSlot x.dest bs e)
    (t.role.col.fwEdits = d.role.col.fwEdits ++
        [{ requant := x.requant, key := x.key, index := x.index, dest := x.dest, gen := x.gen, flags := flags }] ∧
      t.role.copies = d.role.copies.filter (· ≠ x) ∧ t.role.lists = d.role.lists ∧ t.role.reqs = d.role.reqs ∧ t.job = d.job) ∧
    t.mem = (writeSlot x.dest bs d).mem := by
  dsimp only [queueEdit]
  rw [updateCol_role, updateCol_job, updateCol_mem, writeSlot_role, writeSlot_job, writeSlot_mem, writeSlot_mem, mem, role, job]
  exact ⟨⟨rfl, rfl, rfl, rfl, rfl⟩, rfl⟩

/-- Settles O50: what a copy or a re-quantisation writes, and the edit that it leaves for action 4. -/
theorem copiesQueueEdits : Obligations.CopiesQueueEdits := by
  intro s c x serves own mine goes clean queued
  have turn (f : Device → Device) : (onCopyRole c f ∘ noteFound []) (entry s) = f (entry s) :=
    (congrArg (onCopyRole c f) (noteFound_nil _)).trans (onCopyRole_own (d := entry s) serves own mine goes)
  have read (e : PageEntry) (n : Nat) : (readSlot e n (entry s)).1 = (readSlot e n s.dev).1 := by
    unfold readSlot
    split <;> rfl
  refine ⟨fun runs => ?_, fun runs => ?_⟩
  · have ends := (turn (copyDone c)).trans (copyDone_ends (d := entry s) clean runs)
    rw [read] at ends
    exact ⟨_, lift_of_eq ends, queueEdit_leaves (d := entry s) (e := endCopy x (entry s)) rfl rfl rfl⟩
  · have ends := (turn (requantDone c)).trans (requantDone_ends (d := entry s) clean runs)
    rw [read] at ends
    exact ⟨_, lift_of_eq ends, queueEdit_leaves (d := entry s) (e := { endCopy x (entry s) with freeCtr := _ }) rfl rfl rfl⟩

end Sys2Proof.Machine
end

section
/-!
PROOF. The last action of a boundary, and submits that wait too long (R28, R39, R229).
-/
namespace Sys2Proof.Machine

variable {d : Device}

/-! ### A boundary whose last operation runs -/

theorem flushPosting_none (none' : d.bnd.posting = []) : flushPosting d = d := by
  rw [flushPosting, none', flushList]
  obtain ⟨bnd⟩ : ∃ b, b = d.bnd := ⟨_, rfl⟩
  rw [show ({ d.bnd with posting := [] } : Boundary) = d.bnd by rw [← none']]

theorem queued_flushPosting (d : Device) : Queued d (flushPosting d) := queued_flushList _ d

/-- Where no operation is left, only what waits for its queue is left to do. -/
theorem runOps_over {fuel : Nat} (done : d.bnd.ops = []) : runOps (fuel + 1) d = flushPosting d := by
  have ops : (flushPosting d).bnd.ops = [] := by
    rw [queued_flushPosting d]
    exact done
  rw [runOps]
  dsimp only
  rw [ops]
  exact ite_self _

theorem runOps_cons {fuel : Nat} {op : BOp} {rest : List BOp} (flushed : d.bnd.posting = []) (ops : d.bnd.ops = op :: rest) :
    runOps (fuel + 1) d = (runOp op { d with bnd := { d.bnd with ops := rest } }).elim d (runOps fuel) := by
  rw [runOps]
  dsimp only
  rw [flushPosting_none flushed, if_neg (show ¬ (!d.bnd.posting.isEmpty) = true by rw [flushed]; decide), ops]
  dsimp only
  cases runOp op { d with bnd := { d.bnd with ops := rest } } with
  | none => exact rfl
  | some e => exact rfl

theorem runBoundary_last {op : BOp} {e : Device} (last : d.bnd.ops = [op]) (flushed : d.bnd.posting = [])
    (runs : runOp op { d with bnd := { d.bnd with ops := [] } } = some e) (done : e.bnd.ops = []) :
    runBoundary d = flushPosting e := by
  obtain ⟨fuel, bound⟩ : ∃ fuel, opsBound d = fuel + 1 + 1 := ⟨opsBound d - 2, by rw [opsBound]; omega⟩
  rw [runBoundary, bound, runOps_cons flushed last, runs]
  exact runOps_over done

theorem devBoundaryActionResume_last {op : BOp} {e : Device} (on : powered d = true) (locked : d.cfgLocked = true)
    (last : d.bnd.ops = [op]) (flushed : d.bnd.posting = [])
    (runs : runOp op { d with bnd := { d.bnd with ops := [] } } = some e) (done : e.bnd.ops = []) :
    devBoundaryActionResume d = flushPosting e := by
  rw [devBoundaryActionResume, if_neg (by simp [on, locked, inBoundary, last])]
  exact runBoundary_last last flushed runs done

/-! ### The step number advances -/

/-- The step that ends. -/
def advanced (d : Device) : Device :=
  { d with
    job := { d.job with
      number := d.job.number + 1, inFlight := false, localDone := false, doneSent := false, doneFrom := [], wantNoted := false
      wantSent := false, faulted := false, aborted := false, lastBoundary := some d.job.number }
    work := d.work.over
    role := freshCollect d.role
    twin := { d.twin with
      taken := d.twin.taken.map freshCollect, mirrorStart := none
      records := lastOf 16 (d.twin.records ++ [{ step := d.job.number, packets := d.bnd.released, writes := d.bnd.writes }])
      mismatchAt := none } }

theorem actAdvance_advances (more : d.job.number + 1 ≠ 2 ^ 48 - 1) (synced : d.twin.state ≠ .syncing) : actAdvance d = advanced d := by
  rw [actAdvance]
  dsimp only
  rw [if_neg more]
  exact if_neg (by simp [synced])

theorem actAdvance_stops (last : d.job.number + 1 = 2 ^ 48 - 1) : actAdvance d = goFatal 0 d := if_pos last

/-! ### Held submits -/

/-- From `a` to `b` only completions and the log have changed. -/
def Told (a b : Device) : Prop := b = { a with
  queues := b.queues, slabs := b.slabs, bnd := { a.bnd with posting := b.bnd.posting, released := b.bnd.released }
  role := { a.role with col := b.role.col } }

theorem Told.trans {a b c : Device} (h : Told a b) (k : Told b c) : Told a c := by
  unfold Told at *
  rw [k, h]

theorem Queued.told {a b : Device} (h : Queued a b) : Told a b := by
  unfold Told Queued at *
  rw [h]

theorem told_logDesc (f : Fetched) (d : Device) : Told d (logDesc f d) := rfl

theorem told_finishDesc (f : Fetched) (code handle : Nat) (d : Device) : Told d (finishDesc f code handle d) :=
  (queued_complete ..).told

theorem told_foldl {α : Type} {f : Device → α → Device} (step : ∀ d x, Told d (f d x)) (xs : List α) (d : Device) :
    Told d (xs.foldl f d) := by
  induction xs generalizing d with
  | nil => rfl
  | cons x xs ih => exact (step d x).trans (ih _)

theorem Told.held {a b : Device} (h : Told a b) : b.role.held = a.role.held := by rw [h]
theorem Told.reqs {a b : Device} (h : Told a b) : b.role.reqs = a.role.reqs := by rw [h]
theorem Told.mem {a b : Device} (h : Told a b) : b.mem = a.mem := by rw [h]
theorem Told.job {a b : Device} (h : Told a b) : b.job = a.job := by rw [h]

/-- Submits that have waited too long leave; the others stay (R229). -/
theorem expireHeld_leaves (d : Device) :
    (expireHeld d).role.held = d.role.held.filter (fun h => h.waited ≤ schedAdmitWait d) ∧
      (expireHeld d).role.reqs = d.role.reqs ∧ (expireHeld d).mem = d.mem ∧ (expireHeld d).job = d.job := by
  have told := told_foldl (f := fun d (h : HeldSubmit) => finishDesc h.fetched codeNoSlot 0 (logDesc h.fetched d))
    (fun d h => (told_logDesc h.fetched d).trans (told_finishDesc ..))
    (d.role.held.filter fun h => schedAdmitWait d < h.waited)
    { d with role := { d.role with held := d.role.held.filter fun h => h.waited ≤ schedAdmitWait d } }
  exact ⟨told.held, told.reqs, told.mem, told.job⟩

theorem devHeldSubmitTimeout_alone (serves : serving d = true) (outside : inBoundary d = false) (alone : d.twin.taken = none) :
    devHeldSubmitTimeout d = expireHeld d := by
  have told := told_foldl (f := fun d (h : HeldSubmit) => finishDesc h.fetched codeNoSlot 0 (logDesc h.fetched d))
    (fun d h => (told_logDesc h.fetched d).trans (told_finishDesc ..))
    (d.role.held.filter fun h => schedAdmitWait d < h.waited)
    { d with role := { d.role with held := d.role.held.filter fun h => h.waited ≤ schedAdmitWait d } }
  have twin : (expireHeld d).twin.taken = none := by
    rw [expireHeld]
    dsimp only
    rw [told]
    exact alone
  rw [devHeldSubmitTimeout, if_neg (by simp [serves, outside]), inSplit, if_neg (by simp [twin])]

/-- Settles O46: the step number advances or stops the device; submits that waited too long leave. -/
theorem boundaryAdvancesAndHeldSubmitsExpire : Obligations.BoundaryAdvancesAndHeldSubmitsExpire := by
  refine ⟨fun s on locked last flushed synced lives => ⟨fun more => ?_, fun final => ?_⟩, fun s serves outside alone => ?_⟩
  · have ran := devBoundaryActionResume_last (d := entry s) on locked last flushed
      (congrArg some (actAdvance_advances (d := { entry s with bnd := { s.dev.bnd with ops := [] } }) more synced)) rfl
    refine ⟨_, lift_of_eq (ran.trans (flushPosting_none flushed)), rfl, rfl, rfl, rfl, rfl, rfl, rfl, rfl, rfl⟩
  · obtain ⟨fatal, -, phase, -, -, -, -, -, -, -, -, -, number⟩ :=
      fatalAt_leaves (d := { entry s with bnd := { s.dev.bnd with ops := [] } }) 3 0xFF 0 lives
    have stops := congrArg some (actAdvance_stops (d := { entry s with bnd := { s.dev.bnd with ops := [] } }) final)
    have ran := devBoundaryActionResume_last (d := entry s) on locked last flushed stops (fatalAt_ops 3 0xFF 0 lives)
    have flushes := queued_flushPosting (goFatal 0 { entry s with bnd := { s.dev.bnd with ops := [] } })
    refine ⟨_, lift_of_eq ran, ?_, ?_, ?_⟩
    · exact (congrArg Job.number flushes.job).trans number
    · exact (congrArg Job.fatal flushes.job).trans fatal
    · exact (congrArg Boot.phase flushes.boot).trans phase
  · exact ⟨_, lift_of_eq (devHeldSubmitTimeout_alone (d := entry s) serves outside alone), expireHeld_leaves (entry s)⟩

end Sys2Proof.Machine
end

section
/-!
PROOF. Local done at a member (R29, R34).
-/
namespace Sys2Proof.Machine

variable {d : Device}

/-- What the run drew and wrote goes to the boundary; nothing is read where the plan has no output rows. -/
theorem finishRun_bare (none' : outputPlan d = none) : ∃ col : Collect,
    finishRun d = { d with role := { d.role with col := col } } ∧ col.drawn = d.work.drawn ∧ col.written = d.work.written := by
  have rows (c : Collect) : outputRows { d with role := { d.role with col := c } } =
      ([], { d with role := { d.role with col := c } }) := by
    rw [outputRows, show outputPlan { d with role := { d.role with col := c } } = none from none']
  rw [finishRun]
  dsimp only [updateCol]
  rw [rows]
  exact ⟨_, rfl, rfl, rfl⟩

theorem sendResult_unpaired (alone : d.twin.state = .unpaired) : sendResult d = d := if_pos (by simp [sendsRecords, alone])

theorem gateOpen_unpaired (alone : d.twin.state = .unpaired) : gateOpen d = true := by
  rw [gateOpen, alone]
  exact ite_self _

/-- A member at local done reports once (R34). -/
theorem progressDone_reports {begin' : Device → Device} (serves : serving d = true) (flies : d.job.inFlight = true)
    (done : d.job.localDone = true) (good : d.job.faulted = false) (going : d.job.halted = false) (outside : inBoundary d = false)
    (alone : d.twin.state = .unpaired) (member : isLead d = false) (unsent : d.job.doneSent = false) :
    progressDone begin' d = sendParticle (partitionNode d 0) { stepParticle d typeDone 0 d.job.number with sender := myRank d }
      { d with job := { d.job with doneSent := true } } := by
  have ranks : servedRanks d = [myRank d] := if_neg (by simp [alone])
  rw [progressDone, if_neg (by simp [serves, flies, done, good, going, outside]), if_neg (by simp [mirrors_unpaired alone]),
    if_neg (by simp [gateOpen_unpaired alone]), if_neg (by simp [member]), if_neg (by simp [unsent]), ranks]
  rfl

theorem devLocalDone_reports {page : Option Doorbell} (serves : serving d = true) (flies : d.job.inFlight = true)
    (good : d.job.faulted = false) (working : d.job.localDone = false) (going : d.job.halted = false) (unsent : d.job.doneSent = false)
    (outside : inBoundary d = false) (done : workDone d = true) (sole : d.twin.taken = none) (own : d.onTaken = false)
    (alone : d.twin.state = .unpaired) (member : isLead d = false) (none' : outputPlan d = none) : ∃ col : Collect,
    col.drawn = d.work.drawn ∧ col.written = d.work.written ∧ devLocalDone page d = { d with
      role := { d.role with col := col }
      job := { d.job with localDone := true, doneSent := true }
      out := d.out ++ [.particle d.fab.up (partitionNode d 0) { stepParticle d typeDone 0 d.job.number with sender := myRank d }]
      fab := withParticle d (partitionNode d 0) { stepParticle d typeDone 0 d.job.number with sender := myRank d } } := by
  obtain ⟨col, run, drawn, written⟩ := finishRun_bare none'
  refine ⟨col, drawn, written, ?_⟩
  rw [devLocalDone, if_neg (by simp [serves, flies, good, working, going, outside, done, sole]), run]
  dsimp only
  rw [toOwn_own (d := { d with role := { d.role with col := col } }) own,
    if_neg (by simp [good, flies])]
  rw [sendResult_unpaired (d := { d with role := { d.role with col := col }, job := { d.job with localDone := true } }) alone]
  refine (progressDone_reports (d := { d with role := { d.role with col := col }, job := { d.job with localDone := true } })
    serves flies rfl good going outside alone member unsent).trans ?_
  exact sendParticle_leaves (mirrors_unpaired (d := { d with role := _, job := _ }) alone)

/-- Settles O45: a member whose work is done reports it to member 0. -/
theorem localDoneReports : Obligations.LocalDoneReports := by
  intro s page serves flies good working going unsent outside done sole own alone member none'
  obtain ⟨col, drawn, written, ran⟩ := devLocalDone_reports (d := entry s) (page := page) serves flies good working going unsent
    outside done sole own alone member none'
  exact ⟨_, lift_of_eq ran, rfl, rfl, rfl, drawn, written, rfl, rfl⟩

end Sys2Proof.Machine
end

section
/-!
PROOF. STEP_ABORT, STEP_WANT and the waits of a partition (R35, R37, R408, R410).
-/
namespace Sys2Proof.Machine

variable {d : Device}

/-! ### What has been sent stays sent -/

/-- From `a` to `b` no emission is lost. -/
def Adds (a b : Device) : Prop := ∀ e ∈ a.out, e ∈ b.out

theorem Adds.refl (d : Device) : Adds d d := fun _ mem => mem

theorem Adds.trans {a b c : Device} (h : Adds a b) (k : Adds b c) : Adds a c := fun e mem => k e (h e mem)

theorem adds_of_append {a b : Device} {es : List Emission} (out : b.out = a.out ++ es) : Adds a b := fun _ mem => by
  rw [out]
  exact List.mem_append_left _ mem

theorem adds_of_out {a b : Device} (out : b.out = a.out) : Adds a b := fun _ mem => out ▸ mem

theorem adds_foldl {α : Type} {f : Device → α → Device} (step : ∀ d x, Adds d (f d x)) (xs : List α) (d : Device) :
    Adds d (xs.foldl f d) := by
  induction xs generalizing d with
  | nil => exact .refl d
  | cons x xs ih => exact (step d x).trans (ih _)

theorem adds_serveLoop (fuel port : Nat) (r : PortRun) (d : Device) : Adds d (serveLoop fuel port r d) := by
  induction fuel generalizing r d with
  | zero => exact .refl d
  | succ fuel ih =>
    simp only [serveLoop]
    split
    · split
      · exact (adds_of_append rfl).trans (ih _ _)
      · exact ih _ _
    · split
      · exact Adds.trans (b := takeChunk _ _ d) (adds_of_out rfl) (ih _ _)
      · split
        · exact adds_of_out rfl
        · exact ih _ _

theorem adds_serve (d : Device) : Adds d (serve d) := by
  have port (d : Device) (p : Nat) : Adds d (servePort d p) := by
    simp only [servePort]
    split
    · exact .refl d
    · exact adds_serveLoop _ _ _ _
  unfold serve
  split
  · exact .refl d
  · exact adds_foldl port _ d

theorem adds_msix (v : Nat) (d : Device) : Adds d (msix v d) := by
  have out := msix_out v d
  split at out
  · exact adds_of_append out
  · exact adds_of_out out

theorem adds_postEvent (k : EventKind) (level block cell step info : Nat) (d : Device) :
    Adds d (postEvent k level block cell step info d) := by
  have pushed : (pushPacket 128 (eventWords d k level block cell step info) d).out = d.out := by rw [pushPacket_eq]
  unfold postEvent
  dsimp only
  split
  · exact (adds_of_out pushed).trans (adds_msix _ _)
  · exact adds_of_out pushed

/-! ### Particles that leave -/

/-- From `a` to `b` nothing has changed but the particles that have left. -/
def Particles (a b : Device) : Prop := b = { a with
  out := b.out, fab := { a.fab with particles := b.fab.particles, nextId := b.fab.nextId } }

theorem Particles.trans {a b c : Device} (h : Particles a b) (k : Particles b c) : Particles a c := by
  unfold Particles at *
  rw [k, h]

theorem particles_sendParticle (node : Nat) (p : Particle) (d : Device) : Particles d (sendParticle node p d) := by
  unfold sendParticle
  split <;> rfl

theorem adds_sendParticle (node : Nat) (p : Particle) (d : Device) : Adds d (sendParticle node p d) := by
  unfold sendParticle
  split
  · exact .refl d
  · exact adds_of_append rfl

theorem particles_foldl {α : Type} {f : Device → α → Device} (step : ∀ d x, Particles d (f d x)) (xs : List α) (d : Device) :
    Particles d (xs.foldl f d) := by
  induction xs generalizing d with
  | nil => rfl
  | cons x xs ih => exact (step d x).trans (ih _)

theorem particles_sendMembers (p : Particle) (d : Device) : Particles d (sendMembers p d) :=
  particles_foldl (fun _ _ => particles_sendParticle ..) _ d

theorem Particles.job {a b : Device} (h : Particles a b) : b.job = a.job := by rw [h]
theorem Particles.mem {a b : Device} (h : Particles a b) : b.mem = a.mem := by rw [h]
theorem Particles.role {a b : Device} (h : Particles a b) : b.role = a.role := by rw [h]
theorem Particles.work {a b : Device} (h : Particles a b) : b.work = a.work := by rw [h]
theorem Particles.entries {a b : Device} (h : Particles a b) : b.fab.entries = a.fab.entries := by rw [h]
theorem Particles.onTaken {a b : Device} (h : Particles a b) : b.onTaken = a.onTaken := by rw [h]

theorem deviceEvent_job (k : EventKind) (step info : Nat) (d : Device) : (deviceEvent k step info d).job = d.job := by
  rw [deviceEvent_eq]
theorem deviceEvent_mem (k : EventKind) (step info : Nat) (d : Device) : (deviceEvent k step info d).mem = d.mem := by
  rw [deviceEvent_eq]
theorem deviceEvent_role (k : EventKind) (step info : Nat) (d : Device) : (deviceEvent k step info d).role = d.role := by
  rw [deviceEvent_eq]
theorem deviceEvent_work (k : EventKind) (step info : Nat) (d : Device) : (deviceEvent k step info d).work = d.work := by
  rw [deviceEvent_eq]
theorem deviceEvent_fab (k : EventKind) (step info : Nat) (d : Device) : (deviceEvent k step info d).fab = d.fab := by
  rw [deviceEvent_eq]
theorem deviceEvent_twin (k : EventKind) (step info : Nat) (d : Device) : (deviceEvent k step info d).twin = d.twin := by
  rw [deviceEvent_eq]
theorem deviceEvent_regs (k : EventKind) (step info : Nat) (d : Device) : (deviceEvent k step info d).regs = d.regs := by
  rw [deviceEvent_eq]

/-! ### STEP_WANT again -/

theorem devStepWantRepeat_sends (wants : wantsStep d = true) : devStepWantRepeat d =
    { d with
      job := { d.job with wantSent := true }
      out := d.out ++ [.particle d.fab.up (partitionNode d 0) (stepParticle d typeWant 0 d.job.number)]
      fab := withParticle d (partitionNode d 0) (stepParticle d typeWant 0 d.job.number) } := by
  have follows : mirrors d = false := by
    simp only [wantsStep, Bool.and_eq_true, Bool.not_eq_true'] at wants
    exact wants.1.2
  have again : wantsStep { d with job := { d.job with wantSent := false } } = true := wants
  rw [devStepWantRepeat, if_pos wants, sendWant, if_pos (by simp [again])]
  exact sendParticle_leaves (d := { d with job := _ }) follows

/-! ### A step that is discarded -/

/-- The partition after a step is discarded: the work is gone, the next generation is adopted, no unit is to be fenced (R408). -/
def abandoned (gen : Nat) (d : Device) : Device :=
  let e := adoptGen gen (discardStep d)
  { e with job := { e.job with named := [], halted := false } }

theorem itemTwo_restarts {gen : Nat} (own : d.onTaken = false) (named : d.job.named = []) (agreed : d.job.agreement = false)
    (lives : d.job.fatal = false) :
    itemTwo gen d = (true, deviceEvent .restart d.job.number (stepBefore d.job.number) (abandoned gen d)) := by
  have fences : applyFences (adoptGen gen (discardStep d)) =
      { adoptGen gen (discardStep d) with job := { (adoptGen gen (discardStep d)).job with named := [] } } := by
    have none' : (adoptGen gen (discardStep d)).job.named = [] := by
      rw [discardStep, toOwn_own own]
      exact named
    rw [applyFences, none']
    rfl
  have fatal : (adoptGen gen (discardStep d)).job.fatal = false := by
    rw [discardStep, toOwn_own own]
    exact lives
  have number : (adoptGen gen (discardStep d)).job.number = d.job.number := by
    rw [discardStep, toOwn_own own]
    rfl
  rw [itemTwo]
  dsimp only
  rw [fences, if_neg (show ¬ (adoptGen gen (discardStep d)).job.fatal = true by rw [fatal]; decide), if_neg (by rw [agreed]; decide)]
  exact congrArg (fun n => (true, deviceEvent .restart n (stepBefore n) (abandoned gen d))) number

theorem regen_reqs (g : Nat) (r : Role) : (regen g r).reqs = r.reqs := by
  unfold regen
  split <;> rfl

theorem regen_group (g : Nat) (r : Role) :
    Tab.find (regen g r).groups 0 = (Tab.find r.groups 0).map fun x => { x with gen := g } := by
  unfold regen
  split
  next x found =>
    rw [found]
    exact find_put_self ..
  next none' => exact none'.trans (congrArg (Option.map _) none').symm

/-- What discarding a step leaves (R408). -/
theorem abandoned_leaves {gen : Nat} (own : d.onTaken = false) :
    let e := abandoned gen d
    e.job.inFlight = false ∧ e.job.gen = gen ∧ e.job.number = d.job.number ∧ e.job.halted = false ∧
      e.job.restarts = d.job.restarts ∧ e.work.issue = none ∧ e.fab.entries = [] ∧ e.mem = d.mem ∧ e.role.reqs = d.role.reqs := by
  rw [abandoned, discardStep, toOwn_own own]
  refine ⟨rfl, rfl, rfl, rfl, rfl, rfl, rfl, rfl, ?_⟩
  exact regen_reqs ..

theorem groupOf_abandoned {gen : Nat} (own : d.onTaken = false) :
    groupOf (abandoned gen d) 0 = (groupOf d 0).map fun x => { x with gen := gen } := by
  rw [abandoned, discardStep, toOwn_own own]
  exact regen_group ..

theorem myRank_abandoned {gen : Nat} (own : d.onTaken = false) : myRank (abandoned gen d) = myRank d := by
  rw [myRank, groupOf_abandoned own, Option.map_map]
  rfl

theorem partitionNode_abandoned {gen : Nat} (own : d.onTaken = false) (r : Nat) :
    partitionNode (abandoned gen d) r = partitionNode d r := by
  have node : nodeId (abandoned gen d) = nodeId d := by
    rw [abandoned, discardStep, toOwn_own own]
    rfl
  rw [partitionNode, groupOf_abandoned own, Option.map_map, node]
  rfl

/-! ### A member's step is aborted -/

/-- STEP_DONE that says that a member is ready for a step again (R408). -/
def readyParticle (gen : Nat) (d : Device) : Particle :=
  { type := 0x02, status := 0, group := 0, gen := gen, step := stepBefore d.job.number, sender := myRank d, entry := 0 }

/-- A member that resumes sends ready. -/
theorem sendReady_member {e : Device} (alone : e.twin.state = .unpaired) (follows : mirrors e = false) : sendReady e = { e with
    out := e.out ++ [.particle e.fab.up (partitionNode e 0) (readyParticle e.job.gen e)]
    fab := withParticle e (partitionNode e 0) (readyParticle e.job.gen e) } := by
  have ranks : servedRanks e = [myRank e] := if_neg (by simp [alone])
  rw [sendReady, ranks]
  exact sendParticle_leaves follows

theorem sendWant_leaves (d : Device) : (sendWant d).job = { d.job with wantSent := (sendWant d).job.wantSent } ∧ Adds d (sendWant d) ∧
    (sendWant d).mem = d.mem ∧ (sendWant d).role = d.role ∧ (sendWant d).work = d.work ∧
    (sendWant d).fab.entries = d.fab.entries := by
  unfold sendWant
  split
  · have sent := particles_sendParticle (partitionNode d 0) (stepParticle d typeWant 0 d.job.number)
      { d with job := { d.job with wantSent := true } }
    refine ⟨?_, ?_, sent.mem, sent.role, sent.work, sent.entries⟩
    · rw [sent.job]
    · exact Adds.trans (b := { d with job := { d.job with wantSent := true } }) (adds_of_out rfl) (adds_sendParticle _ _ _)
  · exact ⟨rfl, .refl d, rfl, rfl, rfl, rfl⟩

/-- A member discards its step, adopts the generation and sends ready (R408). -/
theorem resumeJob_member {gen : Nat} (own : d.onTaken = false) (named : d.job.named = []) (agreed : d.job.agreement = false)
    (lives : d.job.fatal = false) (alone : d.twin.state = .unpaired) (member : isLead d = false) :
    let t := resumeJob gen d
    t.job.inFlight = false ∧ t.job.gen = gen ∧ t.job.number = d.job.number ∧ t.job.doneSent = true ∧ t.work.issue = none ∧
      t.fab.entries = [] ∧ t.mem = d.mem ∧ t.role.reqs = d.role.reqs ∧
      .particle d.fab.up (partitionNode d 0) (readyParticle gen d) ∈ t.out := by
  have restarts := itemTwo_restarts (gen := gen) own named agreed lives
  obtain ⟨flies, gen', number, halted, -, issue, entries, mem, reqs⟩ := abandoned_leaves (gen := gen) own
  have rank := myRank_abandoned (gen := gen) own
  have node := partitionNode_abandoned (gen := gen) own 0
  have up : (abandoned gen d).fab.up = d.fab.up := by
    rw [abandoned, discardStep, toOwn_own own]
    rfl
  have twin : (abandoned gen d).twin.state = .unpaired := by
    rw [abandoned, discardStep, toOwn_own own]
    exact alone
  have event := deviceEvent_eq .restart d.job.number (stepBefore d.job.number) (abandoned gen d)
  generalize deviceEvent .restart d.job.number (stepBefore d.job.number) (abandoned gen d) = e at restarts event
  generalize abandoned gen d = a at *
  have job : e.job = a.job := by rw [event]
  have rank' : myRank e = myRank d := by
    rw [← rank, event]
    rfl
  have node' : partitionNode e 0 = partitionNode d 0 := by
    rw [← node, event]
    rfl
  have up' : e.fab.up = d.fab.up := by rw [← up, event]
  have twin' : e.twin.state = .unpaired := by rw [event]; exact twin
  have lead : isLead e = false := by
    have ranks : servedRanks e = [myRank e] := if_neg (by simp [twin'])
    have ranks' : servedRanks d = [myRank d] := if_neg (by simp [alone])
    rw [isLead, ranks, rank', ← ranks']
    exact member
  have ready := sendReady_member twin' (mirrors_unpaired twin')
  have resumes : resumeJob gen d = serve { sendReady e with job := { (sendReady e).job with doneSent := true } } := by
    rw [resumeJob, restarts]
    dsimp only
    rw [if_neg (by decide), if_neg (by simp [lead])]
  dsimp only
  rw [resumes, serve_job, serve_work, serve_fab_entries, serve_mem, serve_role, ready]
  refine ⟨(congrArg Job.inFlight job).trans flies, (congrArg Job.gen job).trans gen', (congrArg Job.number job).trans number, rfl,
    ?_, ?_, ?_, ?_, adds_serve _ _ ?_⟩
  · rw [event]; exact issue
  · rw [event]; exact entries
  · rw [event]; exact mem
  · rw [event]; exact reqs
  · have same : readyParticle e.job.gen e = readyParticle gen d := by
      rw [readyParticle, readyParticle, rank', job, gen', number]
    rw [same, node', up']
    exact List.mem_append_right _ (List.mem_singleton.2 rfl)

theorem devStepAbort_member {pin : ParticleIn} {p : Particle} {page : Option Doorbell} (at' : StepAtMember d = true)
    (fresh : Fresh d pin p 0x03) (gen : p.gen = d.job.gen) (sender : p.sender = 0) (step : p.step = d.job.number) :
    devStepAbort pin page d = sendWant (resumeJob ((d.job.gen + 1) % 2 ^ 32) (received pin p d)) := by
  obtain ⟨serves, -, -, -, -, outside, member, alone, -, own⟩ := stepAtMember_iff.1 at'
  rw [devStepAbort, if_neg (by simp [serves])]
  refine (receiveParticle_acts (mirrors_unpaired alone) fresh (by simp [gen, member, sender, step])).trans ?_
  have lead : isLead (received pin p d) = false := member
  have inside : inBoundary (received pin p d) = false := outside
  rw [lead, if_neg Bool.false_ne_true, memberAbort, inside, if_neg Bool.false_ne_true, if_pos (show p.step = (received pin p d).job.number from step),
    toOwn_own (d := received pin p d) own]
  rfl

/-! ### Waits that expire -/

/-- A halt is told by its event (R410). -/
theorem haltMember_leaves (d : Device) :
    (haltMember d).job = { d.job with halted := true, haltGen := d.job.gen, awaitReady := false, ready := [], agreement := false } ∧
      (haltMember d).mem = d.mem ∧ (haltMember d).role = d.role ∧ Adds d (haltMember d) := by
  refine ⟨?_, deviceEvent_mem .., deviceEvent_role .., ?_⟩
  · rw [haltMember]
    dsimp only
    rw [deviceEvent_job]
  · exact adds_postEvent _ _ _ _ _ _ d

theorem devReadyWaitTimeout_halts (runs : fwRuns d = true) (going : d.job.halted = false) (lead : isLead d = true)
    (waits : d.job.awaitReady = true) : devReadyWaitTimeout d = haltMember d := if_neg (by simp [runs, going, lead, waits])

theorem devStepStartTimeout_halts (runs : fwRuns d = true) (going : d.job.halted = false) (member : isLead d = false)
    (flies : d.job.inFlight = true) (sent : d.job.doneSent = true) (unordered : d.job.startOrdered = false)
    (outside : inBoundary d = false) : devStepStartTimeout d =
      haltMember (sendParticle (partitionNode (deviceEvent .stepFault d.job.number 0 d) 0)
        (stepParticle (deviceEvent .stepFault d.job.number 0 d) typeAbort 0 d.job.number)
        (deviceEvent .stepFault d.job.number 0 d)) := by
  rw [devStepStartTimeout, if_neg (by simp [runs, going, member, sent, unordered, outside]), if_pos flies]

/-- What a missing STEP_START leaves at a member: STEP_ABORT has gone to member 0, and the member halts. -/
theorem stepStartTimeout_leaves (follows : mirrors d = false) :
    let e := deviceEvent .stepFault d.job.number 0 d
    let t := haltMember (sendParticle (partitionNode e 0) (stepParticle e typeAbort 0 d.job.number) e)
    t.job.halted = true ∧ t.job.number = d.job.number ∧ t.mem = d.mem ∧ t.role = d.role ∧
      .particle d.fab.up (partitionNode d 0) (stepParticle d typeAbort 0 d.job.number) ∈ t.out := by
  have event := deviceEvent_eq .stepFault d.job.number 0 d
  dsimp only
  generalize deviceEvent .stepFault d.job.number 0 d = e at event
  have job : e.job = d.job := by rw [event]
  have mem : e.mem = d.mem := by rw [event]
  have role : e.role = d.role := by rw [event]
  have node : partitionNode e 0 = partitionNode d 0 := by rw [event]; rfl
  have particle : stepParticle e typeAbort 0 d.job.number = stepParticle d typeAbort 0 d.job.number := by rw [event]; rfl
  have up : e.fab.up = d.fab.up := by rw [event]
  have follows' : mirrors e = false := by rw [event]; exact follows
  have sent := particles_sendParticle (partitionNode e 0) (stepParticle e typeAbort 0 d.job.number) e
  obtain ⟨job', mem', role', adds⟩ :=
    haltMember_leaves (sendParticle (partitionNode e 0) (stepParticle e typeAbort 0 d.job.number) e)
  refine ⟨by rw [job'], by rw [job', sent.job, job], mem'.trans (sent.mem.trans mem), role'.trans (sent.role.trans role), adds _ ?_⟩
  rw [sendParticle_leaves follows', node, particle, up]
  exact List.mem_append_right _ (List.mem_singleton.2 rfl)

/-- Member 0 waits until every rank is ready. -/
theorem tryReady_leaves (d : Device) : (tryReady d).job.inFlight = d.job.inFlight ∧ (tryReady d).job.gen = d.job.gen ∧
    (tryReady d).job.number = d.job.number ∧ (tryReady d).job.restarts = d.job.restarts ∧ (tryReady d).job.halted = d.job.halted ∧
    (tryReady d).work = d.work ∧ (tryReady d).mem = d.mem ∧ (tryReady d).role = d.role := by
  unfold tryReady
  split
  · dsimp only
    generalize stepParticle _ typeStart 0 _ = p
    have sent := particles_sendMembers { p with sender := 0 }
      { d with job := { d.job with awaitReady := false, ready := [], startOrdered := true } }
    rw [sent.job, sent.work, sent.mem, sent.role]
    exact ⟨rfl, rfl, rfl, rfl, rfl, rfl, rfl, rfl⟩
  · exact ⟨rfl, rfl, rfl, rfl, rfl, rfl, rfl, rfl⟩

/-- The number of a restart of the step after the last boundary (R409). -/
def restartNumber (d : Device) : Nat := (if d.job.restartFrom = stepBefore d.job.number then d.job.restarts else 0) + 1

/-- A job that restarts within the limit (R408). -/
theorem restartBegin_restarts (own : d.onTaken = false) (named : d.job.named = []) (agreed : d.job.agreement = false)
    (lives : d.job.fatal = false) (few : restartNumber d ≤ regField d .cfgRestart 0 8) :
    let t := restartBegin d
    t.job.inFlight = false ∧ t.job.gen = (d.job.gen + 1) % 2 ^ 32 ∧ t.job.number = d.job.number ∧
      t.job.restarts = restartNumber d ∧ t.job.halted = false ∧ t.work.issue = none ∧ t.mem = d.mem ∧ t.role.reqs = d.role.reqs := by
  have sent := particles_sendMembers { stepParticle d typeAbort 0 d.job.number with sender := 0 } d
  generalize begun : sendMembers { stepParticle d typeAbort 0 d.job.number with sender := 0 } d = m at sent
  let x : Device := { m with job := { m.job with restarts := restartNumber d, restartFrom := stepBefore d.job.number } }
  have own' : x.onTaken = false := sent.onTaken.trans own
  have restarts := itemTwo_restarts (d := x) (gen := (m.job.gen + 1) % 2 ^ 32) own' ((congrArg Job.named sent.job).trans named)
    ((congrArg Job.agreement sent.job).trans agreed) ((congrArg Job.fatal sent.job).trans lives)
  obtain ⟨flies, gen, number, halted, count, issue, -, mem, reqs⟩ := abandoned_leaves (d := x) (gen := (m.job.gen + 1) % 2 ^ 32) own'
  have event := deviceEvent_eq .restart x.job.number (stepBefore x.job.number) (abandoned ((m.job.gen + 1) % 2 ^ 32) x)
  have runs : restartBegin d = serve (tryReady { (itemTwo ((m.job.gen + 1) % 2 ^ 32) x).2 with
      job := { (itemTwo ((m.job.gen + 1) % 2 ^ 32) x).2.job with
        awaitReady := true, ready := servedRanks (itemTwo ((m.job.gen + 1) % 2 ^ 32) x).2 } }) := by
    rw [restartBegin]
    refine (if_neg (Nat.not_lt.2 few)).trans ?_
    rw [begun]
    exact if_pos (congrArg Prod.fst restarts)
  rw [restarts] at runs
  dsimp only at runs ⊢
  generalize deviceEvent .restart x.job.number (stepBefore x.job.number) (abandoned ((m.job.gen + 1) % 2 ^ 32) x) = e at runs event
  generalize abandoned ((m.job.gen + 1) % 2 ^ 32) x = a at *
  have job : e.job = a.job := by rw [event]
  obtain ⟨flies', gen', number', count', halted', work', mem', role'⟩ :=
    tryReady_leaves { e with job := { e.job with awaitReady := true, ready := servedRanks e } }
  rw [runs, serve_job, serve_work, serve_mem, serve_role, flies', gen', number', count', halted', work', mem', role']
  refine ⟨(congrArg Job.inFlight job).trans flies, ?_, ?_, (congrArg Job.restarts job).trans count,
    (congrArg Job.halted job).trans halted, ?_, ?_, ?_⟩
  · exact (congrArg Job.gen job).trans (gen.trans (congrArg (fun j : Job => (j.gen + 1) % 2 ^ 32) sent.job))
  · exact (congrArg Job.number job).trans (number.trans (show m.job.number = d.job.number from congrArg Job.number sent.job))
  · rw [event]; exact issue
  · rw [event]; exact mem.trans sent.mem
  · rw [event]; exact reqs.trans (congrArg Role.reqs sent.role)

/-- A fault of the step in flight at member 0 restarts the job (R408). -/
theorem faultStep_lead (lives : d.job.fatal = false) (going : d.job.halted = false) (flies : d.job.inFlight = true)
    (outside : inBoundary d = false) (own : d.onTaken = false) (lead : isLead d = true) :
    faultStep d = restartBegin { d with job := { d.job with faulted := true } } := by
  have now : faultStep d = faultNow d := if_neg (by simp [outside])
  have lead' : isLead { d with job := { d.job with faulted := true } } = true := lead
  rw [now, faultNow, if_neg (by simp [lives, going]), if_neg (by simp [flies])]
  dsimp only
  rw [toOwn_own own, if_pos lead']

theorem lives_of_fwRuns (runs : fwRuns d = true) : d.job.fatal = false := by
  simp only [fwRuns, Bool.and_eq_true, Bool.not_eq_true'] at runs
  exact runs.2

/-- A STEP_DONE that is missing at member 0 faults its step, and the job restarts (R37, R408). -/
theorem devStepDoneTimeout_restarts (runs : fwRuns d = true) (going : d.job.halted = false) (lead : isLead d = true)
    (flies : d.job.inFlight = true) (done : d.job.localDone = true) (outside : inBoundary d = false) (own : d.onTaken = false) :
    devStepDoneTimeout d = restartBegin { deviceEvent .stepFault d.job.number 0 d with
      job := { (deviceEvent .stepFault d.job.number 0 d).job with
        named := (deviceEvent .stepFault d.job.number 0 d).job.named ++ [], faulted := true } } := by
  have lives := lives_of_fwRuns runs
  have event := deviceEvent_eq .stepFault d.job.number 0 d
  rw [devStepDoneTimeout, if_neg (by simp [runs, going, lead, flies, done, outside])]
  rw [show stepFault 0 d = faultStep { deviceEvent .stepFault d.job.number 0 d with job :=
    { (deviceEvent .stepFault d.job.number 0 d).job with named := if stepTouched (deviceEvent .stepFault d.job.number 0 d) then
      (deviceEvent .stepFault d.job.number 0 d).job.named ++ [] else (deviceEvent .stepFault d.job.number 0 d).job.named } } from rfl]
  generalize deviceEvent .stepFault d.job.number 0 d = e at event ⊢
  have job : e.job = d.job := by rw [event]
  have bnd : e.bnd = d.bnd := by rw [event]
  have lead' : isLead e = true := by rw [event]; exact lead
  have own' : e.onTaken = false := by rw [event]; exact own
  have inside : inBoundary e = false := by rw [inBoundary, bnd]; exact outside
  have touched : stepTouched e = true := by simp [stepTouched, job, flies]
  rw [touched, if_pos rfl]
  exact faultStep_lead (d := { e with job := { e.job with named := e.job.named ++ [] } })
    ((congrArg Job.fatal job).trans lives) ((congrArg Job.halted job).trans going) ((congrArg Job.inFlight job).trans flies)
    inside own' lead'

/-- Settles O49: a step that is aborted or missed is discarded, restarted or halts its member. -/
theorem membersFollowAndWaitsExpire : Obligations.MembersFollowAndWaitsExpire := by
  refine ⟨⟨fun s pin p page at' fresh gen sender step named agreed => ?_, fun s wants => ?_⟩,
    fun s runs going lead flies done outside own fabric named agreed => fun few => ?_, fun s runs going lead waits => ?_,
    fun s runs going member flies sent unordered outside fabric follows => ?_⟩
  · have acts := devStepAbort_member (d := entry s) (page := page) at' fresh gen sender step
    obtain ⟨serves, -, -, -, -, -, member, alone, -, own⟩ := stepAtMember_iff.1 at'
    obtain ⟨flies', gen', number, done, issue, entries, mem, reqs, ready⟩ := resumeJob_member (d := received pin p (entry s))
      (gen := (s.dev.job.gen + 1) % 2 ^ 32) own named agreed (serving_iff.1 serves).2.2.1 alone member
    refine ⟨_, lift_of_eq (d' := sendWant (resumeJob ((s.dev.job.gen + 1) % 2 ^ 32) (received pin p (entry s)))) acts, ?_⟩
    obtain ⟨job, adds, mem', role', work', entries'⟩ := sendWant_leaves (resumeJob ((s.dev.job.gen + 1) % 2 ^ 32) (received pin p (entry s)))
    generalize resumeJob ((s.dev.job.gen + 1) % 2 ^ 32) (received pin p (entry s)) = r at *
    dsimp only
    refine ⟨?_, ?_, ?_, ?_, ?_, ?_, ?_, ?_, adds _ ready⟩
    · rw [job]; exact flies'
    · rw [job]; exact gen'
    · rw [job]; exact number
    · rw [job]; exact done
    · rw [work']; exact issue
    · rw [entries']; exact entries
    · rw [mem']; exact mem
    · rw [role']; exact reqs
  · exact ⟨_, lift_of_eq (devStepWantRepeat_sends (d := entry s) wants), rfl, rfl, rfl⟩
  · refine ⟨_, lift_of_eq (devStepDoneTimeout_restarts (d := entry s) runs going lead flies done outside own), ?_⟩
    have event := deviceEvent_eq .stepFault (entry s).job.number 0 (entry s)
    generalize deviceEvent .stepFault (entry s).job.number 0 (entry s) = e at event ⊢
    have job : e.job = s.dev.job := by rw [event]; rfl
    have own' : e.onTaken = false := by rw [event]; exact own
    have same : restartNumber { e with job := { e.job with named := e.job.named ++ [], faulted := true } } =
        restartNumber s.dev := by rw [restartNumber, job]; rfl
    have limit : regField e .cfgRestart 0 8 = regField s.dev .cfgRestart 0 8 := by rw [event]; rfl
    obtain ⟨flies', gen, number, restarts, halted, issue, mem, reqs⟩ :=
      restartBegin_restarts (d := { e with job := { e.job with named := e.job.named ++ [], faulted := true } }) own'
        (by rw [job, named]; rfl) ((congrArg Job.agreement job).trans agreed)
        ((congrArg Job.fatal job).trans (lives_of_fwRuns runs)) (by rw [same]; exact Nat.le_trans few (Nat.le_of_eq limit.symm))
    refine ⟨flies', ?_, ?_, restarts.trans same, halted, issue, ?_, ?_⟩
    · exact gen.trans (show (e.job.gen + 1) % 2 ^ 32 = _ by rw [job])
    · exact number.trans (show e.job.number = _ by rw [job])
    · exact mem.trans (by rw [event]; rfl)
    · exact reqs.trans (by rw [event]; rfl)
  · obtain ⟨job, mem, role, -⟩ := haltMember_leaves (entry s)
    refine ⟨_, lift_of_eq (devReadyWaitTimeout_halts (d := entry s) runs going lead waits), ?_, ?_, ?_, ?_, mem, role⟩ <;> rw [job] <;> rfl
  · exact ⟨_, lift_of_eq (devStepStartTimeout_halts (d := entry s) runs going member flies sent unordered outside),
      stepStartTimeout_leaves (d := entry s) follows⟩

end Sys2Proof.Machine
end

section
/-!
PROOF. Descriptors that are fetched, and QUERY (R353, R355, R361, R369).
-/
namespace Sys2Proof.Machine

variable {d : Device} {f : Fetched}

/-! ### A fetch -/

/-- A device when a fetch has completed, before the descriptor is taken (R353). -/
def fetchedDev (f : Fetched) (d : Device) : Device := { d with out := d.out ++ fetchStatus d f, hif := fetchedHif d f }

theorem fetchDone_takes (index : f.index = nextIndex d f.ring) : fetchDone f d = takeFetched f (fetchedDev f d) := by
  rw [fetchDone, fetchedDev, fetchStatus, fetchedHif, index]
  rfl

theorem devDescriptor_takes {op : Nat} (comes : Comes d f) (opcode : opcodeOf f = op) :
    devDescriptor op f d = takeFetched f (fetchedDev f d) := by
  obtain ⟨fetches', index⟩ := comes
  rw [devDescriptor, if_neg (by simp [fetches', index, opcode]), fetchDone_takes index]

/-- From `a` to `b` nothing has changed but what a step in flight keeps, and what it sends. -/
def Worked (a b : Device) : Prop := b = { a with
  freeCtr := b.freeCtr, mem := { a.mem with bytes := b.mem.bytes }, work := b.work
  fab := { a.fab with entries := b.fab.entries, chunks := b.fab.chunks } }

theorem Worked.trans {a b c : Device} (h : Worked a b) (k : Worked b c) : Worked a c := by
  unfold Worked at *
  rw [k, h]

theorem worked_foldl {α : Type} {f : Device → α → Device} (step : ∀ d x, Worked d (f d x)) (xs : List α) (d : Device) :
    Worked d (xs.foldl f d) := by
  induction xs generalizing d with
  | nil => exact rfl
  | cons x xs ih => exact (step d x).trans (ih _)

theorem worked_freeChunk (id : Nat) (t : TxChunk) (d : Device) : Worked d (freeChunk id t d) := by
  unfold freeChunk
  split <;> rfl

theorem worked_freeFabric (d : Device) : Worked d (freeFabric d) := by
  have entries := worked_foldl (f := fun d (x : Nat × EntryRun) => freeEntry x.1 x.2 d) (fun _ _ => rfl) d.fab.entries d
  unfold freeFabric
  dsimp only
  generalize d.fab.entries.foldl _ d = e at entries ⊢
  have chunks := worked_foldl (f := fun d (x : Nat × TxChunk) => freeChunk x.1 x.2 d) (fun d x => worked_freeChunk x.1 x.2 d)
    e.fab.chunks e
  generalize e.fab.chunks.foldl _ e = g at chunks ⊢
  exact (entries.trans chunks).trans rfl

theorem worked_freeSpans (ss : List (Nat × Nat)) (d : Device) : Worked d (freeSpans ss d) := by
  unfold freeSpans
  refine worked_foldl (fun _ _ => ?_) ss d
  exact rfl

theorem worked_freeResults (d : Device) : Worked d (freeResults d) := by
  unfold freeResults
  dsimp only
  generalize d.work.past ++ _ = ss
  have all := (worked_freeSpans ss d).trans (worked_freeFabric _)
  generalize freeFabric (freeSpans ss d) = e at all ⊢
  exact all.trans rfl

theorem worked_noteRaced (a n : Nat) (d : Device) : Worked d (noteRaced a n d) := by
  unfold noteRaced
  split
  · exact rfl
  · dsimp only
    split
    · exact Worked.trans (b := { d with work := _ }) rfl (worked_freeResults _)
    · exact rfl

/-- A copy beside which no step reads changes no memory before it is made. -/
theorem noteRaced_mem {a n : Nat} (apart : d.job.inFlight = false ∨ meetsSpans d.work.read a n = false) :
    (noteRaced a n d).mem = d.mem := by
  unfold noteRaced
  rcases apart with flies | apart
  · rw [if_pos (by simp [flies])]
  · split
    · rfl
    · dsimp only
      rw [if_neg (by simp [apart])]

/-! ### The copy of a load -/

/-- What a load copies when it is fetched: its place and its bytes. -/
def loadOf (d : Device) (f : Fetched) : Option (Nat × List Byte) :=
  if (opcodeOf f = 0x01 ∨ opcodeOf f = 0x02) ∧ descOk d f = true then f.blockA.map (descField f.desc 24 0 48, ·) else none

/-- A load's bytes are in memory, and what the words met is told. -/
def copyLoad (a : Nat) (bs : List Byte) (d : Device) : Device :=
  copyEvents (writeRange d.mem a bs).2 { d with
    mem := (writeRange d.mem a bs).1
    work := if d.job.inFlight then { d.work with copied := (a, bs.length) :: d.work.copied } else d.work }

theorem fetchCopy_eq (f : Fetched) (d : Device) : fetchCopy f d =
    match loadOf d f with
    | some (a, bs) => copyLoad a bs (noteRaced a bs.length d)
    | none => d := by
  unfold fetchCopy loadOf
  dsimp only
  split
  next load =>
    rw [if_pos (by simpa using load)]
    cases f.blockA with
    | none => rfl
    | some bs => rfl
  next load =>
    rw [if_neg (by simpa using load)]

theorem copyLoad_clean {a : Nat} {bs : List Byte} (clean : ErrorFree d) : copyLoad a bs d = { d with
    mem := { d.mem with bytes := writeBytes d.mem.bytes a bs }
    work := if d.job.inFlight then { d.work with copied := (a, bs.length) :: d.work.copied } else d.work } := by
  rw [copyLoad, writeRange_clean d.mem a bs clean.1 clean.2]
  rfl

/-- From `a` to `b` nothing has changed but what memory errors report, and the words that are lost. -/
def Lost (a b : Device) : Prop := b = { a with
  errs := b.errs, job := { a.job with lost := b.job.lost }, queues := b.queues, slabs := b.slabs, out := b.out, pcie := b.pcie }

theorem Lost.trans {a b c : Device} (h : Lost a b) (k : Lost b c) : Lost a c := by
  unfold Lost at *
  rw [k, h]

theorem lost_noteCorrected (w : Nat) (d : Device) : Lost d (noteCorrected w d) := by
  unfold Lost noteCorrected countCorrected
  dsimp only
  rw [postEvent_eq]

theorem lost_copyEvents (es : List MemEvent) (d : Device) : Lost d (copyEvents es d) := by
  unfold copyEvents eachEvent
  dsimp only
  generalize List.filter _ es ++ _ = xs
  induction xs generalizing d with
  | nil => exact rfl
  | cons x xs ih =>
    rw [List.foldl_cons]
    refine Lost.trans ?_ (ih _)
    cases x with
    | corrected w => exact lost_noteCorrected w d
    | stackCorrected w => unfold countOdecc; dsimp only; split <;> rfl
    | uncorrectable w stack => exact rfl

/-- A load's copy leaves the host interface, the requests and what has been loaded as they are. -/
theorem fetchCopy_keeps (f : Fetched) (d : Device) : (fetchCopy f d).hif = d.hif ∧ (fetchCopy f d).role = d.role ∧
    (fetchCopy f d).loaded = d.loaded := by
  rw [fetchCopy_eq]
  split
  next a bs load =>
    have raced := worked_noteRaced a bs.length d
    generalize noteRaced a bs.length d = e at raced ⊢
    unfold copyLoad
    generalize (if e.job.inFlight then { e.work with copied := (a, bs.length) :: e.work.copied } else e.work) = w
    have lost := lost_copyEvents (writeRange e.mem a bs).2 { e with mem := (writeRange e.mem a bs).1, work := w }
    generalize copyEvents _ _ = t at lost ⊢
    rw [lost, raced]
    exact ⟨rfl, rfl, rfl⟩
  next => exact ⟨rfl, rfl, rfl⟩

/-- In memory without errors a load's copy changes the step's work and memory alone. -/
theorem worked_fetchCopy (f : Fetched) (clean : ErrorFree d) : Worked d (fetchCopy f d) := by
  rw [fetchCopy_eq]
  split
  next a bs load =>
    have raced := worked_noteRaced a bs.length d
    generalize noteRaced a bs.length d = e at raced ⊢
    have clean' : ErrorFree e := by rw [raced]; exact clean
    rw [copyLoad_clean clean']
    exact raced.trans rfl
  next => exact rfl

/-- Only a load makes a copy. -/
theorem fetchCopy_none (other : ¬ ((opcodeOf f = 0x01 ∨ opcodeOf f = 0x02) ∧ descOk d f = true)) : fetchCopy f d = d := by
  rw [fetchCopy_eq, loadOf, if_neg other]

theorem fetchCopy_mem {bs : List Byte} (load : opcodeOf f = 0x01 ∨ opcodeOf f = 0x02) (ok : descOk d f = true)
    (bytes : f.blockA = some bs) (clean : ErrorFree d)
    (apart : d.job.inFlight = false ∨ meetsSpans d.work.read (descField f.desc 24 0 48) bs.length = false) :
    (fetchCopy f d).mem = { d.mem with bytes := writeBytes d.mem.bytes (descField f.desc 24 0 48) bs } := by
  have mem := noteRaced_mem (d := d) apart
  rw [fetchCopy_eq, loadOf, if_pos ⟨load, ok⟩, bytes]
  dsimp only [Option.map]
  generalize noteRaced _ bs.length d = e at mem ⊢
  rw [copyLoad_clean (by rw [ErrorFree, mem]; exact clean), mem]

/-! ### A descriptor joins those that wait -/

/-- A descriptor that is no QUERY, with its copy made, waits for its boundary. -/
def queuedDesc (f : Fetched) (d : Device) : Device :=
  { fetchCopy f d with hif := { (fetchCopy f d).hif with fetched := (fetchCopy f d).hif.fetched ++ [f] } }

theorem takeFetched_waits (other : opcodeOf f ≠ 0x60) : takeFetched f d = sendWant (queuedDesc f d) := by
  rw [takeFetched, if_neg other, queuedDesc]

theorem sendWant_told (told : tellsNone d = true) : sendWant d = d := by
  refine if_neg ?_
  simp only [tellsNone, Bool.or_eq_true] at told
  simp only [wantsStep, Bool.and_eq_true, Bool.not_eq_true']
  rintro ⟨⟨⟨⟨⟨⟨⟨⟨-, lead⟩, flies⟩, -⟩, halted⟩, -⟩, -⟩, -⟩, sent⟩
  simp [lead, flies, halted, sent] at told

theorem sendWant_tells (serves : serving d = true) (untold : tellsNone d = false) (outside : inBoundary d = false)
    (unordered : d.job.startOrdered = false) (follows : mirrors d = false) (waits : d.hif.fetched ≠ []) :
    sendWant d = { d with
      job := { d.job with wantSent := true }
      out := d.out ++ [.particle d.fab.up (partitionNode d 0) (stepParticle d typeWant 0 d.job.number)]
      fab := withParticle d (partitionNode d 0) (stepParticle d typeWant 0 d.job.number) } := by
  simp only [tellsNone, Bool.or_eq_false_iff] at untold
  obtain ⟨⟨⟨lead, flies⟩, halted⟩, sent⟩ := untold
  have pending : workPending d = true := by
    cases waiting : d.hif.fetched with
    | nil => exact absurd waiting waits
    | cons x xs => simp [workPending, waiting]
  rw [sendWant, if_pos (by simp [wantsStep, serves, lead, flies, unordered, halted, outside, follows, pending, sent])]
  exact sendParticle_leaves (d := { d with job := { d.job with wantSent := true } }) follows

theorem sendWant_keeps (d : Device) : (sendWant d).hif = d.hif ∧ (sendWant d).loaded = d.loaded ∧ (sendWant d).queues = d.queues := by
  unfold sendWant
  split
  · have sent := particles_sendParticle (partitionNode d 0) (stepParticle d typeWant 0 d.job.number)
      { d with job := { d.job with wantSent := true } }
    generalize sendParticle _ _ _ = t at sent ⊢
    rw [sent]
    exact ⟨rfl, rfl, rfl⟩
  · exact ⟨rfl, rfl, rfl⟩

theorem serving_of_fetches {r : Fin 64} (can : fetches d r = true) : serving d = true := by
  simp only [fetches, Bool.and_eq_true] at can
  exact can.1.1.1

theorem stopRing_fetches {r : Fin 64} (can : fetches d r = true) : stopRing r.val d =
    msix 0 { d with hif := { d.hif with sqErr := d.hif.sqErr ||| (1#64 <<< r.val) } } := by
  simp only [fetches, Bool.and_eq_true, Bool.not_eq_true'] at can
  exact if_neg (by rw [can.1.2]; decide)

theorem devDescriptorFetch_failed {r : Fin 64} (can : fetches d r = true) : devDescriptorFetch r .failed d =
    msix 0 { d with hif := { d.hif with sqErr := d.hif.sqErr ||| (1#64 <<< r.val) } } :=
  (if_neg (by simpa using can)).trans (stopRing_fetches can)

theorem devDescriptorFetch_got {r : Fin 64} {x : BitVec 512} {a b : Option (List Byte)} (can : fetches d r = true) :
    devDescriptorFetch r (.got x a b) d =
      fetchDone { ring := r, index := nextIndex d r, desc := x, blockA := a, blockB := b } d := if_neg (by simpa using can)

/-- Settles O30: a fetched descriptor joins those that wait. -/
theorem descriptorsFetched : Obligations.DescriptorsFetched := by
  refine fun s r can => ⟨lift_of_eq (d' := msix 0 { entry s with
    hif := { s.dev.hif with sqErr := s.dev.hif.sqErr ||| (1#64 <<< r.val) } }) ?_, fun x a b => ?_⟩
  · exact devDescriptorFetch_failed (d := entry s) can
  intro f other
  have takes : devDescriptorFetch r (.got x a b) (entry s) = sendWant (queuedDesc f (fetchedDev f (entry s))) :=
    (devDescriptorFetch_got (d := entry s) can).trans ((fetchDone_takes (d := entry s) (f := f) rfl).trans (takeFetched_waits other))
  refine ⟨_, lift_of_eq takes, rfl, ?_⟩
  obtain ⟨hif, role, loaded⟩ := fetchCopy_keeps f (fetchedDev f (entry s))
  obtain ⟨hif', loaded', queues'⟩ := sendWant_keeps (queuedDesc f (fetchedDev f (entry s)))
  obtain ⟨job', -, mem', role', -, -⟩ := sendWant_leaves (queuedDesc f (fetchedDev f (entry s)))
  refine ⟨?_, ?_, ?_, fun clean => ?_, fun none' => ?_, fun bs load ok bytes clean apart => ?_, fun clean => ?_⟩
  · refine hif'.trans ?_
    rw [queuedDesc, hif]
    rfl
  · exact role'.trans role
  · exact loaded'.trans loaded
  · refine queues'.trans ?_
    have worked := worked_fetchCopy (d := fetchedDev f (entry s)) f clean
    rw [queuedDesc, worked]
    rfl
  · refine mem'.trans ?_
    rw [queuedDesc, fetchCopy_none (d := fetchedDev f (entry s)) none']
    rfl
  · exact mem'.trans (fetchCopy_mem (d := fetchedDev f (entry s)) load ok bytes clean apart)
  · have worked := worked_fetchCopy (d := fetchedDev f (entry s)) f clean
    unfold queuedDesc at *
    generalize fetchCopy f (fetchedDev f (entry s)) = c at *
    have serves : serving s.dev = true := serving_of_fetches can
    refine ⟨fun told => ?_, fun untold outside unordered follows => ?_⟩
    · dsimp only
      rw [sendWant_told (by rw [worked]; exact told), worked]
      exact ⟨rfl, rfl⟩
    · dsimp only
      have tells := sendWant_tells (d := { c with hif := { c.hif with fetched := c.hif.fetched ++ [f] } })
        (by rw [worked]; exact serves) (by rw [worked]; exact untold) (by rw [worked]; exact outside)
        (by rw [worked]; exact unordered) (by rw [worked]; exact follows) (by simp)
      rw [tells, worked]
      exact ⟨rfl, rfl⟩

/-! ### QUERY -/

/-- A packet that finds room depends on its queue and the step number alone. -/
theorem pushPacket_queues {q : Nat} {ws : List W64} (room : queueFull d q = false) : (pushPacket q ws d).queues =
    (setQueue q (addWords (acceptFirst d.job.number (queueOf d q))
      ((ws.zip (List.range ws.length)).map fun p => queueWord p.1 (p.2 + 1 == ws.length) 0)) d).queues := by
  rw [pushPacket, if_neg (by simp [room])]

theorem flushList_room {q : Nat} {ws : List W64} {ps : List (Nat × List W64)} (room : queueFull d q = false) :
    flushList ((q, ws) :: ps) d = flushList ps (pushPacket q ws d) := by
  rw [flushList, if_neg (by simp [room])]

/-- A completion outside a boundary, with an enabled queue that has room, is in its queue at once (R366). -/
theorem complete_queues {cq code opcode kind xstatus handle : Nat} {tag : W64} {step result : Nat} (own : d.onTaken = false)
    (outside : inBoundary d = false) (none' : d.bnd.posting = []) (enabled : cqEnabled d cq = true)
    (room : queueFull d (64 + cq) = false) : (complete cq code opcode kind xstatus handle tag step result d).queues =
      (pushPacket (64 + cq) (completionWords code opcode kind xstatus handle tag step result) d).queues := by
  have shadow : shadowing d = false := by simp [shadowing, own]
  have idle : d.bnd.ops.isEmpty = true := by simpa [inBoundary] using outside
  have released : noteReleased (64 + cq) (completionWords code opcode kind xstatus handle tag step result) d = d :=
    if_pos (by simp [idle])
  rw [complete]
  dsimp only
  rw [shadow, if_neg Bool.false_ne_true, released, own, Bool.false_and, if_neg Bool.false_ne_true, cqFor, enabled, if_pos rfl,
    flushPosting, postPacket]
  dsimp only
  rw [none', List.nil_append]
  generalize completionWords code opcode kind xstatus handle tag step result = ws
  let e : Device := { d with bnd := { d.bnd with posting := [(64 + cq, ws)] } }
  have room' : queueFull e (64 + cq) = false := room
  rw [flushList_room (d := e) room', flushList]
  exact (pushPacket_queues room').trans (pushPacket_queues room).symm

/-- A QUERY that waits for the end of the boundary in progress (R369). -/
theorem takeFetched_queryWaits (query : opcodeOf f = 0x60) (inside : inBoundary d = true) :
    takeFetched f d = { d with hif := { d.hif with queries := d.hif.queries ++ [f] } } := by
  rw [takeFetched, if_pos query, if_pos inside]

theorem takeFetched_query (query : opcodeOf f = 0x60) (outside : inBoundary d = false) (alone : d.twin.state = .unpaired) :
    takeFetched f d = answerQuery f d := by
  rw [takeFetched, if_pos query, if_neg (by simp [outside]), forRing, if_neg (by simp [alone])]

/-- A firmware read of memory without errors changes nothing. -/
theorem firmwareRead_clean {a n : Nat} (clean : ErrorFree d) : firmwareRead a n d = d := by
  rw [firmwareRead, touchRange_clean d.mem a n clean.1 clean.2]
  rfl

theorem answerQuery_answers {bs : List Byte} (lives : d.job.fatal = false) (clean : ErrorFree d) (ok : descOk d f = true)
    (answer : queryAnswer d f = some bs) : answerQuery f d = completeDesc f codeOk (handleOf f) d.job.number bs.length
      (emit (.hostWrite (descField f.desc 24 0 64) bs) d) := by
  rw [answerQuery, if_neg (by simp [lives]), ok, if_pos rfl, answer]
  dsimp only
  cases queryReads d f with
  | none =>
    dsimp only
    rw [if_neg (by simp [lives])]
  | some r =>
    have same := firmwareRead_clean (a := r.1) (n := r.2) clean
    exact (if_neg (by simp [same, lives])).trans (congrArg (fun e => completeDesc f codeOk (handleOf f) d.job.number bs.length
      (emit (.hostWrite (descField f.desc 24 0 64) bs) e)) same)

theorem answerQuery_refuses (lives : d.job.fatal = false) (bad : descOk d f = false ∨ queryAnswer d f = none) :
    answerQuery f d = completeDesc f codeBad (handleOf f) d.job.number 0 d := by
  have none' : (if descOk d f then queryAnswer d f else none) = none := by
    rcases bad with bad | bad <;> simp [bad]
  rw [answerQuery, if_neg (by simp [lives]), none']

/-- Settles O31: QUERY is answered at once, refused, or waits for the boundary's end. -/
theorem queryAnswered : Obligations.QueryAnswered := by
  refine ⟨fun s f comes query inside => ?_, fun s f comes query alone own outside none' clean enabled room => ?_⟩
  · exact lift_of_eq ((devDescriptor_takes (d := entry s) comes query).trans
      (takeFetched_queryWaits (d := fetchedDev f (entry s)) query inside))
  intro record
  have lives : s.dev.job.fatal = false := (serving_iff.1 (serving_of_fetches comes.1)).2.2.1
  have takes : devDescriptor 0x60 f (entry s) = answerQuery f (fetchedDev f (entry s)) :=
    (devDescriptor_takes (d := entry s) comes query).trans
      (takeFetched_query (d := fetchedDev f (entry s)) query outside alone)
  refine ⟨fun bs ok answer => ?_, fun bad => ?_⟩
  · have answers := answerQuery_answers (d := fetchedDev f (entry s)) lives clean ok answer
    let e := emit (.hostWrite (descField f.desc 24 0 64) bs) (fetchedDev f (entry s))
    have queued := queued_complete (cqOf f) codeOk (opcodeOf f) 0 0 (handleOf f) (tagOf f) s.dev.job.number bs.length e
    have queues := complete_queues (d := e) (code := codeOk) (opcode := opcodeOf f) (kind := 0) (xstatus := 0)
      (handle := handleOf f) (tag := tagOf f) (step := s.dev.job.number) (result := bs.length) own outside none' enabled room
    refine ⟨_, lift_of_eq (takes.trans answers), queued.out, queued.hif, ?_, queued.role, queued.mem, queued.job⟩
    refine queues.trans ?_
    rw [query, pushPacket_queues (d := e) room, pushPacket_queues (d := s.dev) room]
    rfl
  · have refuses := answerQuery_refuses (d := fetchedDev f (entry s)) lives bad
    have queued := queued_complete (cqOf f) codeBad (opcodeOf f) 0 0 (handleOf f) (tagOf f) s.dev.job.number 0
      (fetchedDev f (entry s))
    have queues := complete_queues (d := fetchedDev f (entry s)) (code := codeBad) (opcode := opcodeOf f) (kind := 0)
      (xstatus := 0) (handle := handleOf f) (tag := tagOf f) (step := s.dev.job.number) (result := 0) own outside none' enabled room
    refine ⟨_, lift_of_eq (takes.trans refuses), queued.out, queued.hif, ?_, queued.role, queued.mem⟩
    refine queues.trans ?_
    rw [query, pushPacket_queues (d := fetchedDev f (entry s)) room, pushPacket_queues (d := s.dev) room]
    rfl

end Sys2Proof.Machine
end

section
/-!
PROOF. Descriptors of groups and of the twin (R299, R300, R321, R418, R422).
-/
namespace Sys2Proof.Machine

variable {d e : Device} {f : Fetched}

/-! ### A descriptor waits for its boundary, and acts at action 4 of it -/

/-- A descriptor with no copy to make joins those that wait. -/
theorem descriptor_joins {s : State} {op : Nat} (comes : Comes s.dev f) (opcode : opcodeOf f = op) (told : tellsNone s.dev = true)
    (query : op ≠ 0x60) (model : op ≠ 0x01) (sentence : op ≠ 0x02) : lift (devDescriptor op f) s = .next (joins s f) := by
  refine lift_of_eq (d' := { s.dev with
    out := fetchStatus s.dev f, hif := { fetchedHif s.dev f with fetched := s.dev.hif.fetched ++ [f] } }) ?_
  have none' : fetchCopy f (fetchedDev f (entry s)) = fetchedDev f (entry s) :=
    fetchCopy_none fun load => by
      rcases load.1 with load | load
      · exact model (opcode.symm.trans load)
      · exact sentence (opcode.symm.trans load)
  refine (devDescriptor_takes (d := entry s) comes opcode).trans ((takeFetched_waits (by rw [opcode]; exact query)).trans ?_)
  rw [queuedDesc, none']
  exact sendWant_told told

/-- The device of which a boundary's last operation has been taken. -/
def lastTaken (d : Device) : Device := { d with bnd := { d.bnd with ops := [] } }

theorem atActionFour_iff : AtActionFour d f = true ↔ powered d = true ∧ d.cfgLocked = true ∧ d.job.fatal = false ∧
    d.bnd.ops = [.apply f] ∧ d.bnd.posting = [] ∧ (d.twin.state = .unpaired ∨ d.twin.state = .paired) ∧ d.twin.taken = none ∧
    d.onTaken = false ∧ d.hif.log.mode ≠ 2 := by
  simp only [AtActionFour, Bool.and_eq_true, Bool.or_eq_true, Bool.not_eq_true', decide_eq_true_eq, List.isEmpty_iff,
    Option.isNone_iff_eq_none, and_assoc]

/-- An accepted descriptor acts at action 4. -/
theorem devBoundaryActionResume_applies (at' : AtActionFour d f = true) (ok : descOk d f = true)
    (acts : applyAccepted f (lastTaken d) = e) (done : e.bnd.ops = []) : devBoundaryActionResume d = flushPosting e := by
  obtain ⟨on, locked, -, last, flushed, twin, -, -, -⟩ := atActionFour_iff.1 at'
  have whole : ¬ (decide ((lastTaken d).twin.state = .split) && decide (32 ≤ f.ring.val) && !(lastTaken d).onTaken) = true := by
    have twin' : (lastTaken d).twin.state = .unpaired ∨ (lastTaken d).twin.state = .paired := twin
    rcases twin' with twin' | twin' <;> simp [twin']
  refine devBoundaryActionResume_last on locked last flushed (congrArg some ?_) done
  exact (if_neg whole).trans ((if_pos (c := descOk (lastTaken d) f = true) ok).trans acts)

theorem Told.flushed {a b : Device} (h : Told a b) : Told a (flushPosting b) := h.trans (queued_flushPosting b).told

theorem Told.trace {a b : Device} (h : Told a b) : b.out = a.out ∧ b.twin = a.twin ∧ b.hif = a.hif ∧ b.fab = a.fab ∧
    b.role.groups = a.role.groups ∧ b.bnd.ops = a.bnd.ops ∧ b.loaded = a.loaded := by
  rw [h]
  exact ⟨rfl, rfl, rfl, rfl, rfl, rfl, rfl⟩

/-- A read for a descriptor in memory without errors delivers its bytes. -/
theorem adminRead_clean {a n : Nat} (inside : rangeInMap a n = true) (clean : ErrorFree d) :
    adminRead a n d = (some (readBytes d.mem.bytes a n), d) := by
  have read : unitRead a n d = (readBytes d.mem.bytes a n, [], d) := by
    rw [unitRead, touchRange_clean d.mem a n clean.1 clean.2]
  rw [adminRead, if_neg (by simp [inside]), read]
  rfl

/-! ### Groups -/

/-- What a group record that is written leaves. -/
theorem setGroup_leaves (n : Nat) (g : Group) (d : Device) : groupOf (setGroup n g d) n = some g ∧
    (n = 0 → (setGroup n g d).job.gen = g.gen) ∧ (∀ k, k ≠ n → groupOf (setGroup n g d) k = groupOf d k) ∧
    (setGroup n g d).mem = d.mem ∧ (setGroup n g d).job.number = d.job.number ∧ (setGroup n g d).bnd = d.bnd ∧
    (setGroup n g d).twin = d.twin := by
  unfold setGroup
  dsimp only
  split
  next zero =>
    exact ⟨find_put_self .., fun _ => rfl, fun k other => find_put_ne _ _ _ _ other, rfl, rfl, rfl, rfl⟩
  next other' =>
    exact ⟨find_put_self .., fun zero => absurd zero other', fun k other => find_put_ne _ _ _ _ other, rfl, rfl, rfl, rfl⟩

/-- A group record that is written and completed. -/
theorem groupSet_told {n : Nat} {g : Group} {a t : Device} (base : Told a d) (told : Told (setGroup n g d) t) :
    groupOf t n = some g ∧ (n = 0 → t.job.gen = g.gen) ∧ (∀ k, k ≠ n → groupOf t k = groupOf a k) ∧ t.mem = a.mem ∧
      t.job.number = a.job.number := by
  obtain ⟨found, zero, others, mem, number, -, -⟩ := setGroup_leaves n g d
  have groups : t.role.groups = (setGroup n g d).role.groups := told.trace.2.2.2.2.1
  refine ⟨?_, ?_, fun k other => ?_, told.mem.trans (mem.trans base.mem), ?_⟩
  · rw [groupOf, groups]
    exact found
  · rw [told.job]
    exact zero
  · rw [groupOf, groups]
    refine (others k other).trans ?_
    rw [groupOf, groupOf, base.trace.2.2.2.2.1]
  · rw [told.job, number, base.job]

theorem applyGroupDefine_sets {g : Group} (clean : ErrorFree d) (few : 1 ≤ descField f.desc 24 0 32)
    (most : descField f.desc 24 0 32 ≤ 65536)
    (inside : rangeInMap (descField f.desc 32 0 48) (4 * descField f.desc 24 0 32) = true)
    (record : g = {
        gen := descField f.desc 20 0 32, members := descField f.desc 24 0 32, myRank := descField f.desc 28 0 16
        nodesAt := descField f.desc 32 0 48
        nodes := (pieces 4 (descField f.desc 24 0 32)
          (readBytes d.mem.bytes (descField f.desc 32 0 48) (4 * descField f.desc 24 0 32))).map natOfBytes
        ctimeout := descField f.desc 40 0 40 })
    (ok : groupOk d (descField f.desc 16 0 6) g = true) (whole : d.twin.taken = none) :
    applyGroupDefine f d = finishDesc f codeOk 0 (setGroup (descField f.desc 16 0 6) g (logDesc f d)) := by
  subst record
  have few' : ¬ (decide (descField f.desc 24 0 32 = 0) || decide (65536 < descField f.desc 24 0 32)) = true := by
    simp only [Bool.or_eq_true, decide_eq_true_eq]
    omega
  rw [applyGroupDefine]
  dsimp only
  rw [if_neg few', adminRead_clean (d := logDesc f d) inside clean]
  dsimp only
  refine (if_pos ok).trans (congrArg (finishDesc f codeOk 0) (if_neg ?_))
  rw [(setGroup_leaves _ _ _).2.2.2.2.2.2]
  simpa [logDesc, logNamed, logItem, updateCol] using whole

theorem applyGroupReform_sets {g : Group} (clean : ErrorFree d) (group : groupOf d (descField f.desc 16 0 6) = some g)
    (newer : g.gen < descField f.desc 20 0 32) (few : 1 ≤ descField f.desc 24 0 17) (most : descField f.desc 24 0 17 ≤ 65536)
    (inside : rangeInMap (descField f.desc 32 0 48) (8 * descField f.desc 24 0 17) = true)
    {words : List Nat} (read : words = (pieces 8 (descField f.desc 24 0 17)
      (readBytes d.mem.bytes (descField f.desc 32 0 48) (8 * descField f.desc 24 0 17))).map natOfBytes)
    (zeros : ∀ w ∈ words, bitsOf w 16 16 = 0)
    (named : ∀ p ∈ words.map fun w => (bitsOf w 0 16, bitsOf w 32 32), p.1 < g.members ∧ p.2 < nodeCount d)
    (alone : d.twin.state = .unpaired) (whole : d.twin.taken = none) :
    applyGroupReform f d = finishDesc f codeOk 0 (setGroup (descField f.desc 16 0 6)
      { g with gen := descField f.desc 20 0 32
               nodes := replaceNodes g.nodes (words.map fun w => (bitsOf w 0 16, bitsOf w 32 32)) } (logDesc f d)) := by
  subst read
  have few' : ¬ (decide (descField f.desc 24 0 17 = 0) || decide (65536 < descField f.desc 24 0 17)) = true := by
    simp only [Bool.or_eq_true, decide_eq_true_eq]
    omega
  have records : groupRecords (logDesc f d) (descField f.desc 16 0 6) = [g] := by
    have whole' : (logDesc f d).twin.taken = none := whole
    have alone' : (logDesc f d).twin.state = .unpaired := alone
    have group' : Tab.find (logDesc f d).role.groups (descField f.desc 16 0 6) = some g := group
    simp [groupRecords, whole', alone', group']
  rw [applyGroupReform]
  dsimp only
  rw [if_neg few', adminRead_clean (d := logDesc f d) inside clean]
  dsimp only
  rw [show (logDesc f d).mem.bytes = d.mem.bytes from rfl]
  generalize (pieces 8 (descField f.desc 24 0 17) _).map natOfBytes = words at zeros named ⊢
  rw [records]
  have ok : (!([g] : List Group).isEmpty && words.all (fun w => bitsOf w 16 16 = 0) &&
      (words.map fun w => (bitsOf w 0 16, bitsOf w 32 32)).all (fun p => p.2 < nodeCount (logDesc f d)) &&
      ([g] : List Group).all fun g => g.gen < descField f.desc 20 0 32 &&
        (words.map fun w => (bitsOf w 0 16, bitsOf w 32 32)).all fun p => p.1 < g.members) = true := by
    simp only [Bool.and_eq_true, List.all_eq_true, decide_eq_true_eq, List.mem_singleton, forall_eq]
    exact ⟨⟨⟨rfl, zeros⟩, fun p mem => (named p mem).2⟩, newer, fun p mem => (named p mem).1⟩
  refine (if_pos ok).trans ?_
  generalize words.map (fun w => (bitsOf w 0 16, bitsOf w 32 32)) = pairs at named ⊢
  have reforms : reformGroup (descField f.desc 16 0 6) (descField f.desc 20 0 32) pairs (logDesc f d) =
      setGroup (descField f.desc 16 0 6)
        { g with gen := descField f.desc 20 0 32, nodes := replaceNodes g.nodes pairs } (logDesc f d) := by
    have all : (decide (g.gen < descField f.desc 20 0 32) && pairs.all fun p => decide (p.1 < g.members)) = true := by
      simp only [Bool.and_eq_true, List.all_eq_true, decide_eq_true_eq]
      exact ⟨newer, fun p mem => (named p mem).1⟩
    rw [reformGroup, show groupOf (logDesc f d) (descField f.desc 16 0 6) = some g from group]
    exact if_pos all
  rw [reforms]
  have twin := (setGroup_leaves (descField f.desc 16 0 6)
    { g with gen := descField f.desc 20 0 32, nodes := replaceNodes g.nodes pairs } (logDesc f d)).2.2.2.2.2.2
  generalize setGroup _ _ (logDesc f d) = e at twin ⊢
  have own : inSplit (reformGroup (descField f.desc 16 0 6) (descField f.desc 20 0 32) pairs) e = e :=
    if_neg (by rw [twin]; exact fun taken => by simp [logDesc, logNamed, logItem, updateCol, whole] at taken)
  rw [own, if_neg (by rw [twin]; exact fun lost => by simp [logDesc, logNamed, logItem, updateCol, alone] at lost)]

theorem applyAccepted_groupDefine (op : opcodeOf f = 0x30) : applyAccepted f d = applyGroupDefine f d := by
  simp [applyAccepted, op]

theorem applyAccepted_groupReform (op : opcodeOf f = 0x31) : applyAccepted f d = applyGroupReform f d := by
  simp [applyAccepted, op]

/-- A group record that is written at action 4 ends the boundary's last operation. -/
theorem resume_setsGroup {n : Nat} {g : Group} (at' : AtActionFour d f = true) (ok : descOk d f = true)
    (acts : applyAccepted f (lastTaken d) = finishDesc f codeOk 0 (setGroup n g (logDesc f (lastTaken d)))) :
    let t := devBoundaryActionResume d
    groupOf t n = some g ∧ (n = 0 → t.job.gen = g.gen) ∧ (∀ k, k ≠ n → groupOf t k = groupOf d k) ∧ t.mem = d.mem ∧
      t.job.number = d.job.number := by
  have told := told_finishDesc f codeOk 0 (setGroup n g (logDesc f (lastTaken d)))
  have done : (finishDesc f codeOk 0 (setGroup n g (logDesc f (lastTaken d)))).bnd.ops = [] := by
    rw [told.trace.2.2.2.2.2.1, (setGroup_leaves n g _).2.2.2.2.2.1]
    rfl
  dsimp only
  rw [devBoundaryActionResume_applies at' ok acts done]
  exact groupSet_told (a := lastTaken d) (told_logDesc f (lastTaken d)) told.flushed

/-- Settles O33: groups are defined and re-formed at action 4. -/
theorem groupsDefined : Obligations.GroupsDefined := by
  refine ⟨fun s f c op which comes opcode told => ?_, fun s f at' alone ok clean => ⟨?_, ?_⟩⟩
  · simp only [List.mem_cons, Prod.mk.injEq, List.not_mem_nil, or_false] at which
    rcases which with ⟨rfl, rfl⟩ | ⟨rfl, rfl⟩
    · exact descriptor_joins comes opcode told (by decide) (by decide) (by decide)
    · exact descriptor_joins comes opcode told (by decide) (by decide) (by decide)
  · intro define few most inside g record
    obtain ⟨-, -, -, -, -, -, whole, -, -⟩ := atActionFour_iff.1 at'
    have acts := (applyAccepted_groupDefine define).trans
      (applyGroupDefine_sets (d := lastTaken (entry s)) clean few most inside (g := g) rfl record whole)
    obtain ⟨set, zero, others, mem, number⟩ := resume_setsGroup (d := entry s) at' ok acts
    exact ⟨_, lift_of_eq rfl, set, zero, others, mem, number⟩
  · intro g reform group newer few most inside words pairs zeros named
    obtain ⟨-, -, -, -, -, -, whole, -, -⟩ := atActionFour_iff.1 at'
    have acts := (applyAccepted_groupReform reform).trans (applyGroupReform_sets (d := lastTaken (entry s)) clean group newer few
      most inside (words := words) rfl zeros named alone whole)
    obtain ⟨set, zero, others, mem, -⟩ := resume_setsGroup (d := entry s) at' ok acts
    exact ⟨_, lift_of_eq rfl, set, zero, others, mem⟩

/-! ### The twin -/

theorem applyAccepted_twinAttach (op : opcodeOf f = 0x41) : applyAccepted f d = applyTwinAttach f d := by
  simp [applyAccepted, op]

theorem applyAccepted_twinDetach (op : opcodeOf f = 0x42) : applyAccepted f d = applyTwinDetach f d := by
  simp [applyAccepted, op]

/-- A device that attaches to a twin, before its HELLO (R418). -/
def attachingTo (f : Fetched) (d : Device) : Device :=
  { d with twin := { d.twin.cleared with
      state := .attaching, mode := descField f.desc 16 0 2, primary := descField f.desc 16 2 1 = 1
      node := descField f.desc 20 0 32, attachGen := (d.twin.attachGen + 1) % 2 ^ 32
      left := regField d .twnCfg 40 8, cq := cqOf f, tag := tagOf f } }

theorem applyTwinAttach_attaches (alone : d.twin.state = .unpaired) (mode : descField f.desc 16 0 2 = 1 ∨ descField f.desc 16 0 2 = 2)
    (secondary : ¬ (descField f.desc 16 0 2 = 1 ∧ descField f.desc 16 2 1 = 1)) (known : descField f.desc 20 0 32 < nodeCount d)
    (other : descField f.desc 20 0 32 ≠ nodeId d) : applyTwinAttach f d =
      sendTwin (.hello (ownHello (attachingTo f (logDesc f d)))) (attachingTo f (logDesc f d)) := by
  refine if_neg ?_
  have alone' : (logDesc f d).twin.state = .unpaired := alone
  have known' : ¬ nodeCount (logDesc f d) ≤ descField f.desc 20 0 32 := Nat.not_le.2 known
  have other' : descField f.desc 20 0 32 ≠ nodeId (logDesc f d) := other
  have single : ¬ ((decide (descField f.desc 16 0 2 = 1) && decide (descField f.desc 16 2 1 = 1)) = true) := by
    simpa only [Bool.and_eq_true, decide_eq_true_eq] using secondary
  simp only [alone', Bool.or_eq_true, decide_eq_true_eq, Bool.not_eq_true']
  rintro ((((free | bad) | bad) | bad) | bad)
  · simp at free
  · rcases mode with mode | mode <;> simp [mode] at bad
  · exact single bad
  · exact known' bad
  · exact other' bad

theorem applyTwinDetach_paired (paired : d.twin.state = .paired) :
    applyTwinDetach f d = finishDesc f codeOk 0 (cleanDetach (sendTwin .detach (logDesc f d))) := by
  have paired' : (logDesc f d).twin.state = .paired := paired
  rw [applyTwinDetach, paired']

theorem cleanDetach_paired (paired : d.twin.state = .paired) :
    cleanDetach d = retireMirror (mirrors d) (dropTwin .unpaired d) := by rw [cleanDetach, paired]

/-- A twin that is let go leaves memory, what is sent and the boundary as they are. -/
theorem retireMirror_dropTwin (x : Bool) (d : Device) :
    let t := retireMirror x (dropTwin .unpaired d)
    t.twin.state = .unpaired ∧ t.twin.shadow = none ∧ t.out = d.out ∧ t.mem = d.mem ∧ t.bnd = d.bnd := by
  cases x <;> exact ⟨rfl, rfl, rfl, rfl, rfl⟩

/-- Settles O36: TWIN_ATTACH begins an attach, TWIN_DETACH ends a pair. -/
theorem twinDescriptors : Obligations.TwinDescriptors := by
  refine ⟨fun s f c op which comes opcode told => ?_, fun s f at' ok => ⟨fun attach alone mode secondary known other => ?_,
    fun detach paired => ?_⟩⟩
  · simp only [List.mem_cons, Prod.mk.injEq, List.not_mem_nil, or_false] at which
    rcases which with ⟨rfl, rfl⟩ | ⟨rfl, rfl⟩
    · exact descriptor_joins comes opcode told (by decide) (by decide) (by decide)
    · exact descriptor_joins comes opcode told (by decide) (by decide) (by decide)
  · have acts := (applyAccepted_twinAttach attach).trans
      (applyTwinAttach_attaches (d := lastTaken (entry s)) alone mode secondary known other)
    obtain ⟨-, -, -, -, flushed, -, -, -, -⟩ := atActionFour_iff.1 at'
    have resumes := (devBoundaryActionResume_applies (d := entry s) at' ok acts rfl).trans (flushPosting_none flushed)
    exact ⟨_, lift_of_eq resumes, rfl, rfl, rfl, rfl, rfl, rfl, rfl, ⟨_, rfl⟩, rfl⟩
  · have acts := (applyAccepted_twinDetach detach).trans (applyTwinDetach_paired (d := lastTaken (entry s)) paired)
    rw [cleanDetach_paired (d := sendTwin .detach (logDesc f (lastTaken (entry s)))) paired] at acts
    obtain ⟨state, shadow, out, mem, bnd⟩ := retireMirror_dropTwin (mirrors (sendTwin .detach (logDesc f (lastTaken (entry s)))))
      (sendTwin .detach (logDesc f (lastTaken (entry s))))
    generalize retireMirror _ (dropTwin .unpaired _) = t at acts state shadow out mem bnd
    have told := told_finishDesc f codeOk 0 t
    have done : (finishDesc f codeOk 0 t).bnd.ops = [] := by
      rw [told.trace.2.2.2.2.2.1, bnd]
      rfl
    have flushed := told.flushed
    obtain ⟨out', twin', -, -, -, -, -⟩ := flushed.trace
    refine ⟨_, lift_of_eq (devBoundaryActionResume_applies (d := entry s) at' ok acts done), ?_, ?_, ?_, ?_⟩
    · exact (congrArg Twin.state twin').trans state
    · exact (congrArg Twin.shadow twin').trans shadow
    · refine (out'.trans out).symm ▸ ?_
      exact List.mem_singleton.2 rfl
    · exact flushed.mem.trans mem

end Sys2Proof.Machine
end

section
/-!
PROOF. Slot lists and step logs that are installed (R332, R333, R371).
-/
namespace Sys2Proof.Machine

variable {d e : Device} {f : Fetched}

/-! ### Exports that end leave memory, the slot lists and the boundary -/

/-- From `a` to `b` memory, the slot lists and the boundary's operations have stayed. -/
def ListsStay (a b : Device) : Prop := b.mem = a.mem ∧ b.fab.slotLists = a.fab.slotLists ∧ b.bnd.ops = a.bnd.ops

theorem ListsStay.refl (d : Device) : ListsStay d d := ⟨rfl, rfl, rfl⟩

theorem ListsStay.trans {a b c : Device} (h : ListsStay a b) (k : ListsStay b c) : ListsStay a c :=
  ⟨k.1.trans h.1, k.2.1.trans h.2.1, k.2.2.trans h.2.2⟩

theorem Told.listsStay {a b : Device} (h : Told a b) : ListsStay a b := by
  rw [h]
  exact ⟨rfl, rfl, rfl⟩

theorem listsStay_serve (d : Device) : ListsStay d (serve d) := ⟨serve_mem d, serve_fab_slotLists d, by rw [serve_bnd]⟩

theorem listsStay_closeShip (x : Shipping) (w : ExportEnd) (d : Device) : ListsStay d (closeShip x w d) := by
  unfold closeShip
  split
  · exact .refl d
  · dsimp only
    exact ListsStay.trans (b := { updateShip x.handle _ d with errs := _ }) ⟨rfl, rfl, rfl⟩ (queued_complete ..).told.listsStay

theorem listsStay_checkShip (h : Nat) (d : Device) : ListsStay d (checkShip h d) := by
  unfold checkShip
  split
  · exact .refl d
  · split
    · exact .refl d
    · split
      · split
        · exact .refl d
        · exact listsStay_closeShip ..
      · split
        · exact listsStay_closeShip ..
        · exact .refl d

theorem listsStay_failShip (h : Nat) (w : ExportEnd) (d : Device) : ListsStay d (failShip h w d) := by
  unfold failShip
  split
  · exact .refl d
  · split
    · exact .refl d
    · dsimp only
      generalize updated : updateShip h _ d = e
      generalize (fun c : TxChunk => List.any _ _) = gone
      have stays : ListsStay d (takeOut gone e) := by
        rw [← updated]
        exact ⟨rfl, rfl, rfl⟩
      exact (stays.trans (listsStay_serve _)).trans (listsStay_checkShip h _)

theorem listsStay_foldl {α : Type} {f : Device → α → Device} (step : ∀ d x, ListsStay d (f d x)) (xs : List α) (d : Device) :
    ListsStay d (xs.foldl f d) := by
  induction xs generalizing d with
  | nil => exact .refl d
  | cons x xs ih => exact (step d x).trans (ih _)

theorem installList_installs (n : Nat) (l : SlotList) (d : Device) : Tab.find (installList n l d).fab.slotLists n = some l ∧
    (∀ k, k ≠ n → Tab.find (installList n l d).fab.slotLists k = Tab.find d.fab.slotLists k) ∧
    (installList n l d).mem = d.mem ∧ (installList n l d).bnd.ops = d.bnd.ops := by
  let e : Device := { d with fab := { d.fab with
    slotLists := Tab.put d.fab.slotLists n l
    seen := d.fab.seen.filter fun p => p.2.type ≠ typeCredit || p.2.status ≠ n } }
  have stays : ListsStay e (installList n l d) := by
    unfold installList
    dsimp only
    split
    · exact ⟨rfl, rfl, rfl⟩
    · change ListsStay e (((shipsOf e).filter fun s => s.list = n && !s.closed && s.gen ≠ l.gen).foldl
        (fun d s => failShip s.handle .generation d) e)
      generalize (shipsOf e).filter _ = ships
      exact listsStay_foldl (fun d s => listsStay_failShip s.handle .generation d) ships e
  obtain ⟨mem, lists, ops⟩ := stays
  rw [lists, mem, ops]
  exact ⟨find_put_self .., fun k other => find_put_ne _ _ _ _ other, rfl, rfl⟩

/-! ### Descriptors -/

theorem applyAccepted_exportSlots (op : opcodeOf f = 0x20) : applyAccepted f d = applyExportSlots f d := by
  simp [applyAccepted, op]

theorem applyAccepted_stepLog (op : opcodeOf f = 0x50) : applyAccepted f d = applyStepLog f d := by
  simp [applyAccepted, op]

/-- The slot list that EXPORT_SLOTS names (R332). -/
def slotListOf (f : Fetched) : SlotList := {
  gen := descField f.desc 20 0 32, node := descField f.desc 24 0 32, slots := descField f.desc 28 0 17
  slotBytes := descField f.desc 32 0 32, addrs := descField f.desc 40 0 48, credit := descField f.desc 36 0 17, seq := 0 }

theorem applyExportSlots_installs (fresh : (Tab.find d.fab.slotLists (descField f.desc 16 0 8)).map (·.gen) ≠ some (slotListOf f).gen)
    (node : (slotListOf f).node < nodeCount d) (few : 1 ≤ (slotListOf f).slots) (most : (slotListOf f).slots ≤ 65536)
    (credit : (slotListOf f).credit ≤ (slotListOf f).slots) (size : 64 + slotBytes (sentenceDh d) false ≤ (slotListOf f).slotBytes) :
    applyExportSlots f d = finishDesc f codeOk 0 (installList (descField f.desc 16 0 8) (slotListOf f) (logDesc f d)) := by
  refine if_pos ?_
  simp only [Bool.and_eq_true, decide_eq_true_eq]
  exact ⟨⟨⟨⟨⟨fresh, node⟩, few⟩, most⟩, credit⟩, size⟩

/-- A log that starts with STEP_LOG (R371). -/
def startedLog (f : Fetched) : LogState := {
  mode := descField f.desc 16 0 2, base := descField f.desc 24 0 64, log2 := descField f.desc 32 0 6
  endStep := descField f.desc 40 0 48, cq := cqOf f, tag := tagOf f, dev := 0, host := 0, bytes := [], last := 0 }

theorem applyStepLog_starts (off : d.hif.log.mode = 0) (mode : descField f.desc 16 0 2 ≠ 0) : applyStepLog f d =
    statusWrite 1536 0 { logDesc f d with hif := { d.hif with log := startedLog f } } := by
  have off' : (logDesc f d).hif.log.mode = 0 := off
  rw [applyStepLog]
  dsimp only
  rw [if_neg mode, if_neg (Classical.not_not.2 off')]
  rfl

/-- Settles O34: EXPORT_SLOTS installs its list, STEP_LOG starts its log. -/
theorem listsAndLogsInstall : Obligations.ListsAndLogsInstall := by
  refine ⟨fun s f c op which comes opcode told => ?_, fun s f at' ok => ⟨fun exports fresh node few most credit size => ?_,
    fun logs off mode => ?_⟩⟩
  · simp only [List.mem_cons, Prod.mk.injEq, List.not_mem_nil, or_false] at which
    rcases which with ⟨rfl, rfl⟩ | ⟨rfl, rfl⟩
    · exact descriptor_joins comes opcode told (by decide) (by decide) (by decide)
    · exact descriptor_joins comes opcode told (by decide) (by decide) (by decide)
  · have acts := (applyAccepted_exportSlots exports).trans
      (applyExportSlots_installs (d := lastTaken (entry s)) fresh node few most credit size)
    obtain ⟨found, others, mem, ops⟩ :=
      installList_installs (descField f.desc 16 0 8) (slotListOf f) (logDesc f (lastTaken (entry s)))
    generalize installList _ _ (logDesc f (lastTaken (entry s))) = e at acts found others mem ops
    have told := told_finishDesc f codeOk 0 e
    have done : (finishDesc f codeOk 0 e).bnd.ops = [] := by
      rw [told.trace.2.2.2.2.2.1, ops]
      rfl
    have fab := told.flushed.trace.2.2.2.1
    refine ⟨_, lift_of_eq (devBoundaryActionResume_applies (d := entry s) at' ok acts done), ?_, fun k other => ?_, ?_⟩
    · rw [fab]
      exact found
    · rw [fab]
      exact others k other
    · exact told.flushed.mem.trans mem
  · have acts := (applyAccepted_stepLog logs).trans (applyStepLog_starts (d := lastTaken (entry s)) off mode)
    obtain ⟨-, -, -, -, flushed, -, -, -, -⟩ := atActionFour_iff.1 at'
    have resumes := (devBoundaryActionResume_applies (d := entry s) at' ok acts rfl).trans (flushPosting_none flushed)
    exact ⟨_, lift_of_eq resumes, rfl, rfl, List.mem_cons_self, rfl⟩

end Sys2Proof.Machine
end

section
/-!
PROOF. Request descriptors at action 4 (R223, R227, R229, R235, R240, R242, R243).
-/
namespace Sys2Proof.Machine

variable {d e : Device} {f : Fetched} {q : Request}

/-! ### The table of requests -/

/-- The table of requests, the generations of its slots, and the boundary's operations. -/
def tableOf (d : Device) : Tab Request × Tab Nat × List BOp := (d.role.reqs, d.role.slotGen, d.bnd.ops)

theorem Told.table {a b : Device} (h : Told a b) : tableOf b = tableOf a := by
  rw [h]
  rfl

theorem slot_of_handle (small : q.slot < 16384) : handleOfReq q % 2 ^ 14 = q.slot := by
  rw [handleOfReq, handleFor]
  omega

theorem reqOf_iff {h : Nat} : reqOf d h = some q ↔ Tab.find d.role.reqs (h % 2 ^ 14) = some q ∧ handleOfReq q = h := by
  rw [reqOf]
  cases found : Tab.find d.role.reqs (h % 2 ^ 14) with
  | none => simp
  | some p =>
    dsimp only
    split
    next is => exact ⟨fun eq => by cases eq; exact ⟨rfl, is⟩, fun ⟨eq, _⟩ => eq⟩
    next isnt => exact ⟨fun eq => absurd eq (by simp), fun ⟨eq, is⟩ => by cases eq; exact absurd is isnt⟩

/-- A record that is written under its own handle is found there. -/
theorem reqOf_setReq {h : Nat} {p : Request} (small : q.slot < 16384) (is : handleOfReq q = h) (slot : p.slot = q.slot)
    (gen : p.gen = q.gen) : reqOf (setReq p d) h = some p := by
  have handle : handleOfReq p = h := by rw [← is, handleOfReq, handleOfReq, slot, gen]
  refine reqOf_iff.2 ⟨?_, handle⟩
  rw [← is, slot_of_handle small, ← slot]
  exact find_put_self ..

theorem reqOf_table {a b : Device} (same : b.role.reqs = a.role.reqs) (h : Nat) : reqOf b h = reqOf a h := by
  rw [reqOf, reqOf, same]

/-! ### Descriptors that change one request -/

theorem applyAccepted_request (op : 0x10 ≤ opcodeOf f ∧ opcodeOf f ≤ 0x14) : applyAccepted f d = applyRequestDesc f d := by
  have other (n : Nat) (out : n < 0x10 ∨ 0x14 < n) : opcodeOf f ≠ n := by omega
  simp [applyAccepted, other]

theorem priorityOk_of_descOk (op : opcodeOf f = 0x14) (ok : descOk d f = true) : priorityOk f.desc = true := by
  have payload : payloadOk f.desc = true := by
    simp only [descOk, Bool.and_eq_true] at ok
    exact ok.1.2
  have op' : descField f.desc 0 0 8 = 0x14 := op
  simpa [payloadOk, op'] using payload

theorem withPriority_slot (x : BitVec 512) (n : Nat) (q : Request) : (withPriority x n q).slot = q.slot := by
  unfold withPriority
  dsimp only
  split <;> split <;> rfl

theorem withPriority_gen (x : BitVec 512) (n : Nat) (q : Request) : (withPriority x n q).gen = q.gen := by
  unfold withPriority
  dsimp only
  split <;> split <;> rfl

theorem applyPriority_sets (op : opcodeOf f = 0x14) (ok : descOk d f = true) (named : reqOf d (handleOf f) = some q)
    (plain : priorityEdits f = some []) :
    applyPriority f d = finishDesc f codeOk (handleOf f) (setReq (withPriority f.desc d.job.number q) (logDesc f d)) := by
  have named' : reqOf (logDesc f d) (handleOf f) = some q := named
  rw [applyPriority, named', plain]
  refine (if_neg ?_).trans rfl
  simp [priorityOk_of_descOk op ok]

theorem applyPause_sets (named : reqOf d (handleOf f) = some q) (state : q.state = .queued ∨ q.state = .prefill ∨ q.state = .decode) :
    applyPause f d = finishDesc f codePaused (handleOf f)
      (setReq { q with state := if q.state = .queued then .paused else .pausing, fwPause := false } (logDesc f d)) := by
  have named' : reqOf (logDesc f d) (handleOf f) = some q := named
  rw [applyPause, named']
  dsimp only
  rcases state with state | state | state <;>
    · rw [if_neg (by simp [state]), pauseRequest, state]
      rfl

theorem applyResume_sets (named : reqOf d (handleOf f) = some q) (paused : q.state = .paused) (alone : d.hif.log.mode ≠ 2) :
    applyResume f d = finishDesc f codeOk (handleOf f) (setReq
      { q with state := resumedState q, fwPause := false, resumePend := false, heldResumes := [] }
      (logItem 0x06 0 (handleOfReq q) 0 0 (logDesc f d))) := by
  have named' : reqOf (logDesc f d) (handleOf f) = some q := named
  have alone' : (logDesc f d).hif.log.mode ≠ 2 := alone
  have now : resumesNow (logDesc f d) (handleOf f) = true := by simp [resumesNow, replaying, alone']
  rw [applyResume]
  dsimp only
  rw [named']
  dsimp only
  rw [paused]
  dsimp only
  rw [now]
  rfl

/-- A record that a descriptor writes is there when its boundary goes on. -/
theorem resume_setsReq {p : Request} {code : Nat} (at' : AtActionFour d f = true) (ok : descOk d f = true)
    (named : reqOf d (handleOf f) = some q) (small : q.slot < 16384) (slot : p.slot = q.slot) (gen : p.gen = q.gen)
    (base : Told (lastTaken d) e)
    (acts : applyAccepted f (lastTaken d) = finishDesc f code (handleOf f) (setReq p e)) :
    let t := devBoundaryActionResume d
    reqOf t (handleOf f) = some p ∧ t.mem = d.mem ∧ t.job = d.job := by
  have told := told_finishDesc f code (handleOf f) (setReq p e)
  have done : (finishDesc f code (handleOf f) (setReq p e)).bnd.ops = [] := by
    rw [told.trace.2.2.2.2.2.1]
    exact base.trace.2.2.2.2.2.1
  dsimp only
  rw [devBoundaryActionResume_applies at' ok acts done]
  refine ⟨?_, told.flushed.mem.trans base.mem, told.flushed.job.trans base.job⟩
  rw [reqOf_table told.flushed.reqs]
  exact reqOf_setReq small (reqOf_iff.1 named).2 slot gen

/-! ### A request that is cancelled -/

theorem table_foldl {α : Type} {g : Device → α → Device} (step : ∀ d x, tableOf (g d x) = tableOf d) (xs : List α) (d : Device) :
    tableOf (xs.foldl g d) = tableOf d := foldl_view (view := tableOf) step xs d

theorem table_dropHolder (i : Nat) (d : Device) : tableOf (dropHolder i d) = tableOf d := by
  unfold dropHolder
  split
  · rfl
  · dsimp only
    split
    · unfold evictNode
      split <;> rfl
    · rfl

theorem table_withHolders {slot : Nat} {g : Device → Device} (step : ∀ d, tableOf (g d) = tableOf d) (d : Device) :
    tableOf (withHolders slot g d) = tableOf d :=
  (table_foldl (fun d i => table_dropHolder i d) _ _).trans (step d)

theorem table_editDrop (h : Nat) (k : ListKey) (d : Device) : tableOf (editDrop h k d) = tableOf d := by
  unfold editDrop
  dsimp only
  generalize nextGen _ = l
  exact table_withHolders (g := fun d => logEdit h k (putList l d)) (fun _ => rfl) d

theorem table_dropLists (q : Request) (d : Device) : tableOf (dropLists q d) = tableOf d :=
  table_foldl (fun d k => table_editDrop (handleOfReq q) k d) _ d

theorem table_dropWaiting (h : Nat) (d : Device) : tableOf (dropWaiting h d) = tableOf d :=
  (table_foldl (fun d i => table_dropHolder i d) _ _).trans rfl

theorem table_closeShip (x : Shipping) (w : ExportEnd) (d : Device) : tableOf (closeShip x w d) = tableOf d := by
  unfold closeShip
  split
  · rfl
  · exact (queued_complete ..).told.table

theorem table_checkShip (h : Nat) (d : Device) : tableOf (checkShip h d) = tableOf d := by
  unfold checkShip
  split
  · rfl
  · split
    · rfl
    · split
      · split
        · rfl
        · exact table_closeShip ..
      · split
        · exact table_closeShip ..
        · rfl

theorem table_dropChunks (gone : TxChunk → Bool) (d : Device) : tableOf (dropChunks gone d) = tableOf d := by
  rw [dropChunks, tableOf, serve_role, serve_bnd]
  rfl

theorem table_failShip (h : Nat) (w : ExportEnd) (d : Device) : tableOf (failShip h w d) = tableOf d := by
  unfold failShip
  split
  · rfl
  · split
    · rfl
    · exact (table_checkShip h _).trans ((table_dropChunks _ _).trans rfl)

/-- A slot that is free is free under its next generation (R223). -/
theorem freeRequest_table (q : Request) (d : Device) : tableOf (freeRequest q d) =
    (Tab.drop d.role.reqs q.slot, Tab.put d.role.slotGen q.slot (if q.gen = 0x3FFFF then 1 else q.gen + 1), d.bnd.ops) := by
  let x := dropLists q (dropWaiting (handleOfReq q) d)
  have table : tableOf x = tableOf d := (table_dropLists q _).trans (table_dropWaiting _ d)
  have reqs : x.role.reqs = d.role.reqs := congrArg Prod.fst table
  have gens : x.role.slotGen = d.role.slotGen := congrArg (fun t => t.2.1) table
  have ops : x.bnd.ops = d.bnd.ops := congrArg (fun t => t.2.2) table
  unfold freeRequest
  refine (table_foldl (fun d f => (told_finishDesc f codeCancelled (handleOf f) d).table) q.heldResumes _).trans ?_
  change (Tab.drop x.role.reqs q.slot, Tab.put x.role.slotGen q.slot _, x.bnd.ops) = _
  rw [reqs, gens, ops]

theorem applyCancel_frees (named : reqOf d (handleOf f) = some q) :
    applyCancel f d = finishDesc f codeCancelled (handleOf f) (cancelRequest q (logDesc f d)) := by
  have named' : reqOf (logDesc f d) (handleOf f) = some q := named
  rw [applyCancel, named']

theorem resume_cancels (at' : AtActionFour d f = true) (ok : descOk d f = true) (op : opcodeOf f = 0x11)
    (named : reqOf d (handleOf f) = some q) (small : q.slot < 16384) :
    let t := devBoundaryActionResume d
    reqOf t (handleOf f) = none ∧ reqAt t q.slot = none ∧ slotGen t q.slot = (if q.gen = 0x3FFFF then 1 else q.gen + 1) := by
  let base := lastTaken d
  have acts : applyAccepted f base = finishDesc f codeCancelled (handleOf f) (cancelRequest q (logDesc f base)) := by
    rw [applyAccepted_request (by omega), applyRequestDesc, op]
    exact applyCancel_frees (d := base) named
  have told := told_finishDesc f codeCancelled (handleOf f) (cancelRequest q (logDesc f base))
  have table : tableOf (cancelRequest q (logDesc f base)) = (Tab.drop d.role.reqs q.slot,
      Tab.put d.role.slotGen q.slot (if q.gen = 0x3FFFF then 1 else q.gen + 1), []) :=
    (table_failShip (handleOfReq q) .stopped _).trans (freeRequest_table q (logDesc f base))
  have done : (finishDesc f codeCancelled (handleOf f) (cancelRequest q (logDesc f base))).bnd.ops = [] :=
    congrArg (fun t => t.2.2) (told.table.trans table)
  have after := told.flushed.table.trans table
  dsimp only
  rw [devBoundaryActionResume_applies at' ok acts done]
  generalize flushPosting _ = t at after ⊢
  have reqs : t.role.reqs = Tab.drop d.role.reqs q.slot := congrArg Prod.fst after
  have gens : t.role.slotGen = Tab.put d.role.slotGen q.slot (if q.gen = 0x3FFFF then 1 else q.gen + 1) :=
    congrArg (fun t => t.2.1) after
  have none' : reqAt t q.slot = none := by
    rw [reqAt, reqs]
    exact find_drop_self ..
  refine ⟨?_, none', ?_⟩
  · have handle : handleOf f % 2 ^ 14 = q.slot := by
      rw [← (reqOf_iff.1 named).2, slot_of_handle small]
    rw [reqAt] at none'
    rw [reqOf, handle, none']
  · rw [slotGen, gens]
    exact getD_put_self ..

/-! ### A request that is submitted -/

theorem whenOk_eq_some {α : Type} {c : Bool} {a b : α} : whenOk c a = some b ↔ c = true ∧ a = b := by
  cases c <;> simp [whenOk]

/-- A request that a submit describes is queued in its slot; whether it is one does not turn on the slot. -/
theorem parseSubmit_some {slot : Nat} (parsed : parseSubmit f slot d = some q) :
    q.slot = slot ∧ q.state = .queued ∧ ∃ p, parseSubmit f 0 d = some p := by
  simp only [parseSubmit, Option.bind_eq_bind, Option.bind_eq_some_iff, whenOk_eq_some] at parsed ⊢
  obtain ⟨prompt, blockA, block, blockB, params, parsed, ok, rfl⟩ := parsed
  exact ⟨rfl, rfl, _, prompt, blockA, block, blockB, params, parsed, ok, rfl⟩

/-- The record of a request that is submitted: the request with its places in the work area. -/
def Houses (q p : Request) : Prop := ∃ a b c, p = { q with stateAddr := a, promptAt := b, tokensAt := c }

theorem houseRequest_houses {x : Request × Device} (housed : houseRequest q d = some x) :
    Houses q x.1 ∧ x.2.role = d.role ∧ x.2.bnd = d.bnd := by
  simp only [houseRequest, Option.bind_eq_bind, Option.bind_eq_some_iff] at housed
  obtain ⟨a, -, b, -, c, -, is⟩ := housed
  obtain rfl := Option.some.inj is
  exact ⟨⟨a, b, c, rfl⟩, rfl, rfl⟩

/-- A device with other emissions and another boundary. -/
def movedTo (o : List Emission) (b : Boundary) (d : Device) : Device := { d with out := o, bnd := b }

theorem houseRequest_moved (o : List Emission) (b : Boundary) (q : Request) (d : Device) :
    houseRequest q (movedTo o b d) = (houseRequest q d).map fun x => (x.1, movedTo o b x.2) := by
  simp only [houseRequest, Option.bind_eq_bind]
  refine (congrArg (Option.bind _) (funext fun x => ?_)).trans Option.map_bind.symm
  refine (congrArg (Option.bind _) (funext fun y => ?_)).trans Option.map_bind.symm
  rw [Function.comp_apply, Option.map_bind]
  exact congrArg (Option.bind _) (funext fun z => rfl)

theorem needList_moved (o : List Emission) (b : Boundary) (k : ListKey) (dh : Nat) (d : Device) :
    needList k dh (movedTo o b d) = ((needList k dh d).1, movedTo o b (needList k dh d).2) := by
  unfold needList
  rw [show (movedTo o b d).role.lists = d.role.lists from rfl]
  cases d.role.lists.find? (·.key = k) with
  | none => rfl
  | some l =>
    dsimp only
    rw [show entriesNeeded (movedTo o b d) k.slot = entriesNeeded d k.slot from rfl]
    split
    · rfl
    · rfl

theorem houseLists_moved (o : List Emission) (b : Boundary) (q : Request) (d : Device) :
    houseLists q (movedTo o b d) = (houseLists q d).map (movedTo o b) := by
  have all (ks : List ListKey) (d : Device) :
      ks.foldl (fun d k => let r := needList k (dimAt d k.layer k.head) d; putList r.1 r.2) (movedTo o b d) =
        movedTo o b (ks.foldl (fun d k => let r := needList k (dimAt d k.layer k.head) d; putList r.1 r.2) d) := by
    induction ks generalizing d with
    | nil => rfl
    | cons k ks ih =>
      rw [List.foldl_cons, List.foldl_cons, ← ih]
      dsimp only
      rw [needList_moved]
      rfl
  unfold houseLists
  dsimp only
  rw [show unhouseLists q.slot (movedTo o b d) = movedTo o b (unhouseLists q.slot d) from rfl,
    show mainKeys (movedTo o b d) q.slot = mainKeys d q.slot from rfl, all]
  generalize List.foldl _ (unhouseLists q.slot d) _ = x
  unfold whenOk
  rw [apply_ite (Option.map (movedTo o b))]
  rfl

/-- Whether the work area has room turns neither on what has been sent nor on the boundary. -/
theorem workHolds_moved (o : List Emission) (b : Boundary) (q : Request) (d : Device) :
    workHolds (movedTo o b d) q = workHolds d q := by
  rw [workHolds, workHolds, admitRequest, admitRequest, houseRequest_moved]
  cases houseRequest q d with
  | none => rfl
  | some x =>
    refine (congrArg Option.isSome (houseLists_moved o b x.1 (setReq x.1 x.2))).trans ?_
    rw [Option.isSome_map]
    rfl

theorem table_needList (k : ListKey) (dh : Nat) (d : Device) : tableOf (needList k dh d).2 = tableOf d := by
  unfold needList
  split
  · dsimp only
    split <;> rfl
  · rfl

theorem houseLists_table {p : Request} (housed : houseLists p d = some e) : tableOf e = tableOf d := by
  unfold houseLists at housed
  dsimp only at housed
  obtain ⟨-, rfl⟩ := whenOk_eq_some.1 housed
  refine (table_foldl (g := fun d k => putList (needList k (dimAt d k.layer k.head) d).1 (needList k (dimAt d k.layer k.head) d).2)
    (fun d k => ?_) _ _).trans rfl
  exact Eq.trans rfl (table_needList k _ d)

theorem table_lookupFrom (q : Request) (limit fuel j : Nat) (d : Device) : tableOf (lookupFrom q limit fuel j d) = tableOf d := by
  induction fuel generalizing j d with
  | zero => rfl
  | succ fuel ih =>
    rw [lookupFrom]
    split
    · rfl
    · split
      · rfl
      · split
        · rfl
        · exact (ih _ _).trans rfl

theorem table_lookupPrefix (q : Request) (d : Device) : tableOf (lookupPrefix q d) = tableOf d := by
  unfold lookupPrefix
  split
  · rfl
  · split
    · rfl
    · exact table_lookupFrom ..

/-- A request that takes a slot has its record there. -/
theorem placeRequest_places (q : Request) (d : Device) :
    ∃ p, Houses q p ∧ tableOf (placeRequest q d) = (Tab.put d.role.reqs q.slot p, d.role.slotGen, d.bnd.ops) := by
  have admitted : ∃ p, Houses q p ∧ tableOf ((admitRequest q d).getD (setReq q d)) =
      (Tab.put d.role.reqs q.slot p, d.role.slotGen, d.bnd.ops) := by
    cases admits : admitRequest q d with
    | none => exact ⟨q, ⟨q.stateAddr, q.promptAt, q.tokensAt, rfl⟩, rfl⟩
    | some e =>
      simp only [admitRequest, Option.bind_eq_bind, Option.bind_eq_some_iff] at admits
      obtain ⟨x, housed, lists⟩ := admits
      obtain ⟨⟨a, b, c, is⟩, role, bnd⟩ := houseRequest_houses housed
      refine ⟨x.1, ⟨a, b, c, is⟩, (houseLists_table lists).trans ?_⟩
      rw [tableOf, setReq, is, role, bnd]
  obtain ⟨p, houses, table⟩ := admitted
  refine ⟨p, houses, ?_⟩
  rw [← table, placeRequest]
  generalize (admitRequest q d).getD (setReq q d) = x
  exact (table_lookupPrefix _ _).trans rfl

theorem table_startShipping (q : Request) (d : Device) : tableOf (startShipping q d) = tableOf d := by
  unfold startShipping
  split <;> rfl

/-- The device of which a submit has been placed. -/
def submitted (f : Fetched) (q : Request) (d : Device) : Device :=
  updateCol (fun c => { c with submitted := c.submitted ++ [handleOfReq q] })
    (startShipping q (placeRequest q (logNamed (handleOfReq q) f d)))

theorem applySubmit_places {slot : Nat} (none' : d.role.held = []) (free : freeReqSlot d = some slot)
    (parsed : parseSubmit f slot d = some q) (holds : workHolds d q = true) :
    applySubmit f d = finishDesc f codeOk (handleOfReq q) (submitted f q d) := by
  have held : tryHeld d = d := by
    rw [tryHeld, none', List.foldl_nil]
    obtain ⟨role⟩ : ∃ r, r = d.role := ⟨_, rfl⟩
    rw [show ({ d.role with held := [] } : Role) = d.role by rw [← none']]
  obtain ⟨-, -, p, parsed'⟩ := parseSubmit_some parsed
  have tried : trySubmit f d = some (finishDesc f codeOk (handleOfReq q) (submitted f q d)) := by
    rw [trySubmit, parsed']
    dsimp only
    rw [free]
    dsimp only
    rw [parsed]
    dsimp only
    rw [if_neg (by simp [holds])]
    rfl
  rw [applySubmit, held, tried]
  rfl

theorem resume_submits {slot : Nat} (at' : AtActionFour d f = true) (ok : descOk d f = true) (op : opcodeOf f = 0x10)
    (none' : d.role.held = []) (free : freeReqSlot d = some slot) (parsed : parseSubmit f slot d = some q)
    (holds : workHolds d q = true) :
    ∃ p, Houses q p ∧ reqAt (devBoundaryActionResume d) slot = some p := by
  let base := lastTaken d
  obtain ⟨-, -, -, -, -, -, -, -, alone⟩ := atActionFour_iff.1 at'
  have replays : replaying base = false := by
    have alone' : base.hif.log.mode ≠ 2 := alone
    simp [replaying, alone']
  have acts : applyAccepted f base = finishDesc f codeOk (handleOfReq q) (submitted f q base) := by
    rw [applyAccepted_request (by omega), applyRequestDesc, op, replays]
    exact applySubmit_places (d := base) none' free parsed ((workHolds_moved d.out { d.bnd with ops := [] } q d).trans holds)
  obtain ⟨p, houses, table⟩ := placeRequest_places q (logNamed (handleOfReq q) f base)
  have told := told_finishDesc f codeOk (handleOfReq q) (submitted f q base)
  have table' : tableOf (submitted f q base) = (Tab.put d.role.reqs q.slot p, d.role.slotGen, []) :=
    Eq.trans (b := tableOf (startShipping q (placeRequest q (logNamed (handleOfReq q) f base)))) rfl
      ((table_startShipping q _).trans table)
  have done : (finishDesc f codeOk (handleOfReq q) (submitted f q base)).bnd.ops = [] :=
    congrArg (fun t => t.2.2) (told.table.trans table')
  have after := congrArg Prod.fst (told.flushed.table.trans table')
  refine ⟨p, houses, ?_⟩
  rw [devBoundaryActionResume_applies at' ok acts done, reqAt, ← (parseSubmit_some parsed).1]
  exact (congrArg (Tab.find · q.slot) after).trans (find_put_self ..)

/-- Settles O32: request descriptors wait for their boundary and act at its action 4. -/
theorem requestDescriptors : Obligations.RequestDescriptors := by
  refine ⟨fun s f c op which comes opcode told => ?_, fun s f q at' ok named small => ⟨fun op plain => ?_, fun op state => ?_,
    fun op paused => ?_, fun op => ?_⟩, fun s f slot q at' ok op none' free parsed holds => ?_⟩
  · simp only [List.mem_cons, Prod.mk.injEq, List.not_mem_nil, or_false] at which
    rcases which with ⟨rfl, rfl⟩ | ⟨rfl, rfl⟩ | ⟨rfl, rfl⟩ | ⟨rfl, rfl⟩ | ⟨rfl, rfl⟩ <;>
      exact descriptor_joins comes opcode told (by decide) (by decide) (by decide)
  · have acts : applyAccepted f (lastTaken (entry s)) = finishDesc f codeOk (handleOf f)
        (setReq (withPriority f.desc s.dev.job.number q) (logDesc f (lastTaken (entry s)))) := by
      rw [applyAccepted_request (by omega), applyRequestDesc, op]
      exact applyPriority_sets (d := lastTaken (entry s)) op ok named plain
    obtain ⟨set, mem, job⟩ := resume_setsReq (d := entry s) at' ok named small (withPriority_slot ..) (withPriority_gen ..)
      (told_logDesc f _) acts
    exact ⟨_, lift_of_eq rfl, set, mem, congrArg Job.number job⟩
  · have acts : applyAccepted f (lastTaken (entry s)) = finishDesc f codePaused (handleOf f)
        (setReq { q with state := if q.state = .queued then .paused else .pausing, fwPause := false }
          (logDesc f (lastTaken (entry s)))) := by
      rw [applyAccepted_request (by omega), applyRequestDesc, op]
      exact applyPause_sets (d := lastTaken (entry s)) named state
    obtain ⟨set, mem, -⟩ := resume_setsReq (d := entry s) at' ok named small
      (p := { q with state := if q.state = .queued then .paused else .pausing, fwPause := false }) rfl rfl (told_logDesc f _) acts
    exact ⟨_, lift_of_eq rfl, mem, set⟩
  · obtain ⟨-, -, -, -, -, -, -, -, alone⟩ := atActionFour_iff.1 at'
    have acts : applyAccepted f (lastTaken (entry s)) = finishDesc f codeOk (handleOf f)
        (setReq { q with state := resumedState q, fwPause := false, resumePend := false, heldResumes := [] }
          (logItem 0x06 0 (handleOfReq q) 0 0 (logDesc f (lastTaken (entry s))))) := by
      rw [applyAccepted_request (by omega), applyRequestDesc, op]
      exact applyResume_sets (d := lastTaken (entry s)) named paused alone
    obtain ⟨set, mem, -⟩ := resume_setsReq (d := entry s) at' ok named small
      (p := { q with state := resumedState q, fwPause := false, resumePend := false, heldResumes := [] }) rfl rfl
      (e := logItem 0x06 0 (handleOfReq q) 0 0 (logDesc f (lastTaken (entry s)))) ((told_logDesc f _).trans rfl) acts
    exact ⟨_, lift_of_eq rfl, mem, set⟩
  · exact ⟨_, lift_of_eq rfl, resume_cancels (d := entry s) at' ok op named small⟩
  · obtain ⟨p, ⟨a, b, c, rfl⟩, found⟩ := resume_submits (d := entry s) at' ok op none' free parsed
      ((workHolds_moved [] s.dev.bnd q s.dev).trans holds)
    obtain ⟨slot', state, -⟩ := parseSubmit_some parsed
    exact ⟨_, lift_of_eq rfl, _, found, state, rfl, rfl, rfl, rfl, rfl, slot', rfl⟩

end Sys2Proof.Machine
end

section
/-!
PROOF. Model and sentence images, and variants (R248, R249, R361, R362).
-/
namespace Sys2Proof.Machine

variable {d e : Device} {f : Fetched}

/-! ### A load joins those that wait, its copy made -/

/-- A device with other emissions and another host interface. -/
def reported (o : List Emission) (h : HostIf) (d : Device) : Device := { d with out := o, hif := h }

theorem foldl_reported {α : Type} {g : Device → α → Device} (o : List Emission) (h : HostIf)
    (step : ∀ d x, g (reported o h d) x = reported o h (g d x)) (xs : List α) (d : Device) :
    xs.foldl g (reported o h d) = reported o h (xs.foldl g d) := by
  induction xs generalizing d with
  | nil => rfl
  | cons x xs ih => rw [List.foldl_cons, List.foldl_cons, step, ih]

theorem freeFabric_reported (o : List Emission) (h : HostIf) (d : Device) :
    freeFabric (reported o h d) = reported o h (freeFabric d) := by
  have entries := foldl_reported (g := fun d (x : Nat × EntryRun) => freeEntry x.1 x.2 d) o h (fun _ _ => rfl) d.fab.entries d
  have chunk (d : Device) (x : Nat × TxChunk) : freeChunk x.1 x.2 (reported o h d) = reported o h (freeChunk x.1 x.2 d) := by
    unfold freeChunk
    split <;> rfl
  unfold freeFabric
  dsimp only
  rw [show (reported o h d).fab = d.fab from rfl, entries]
  generalize d.fab.entries.foldl _ d = x
  rw [show (reported o h x).fab = x.fab from rfl, foldl_reported (g := fun d (x : Nat × TxChunk) => freeChunk x.1 x.2 d) o h chunk]
  generalize x.fab.chunks.foldl _ x = y
  rfl

theorem freeResults_reported (o : List Emission) (h : HostIf) (d : Device) :
    freeResults (reported o h d) = reported o h (freeResults d) := by
  have spans (ss : List (Nat × Nat)) : freeSpans ss (reported o h d) = reported o h (freeSpans ss d) := by
    unfold freeSpans
    exact foldl_reported o h (fun _ _ => by rfl) ss d
  unfold freeResults
  dsimp only
  rw [show (reported o h d).work = d.work from rfl, spans, freeFabric_reported]
  generalize freeFabric _ = x
  rfl

theorem noteRaced_reported (a n : Nat) (o : List Emission) (h : HostIf) (d : Device) :
    noteRaced a n (reported o h d) = reported o h (noteRaced a n d) := by
  unfold noteRaced
  rw [show (reported o h d).job = d.job from rfl]
  split
  · rfl
  · dsimp only
    rw [show (reported o h d).work = d.work from rfl, show (reported o h d).mem = d.mem from rfl]
    generalize List.foldl _ d.work.raced _ = raced
    split
    · exact freeResults_reported o h { d with work := { d.work with raced := raced } }
    · rfl

/-- A load in memory without errors, as it waits for its boundary. -/
theorem devDescriptor_loads {op : Nat} {bs : List Byte} (comes : Comes d f) (told : tellsNone d = true) (opcode : opcodeOf f = op)
    (load : op = 0x01 ∨ op = 0x02) (ok : descOk d f = true) (bytes : f.blockA = some bs) (clean : ErrorFree d) :
    let e := noteRaced (descField f.desc 24 0 48) bs.length d
    devDescriptor op f d = { e with
      out := d.out ++ fetchStatus d f, hif := { fetchedHif d f with fetched := d.hif.fetched ++ [f] }
      mem := { e.mem with bytes := writeBytes e.mem.bytes (descField f.desc 24 0 48) bs }
      work := if d.job.inFlight then { e.work with copied := (descField f.desc 24 0 48, bs.length) :: e.work.copied } else e.work } := by
  intro e
  have raced : noteRaced (descField f.desc 24 0 48) bs.length (fetchedDev f d) =
      reported (d.out ++ fetchStatus d f) (fetchedHif d f) e := noteRaced_reported ..
  have worked : Worked d e := worked_noteRaced ..
  have clean' : ErrorFree (reported (d.out ++ fetchStatus d f) (fetchedHif d f) e) := by
    change ErrorFree e
    rw [worked]
    exact clean
  have flies : e.job = d.job := by rw [worked]
  have load' : opcodeOf f = 0x01 ∨ opcodeOf f = 0x02 := by rw [opcode]; exact load
  have copy : fetchCopy f (fetchedDev f d) = { reported (d.out ++ fetchStatus d f) (fetchedHif d f) e with
      mem := { e.mem with bytes := writeBytes e.mem.bytes (descField f.desc 24 0 48) bs }
      work := if d.job.inFlight then { e.work with copied := (descField f.desc 24 0 48, bs.length) :: e.work.copied }
        else e.work } := by
    rw [fetchCopy_eq, loadOf, if_pos ⟨load', ok⟩, bytes]
    dsimp only [Option.map]
    rw [raced, copyLoad_clean clean', show (reported (d.out ++ fetchStatus d f) (fetchedHif d f) e).job = d.job from flies]
    rfl
  have other : opcodeOf f ≠ 0x60 := by omega
  have told' : tellsNone (queuedDesc f (fetchedDev f d)) = true := by
    rw [queuedDesc, copy]
    change tellsNone e = true
    rw [worked]
    exact told
  rw [devDescriptor_takes comes opcode, takeFetched_waits other, sendWant_told told', queuedDesc, copy]
  rfl

/-! ### Images at action 4 -/

theorem applyAccepted_modelLoad (op : opcodeOf f = 0x01) : applyAccepted f d = applyModelLoad f d := by
  simp [applyAccepted, op]

theorem applyAccepted_sentenceLoad (op : opcodeOf f = 0x02) : applyAccepted f d = applySentenceLoad f d := by
  simp [applyAccepted, op]

theorem applyAccepted_variantLoad (op : opcodeOf f = 0x03) : applyAccepted f d = applyVariantLoad f d := by
  simp [applyAccepted, op]

/-- A descriptor that ends with OK, its effect `e` in place. -/
theorem resume_finishes {code handle : Nat} (at' : AtActionFour d f = true) (ok : descOk d f = true)
    (acts : applyAccepted f (lastTaken d) = finishDesc f code handle e) (done : e.bnd.ops = []) :
    Told e (devBoundaryActionResume d) := by
  have told := told_finishDesc f code handle e
  rw [devBoundaryActionResume_applies at' ok acts (told.trace.2.2.2.2.2.1.trans done)]
  exact told.flushed

theorem Told.variants {a b : Device} (h : Told a b) : b.role.variants = a.role.variants := by rw [h]
theorem Told.initial {a b : Device} (h : Told a b) : b.role.initial = a.role.initial := by rw [h]
theorem Told.lists {a b : Device} (h : Told a b) : b.role.lists = a.role.lists := by rw [h]
theorem Told.tree {a b : Device} (h : Told a b) : b.tree = a.tree := by rw [h]

/-- The two bits of a segment that is the first one and the last one. -/
theorem whole_segment {x : BitVec 512} (both : descField x 40 0 2 = 3) : descField x 40 0 1 = 1 ∧ descField x 40 1 1 = 1 := by
  simp only [descField, bitsOf] at *
  omega

/-- The device that a model image of one segment leaves (R361). -/
def modelLoaded (dst : Nat) (bs : List Byte) (digest : List Byte) (d : Device) : Device :=
  { unloadModel d with
    loaded := { (unloadModel d).loaded with
      imageOpen := false, imageBytes := [], imageRanges := [], modelDigest := some digest, modelRanges := [(dst, bs.length)] }
    role := { (unloadModel d).role with variants := [(0, variantZero)] }
    twin := { (unloadModel d).twin with taken := (unloadModel d).twin.taken.map fun r => { r with variants := [(0, variantZero)] } } }

theorem applyModelLoad_loads {bs : List Byte} (bytes : f.blockA = some bs) (empty : tableEmpty d = true)
    (len : bs.length = descField f.desc 32 0 48) (whole : descField f.desc 40 0 2 = 3) (right : f.blockB = some (shake256_512 bs)) :
    applyModelLoad f d = finishDesc f codeOk 0 (modelLoaded (descField f.desc 24 0 48) bs (shake256_512 bs) (logDesc f d)) := by
  obtain ⟨first, last⟩ := whole_segment whole
  have empty' : tableEmpty (logDesc f d) = true := empty
  have fits : ¬ (!tableEmpty (logDesc f d) || decide (bs.length ≠ descField f.desc 32 0 48)) = true := by simp [empty', len]
  rw [applyModelLoad, bytes]
  dsimp only
  rw [if_neg fits, first, last]
  simp only [decide_true, Bool.not_true, Bool.false_and, if_true, if_false, Bool.false_eq_true, List.nil_append]
  rw [if_pos right, modelLoaded, len]

theorem applySentenceLoad_installs {bs model : List Byte} {x : Sentence} (bytes : f.blockA = some bs) (empty : tableEmpty d = true)
    (len : bs.length = descField f.desc 32 0 48) (loaded : d.loaded.modelDigest = some model)
    (parsed : parseSentence (descField f.desc 24 0 48) bs = some x) (fits : sentenceFits d x bs = true) :
    applySentenceLoad f d = finishDesc f codeOk 0 (installSentence x model bs (logDesc f d)) := by
  have empty' : tableEmpty (logDesc f d) = true := empty
  have takes : ¬ (!tableEmpty (logDesc f d) || decide (bs.length ≠ descField f.desc 32 0 48)) = true := by simp [empty', len]
  rw [applySentenceLoad, bytes, show (logDesc f d).loaded.modelDigest = some model from loaded]
  dsimp only
  rw [if_neg takes, parsed]
  exact if_pos fits

/-- What a sentence that is installed leaves (R48, R362). -/
theorem installSentence_leaves (x : Sentence) (model bs : List Byte) (d : Device) :
    let t := installSentence x model bs d
    t.loaded.sentence = some { x with digest := shake256_512 bs } ∧ t.loaded.modelDigest = d.loaded.modelDigest ∧
      t.loaded.initial = initialDigest d (myRank d) model (shake256_512 bs) ∧
      t.role = { d.role with lists := [], initial := some (initialDigest d (myRank d) model (shake256_512 bs)) } ∧
      t.mem = d.mem ∧ t.bnd = d.bnd := by
  unfold installSentence
  generalize shake256_512 bs = digest
  exact ⟨rfl, rfl, rfl, rfl, rfl, rfl⟩

/-! ### Variants at action 4 -/

theorem unindexVariant_leaves (v : Nat) (d : Device) : (unindexVariant v d).role = d.role ∧ (unindexVariant v d).mem = d.mem ∧
    (unindexVariant v d).bnd = d.bnd := by
  have kept : ((unindexVariant v d).role, (unindexVariant v d).mem, (unindexVariant v d).bnd) = (d.role, d.mem, d.bnd) := by
    unfold unindexVariant
    refine foldl_view (view := fun d : Device => (d.role, d.mem, d.bnd)) (fun d i => ?_) _ d
    dsimp only
    split
    · rfl
    · split
      · unfold evictNode
        dsimp only
        split <;> rfl
      · rfl
  simpa only [Prod.mk.injEq] using kept

theorem applyVariantLoad_installs {model : List Byte} {es : List PageEntry} (clean : ErrorFree d)
    (loaded : d.loaded.modelDigest = some model) (whole : d.twin.taken = none)
    (inside : rangeInMap (descField f.desc 24 0 48) (8 * (descField f.desc 18 0 13 / 256 * (dirPlaces d).length)) = true)
    (entries : ((pieces 8 (descField f.desc 18 0 13 / 256 * (dirPlaces d).length) (readBytes d.mem.bytes (descField f.desc 24 0 48)
      (8 * (descField f.desc 18 0 13 / 256 * (dirPlaces d).length)))).map natOfBytes).mapM parseEntry = some es)
    (plain : ∀ e ∈ es, e.tier ≤ 1 ∧ e.fp4 = false)
    (shadow : shadowTakes d (dirUses d (variantPages d (descField f.desc 18 0 13 / 256) es)) 0 = true) :
    applyVariantLoad f d = finishDesc f codeOk 0 (unindexVariant (descField f.desc 16 0 12)
      (installVariant (descField f.desc 16 0 12) (descField f.desc 18 0 13) (es.map fun e => { e with shared := true })
        (logDesc f d))) := by
  have takes : ((es.all fun e => e.tier ≤ 1 && !e.fp4) &&
      shadowTakes (logDesc f d) (dirUses (logDesc f d) (variantPages (logDesc f d) (descField f.desc 18 0 13 / 256) es)) 0) = true := by
    simp only [Bool.and_eq_true, List.all_eq_true, decide_eq_true_eq, Bool.not_eq_true']
    exact ⟨plain, shadow⟩
  rw [applyVariantLoad]
  dsimp only
  rw [show dirPlaces (logDesc f d) = dirPlaces d from rfl, adminRead_clean (d := logDesc f d) inside clean]
  dsimp only
  rw [show (logDesc f d).loaded.modelDigest = some model from loaded]
  dsimp only
  rw [show (logDesc f d).mem.bytes = d.mem.bytes from rfl, entries]
  dsimp only
  rw [if_pos takes]
  exact congrArg (fun x => finishDesc f codeOk 0 (unindexVariant (descField f.desc 16 0 12) x)) (if_neg (by
    rw [show (installVariant (descField f.desc 16 0 12) (descField f.desc 18 0 13) (es.map fun e => { e with shared := true })
      (logDesc f d)).twin = d.twin from rfl, whole]
    decide))

/-- Settles O35: images and variants load at action 4. -/
theorem imagesAndVariantsLoad : Obligations.ImagesAndVariantsLoad := by
  refine ⟨fun s f comes told => ⟨fun op => ?_, fun c op bs which opcode ok bytes clean => ?_⟩,
    fun s f bs at' ok bytes empty len => ⟨fun op whole right => ?_, fun model x op loaded parsed fits => ?_⟩,
    fun s f model es at' ok op loaded clean => ?_⟩
  · exact descriptor_joins comes op told (by decide) (by decide) (by decide)
  · simp only [List.mem_cons, Prod.mk.injEq, List.not_mem_nil, or_false] at which
    rcases which with ⟨rfl, rfl⟩ | ⟨rfl, rfl⟩
    · exact lift_of_eq (devDescriptor_loads (d := entry s) comes told opcode (Or.inl rfl) ok bytes clean)
    · exact lift_of_eq (devDescriptor_loads (d := entry s) comes told opcode (Or.inr rfl) ok bytes clean)
  · have acts := (applyAccepted_modelLoad op).trans
      (applyModelLoad_loads (d := lastTaken (entry s)) bytes empty len whole right)
    have told := resume_finishes (d := entry s) at' ok acts rfl
    generalize shake256_512 bs = digest at told ⊢
    obtain ⟨-, -, -, -, -, -, loaded⟩ := told.trace
    refine ⟨_, lift_of_eq rfl, ?_, ?_, ?_, ?_, ?_, told.mem⟩
    · exact congrArg Loaded.modelDigest loaded
    · exact congrArg Loaded.modelRanges loaded
    · exact congrArg Loaded.sentence loaded
    · exact told.variants
    · exact told.tree
  · have acts := (applyAccepted_sentenceLoad op).trans
      (applySentenceLoad_installs (d := lastTaken (entry s)) bytes empty len loaded parsed fits)
    obtain ⟨sentence, kept, initial, role, mem, bnd⟩ := installSentence_leaves x model bs (logDesc f (lastTaken (entry s)))
    generalize installSentence x model bs (logDesc f (lastTaken (entry s))) = e at acts sentence kept initial role mem bnd
    generalize shake256_512 bs = digest at sentence initial role ⊢
    have told := resume_finishes (d := entry s) at' ok acts (by rw [bnd]; rfl)
    obtain ⟨-, -, -, -, -, -, loads⟩ := told.trace
    refine ⟨_, lift_of_eq rfl, ?_, ?_, ?_, ?_, ?_, ?_, told.mem.trans mem⟩
    · exact (congrArg Loaded.sentence loads).trans sentence
    · exact (congrArg Loaded.modelDigest loads).trans (kept.trans loaded)
    · exact (congrArg Loaded.initial loads).trans initial
    · rw [told.initial, role]
      rfl
    · rw [told.lists, role]
    · rw [told.variants, role]
      rfl
  · intro v lv at'' n inside entries plain shadow
    obtain ⟨-, -, -, -, -, -, whole, -, -⟩ := atActionFour_iff.1 at'
    have acts := (applyAccepted_variantLoad op).trans
      (applyVariantLoad_installs (d := lastTaken (entry s)) clean loaded whole inside entries plain shadow)
    obtain ⟨role, mem, bnd⟩ := unindexVariant_leaves v (installVariant v lv (es.map fun e => { e with shared := true })
      (logDesc f (lastTaken (entry s))))
    have told := resume_finishes (d := entry s) at' ok acts (by rw [bnd]; rfl)
    have variants := told.variants
    refine ⟨_, lift_of_eq rfl, ?_, fun k other => ?_, ?_⟩
    · dsimp only
      rw [variants, role]
      exact congrArg (Option.map fun x : Variant => (x.lv, x.pages)) (find_put_self ..)
    · dsimp only
      rw [variants, role]
      exact find_put_ne _ _ _ _ other
    · exact told.mem.trans mem

end Sys2Proof.Machine
end

section
/-!
PROOF. JOB_RESTART and the halt boundary (R411, R412).
-/
namespace Sys2Proof.Machine

variable {d e : Device} {f : Fetched}

/-! ### The halt boundary up to the restart -/

/-- A read of the doorbell page leaves all but the host interface; what has been fetched stays in it. -/
theorem readPage_keeps (page : Option Doorbell) (d : Device) :
    let x := readPage page d
    x = { d with hif := x.hif, out := x.out, pcie := x.pcie } ∧ x.hif.fetched = d.hif.fetched ∧ x.hif.queries = d.hif.queries := by
  cases page with
  | none =>
    have told := msix_eq 0 { d with hif := { d.hif with err := d.hif.err ||| (1#3 <<< 2) } }
    intro x
    have same : x = _ := told
    refine ⟨?_, ?_, ?_⟩
    · rw [same]
    · rw [same]
    · rw [same]
  | some p =>
    obtain ⟨only, hif, -⟩ := readPage_some p d
    refine ⟨only, ?_, ?_⟩ <;> (rw [hif]; rfl)

/-- A halted device in its halt boundary with the operations `ops` left, a host interface `h`, and what it has sent. -/
def inHalt (h : HostIf) (out : List Emission) (pcie : Pcie) (ops : List BOp) (d : Device) : Device :=
  { d with hif := h, out := out, pcie := pcie, bnd := { d.bnd with
      gen := d.job.gen, ops := ops, admitted := [], settled := [], released := [], writes := [] } }

theorem detachNoted_unpaired (alone : d.twin.state = .unpaired) : detachNoted d = d := by
  unfold detachNoted cleanDetach
  rw [alone]
  exact ite_self d

theorem haltCutoff_admits {h : HostIf} {out : List Emission} {pcie : Pcie} (alone : d.twin.state = .unpaired)
    (fetched : h.fetched = [f]) (ring : f.ring.val = 0) (op : opcodeOf f = 0x40) (ops : List BOp) :
    runOp .haltCutoff (inHalt h out pcie ops d) =
      some (inHalt { h with fetched := [] } out pcie (.haltApply f :: ops) d) := by
  have applies : haltApplies (inHalt h out pcie ops d) = haltOpcodes := by
    have lost : primaryLost (inHalt h out pcie ops d) = false := by simp [primaryLost, inHalt, alone]
    have follows : mirrors (inHalt h out pcie ops d) = false := mirrors_unpaired alone
    rw [haltApplies, lost, follows]
    rfl
  have admits : haltAdmits (inHalt h out pcie ops d) = [f] := by
    have ring' : f.ring = 0 := Fin.ext ring
    have named : haltOpcodes.contains (opcodeOf f) = true := by rw [op]; decide
    rw [haltAdmits, applies, show (inHalt h out pcie ops d).hif.fetched = [f] from fetched, List.filter_cons_of_pos (by simp [ring']),
      List.filter_nil, List.takeWhile_cons_of_pos (p := fun f => haltOpcodes.contains (opcodeOf f)) named, List.takeWhile_nil,
      List.filter_cons_of_pos (p := fun f => haltOpcodes.contains (opcodeOf f)) named, List.filter_nil]
  rw [runOp, admits, show (inHalt h out pcie ops d).hif.fetched = [f] from fetched, detachNoted_unpaired,
    List.filter_cons_of_neg (by simp), List.filter_nil]
  · rfl
  · exact alone

theorem haltApply_restarts {h : HostIf} {out : List Emission} {pcie : Pcie} {ops : List BOp} (ok : descOk d f = true)
    (op : opcodeOf f = 0x40) (halted : d.job.halted = true) (restart : restartOk d f = true)
    (step : descField f.desc 16 0 48 = haltInfo d) :
    runOp (.haltApply f) (inHalt h out pcie ops d) = some (inHalt h out pcie (.restart f :: ops) d) := by
  have ok' : descOk (inHalt h out pcie ops d) f = true := ok
  have halted' : (inHalt h out pcie ops d).job.halted = true := halted
  have restart' : restartOk (inHalt h out pcie ops d) f = true := restart
  have step' : descField f.desc 16 0 48 = haltInfo (inHalt h out pcie ops d) := step
  rw [runOp, applyHalt, if_pos (by simp [ok', op]), if_pos halted', haltRestart, if_neg (by simp [restart']), if_pos step']
  rfl

/-- What is left to do once the halt boundary has admitted the restart. -/
theorem devDoorbellPoll_halted (page : Option Doorbell) (serves : serving d = true) (halted : d.job.halted = true)
    (outside : inBoundary d = false) (flushed : d.bnd.posting = []) (alone : d.twin.state = .unpaired) (own : d.onTaken = false)
    (queries : d.hif.queries = []) (fetched : d.hif.fetched = [f]) (ring : f.ring.val = 0) (op : opcodeOf f = 0x40)
    (ok : descOk d f = true) (step : descField f.desc 16 0 48 = haltInfo d) (restart : restartOk d f = true) :
    ∃ (h : HostIf) (out : List Emission) (pcie : Pcie) (fuel : Nat), h.fetched = [] ∧ h.queries = [] ∧
      devDoorbellPoll page d = runOps (fuel + 4) (inHalt h out pcie [.restart f, .haltEnd, .finish] d) := by
  obtain ⟨on, -, lives, locked, kept⟩ := serving_iff.1 serves
  have idle : d.bnd.ops = [] := by simpa [inBoundary] using outside
  obtain ⟨page', fetched', queries'⟩ := readPage_keeps page d
  have begins : devDoorbellPoll page d = beginOps [.haltCutoff, .haltEnd, .finish] page d := by
    rw [devDoorbellPoll, if_neg (by simp [on, locked, kept]), if_neg (by simp [idle]), if_pos (by simp [halted, lives, outside])]
  have first : devDoorbellPoll page d =
      runBoundary (inHalt (readPage page d).hif (readPage page d).out (readPage page d).pcie [.haltCutoff, .haltEnd, .finish] d) := by
    rw [begins, beginOps, toOwn_own own]
    generalize readPage page d = x at page'
    dsimp only
    rw [page']
    rfl
  generalize (readPage page d).hif = h at first fetched' queries'
  generalize (readPage page d).out = out at first
  generalize (readPage page d).pcie = pcie at first
  obtain ⟨fuel, bound⟩ : ∃ fuel, opsBound (inHalt h out pcie [.haltCutoff, .haltEnd, .finish] d) = fuel + 4 + 1 + 1 :=
    ⟨opsBound (inHalt h out pcie [.haltCutoff, .haltEnd, .finish] d) - 6, by rw [opsBound]; omega⟩
  refine ⟨{ h with fetched := [] }, out, pcie, fuel, rfl, queries'.trans queries, first.trans ?_⟩
  rw [runBoundary, bound]
  refine (runOps_cons (d := inHalt h out pcie [.haltCutoff, .haltEnd, .finish] d) flushed rfl).trans ?_
  refine (congrArg (fun o : Option Device => o.elim _ _) (haltCutoff_admits alone (fetched'.trans fetched) ring op _)).trans ?_
  refine (runOps_cons (d := inHalt { h with fetched := [] } out pcie [.haltApply f, .haltEnd, .finish] d) flushed rfl).trans ?_
  exact congrArg (fun o : Option Device => o.elim _ _) (haltApply_restarts ok op halted restart step)

/-! ### What the member keeps from the restart on -/

/-- A member that has left the halt of `d₀` at step `n` with generation `g`, in its boundary the operations `ops` left. -/
structure Resumed (d₀ : Device) (n g : Nat) (ops : List BOp) (d : Device) : Prop where
  mem : d.mem = d₀.mem
  reqs : d.role.reqs = d₀.role.reqs
  fetched : d.hif.fetched = []
  queries : d.hif.queries = []
  alone : d.twin.state = .unpaired
  own : d.onTaken = false
  number : d.job.number = n
  gen : d.job.gen = g
  restarts : d.job.restarts = 0
  going : d.job.halted = false
  lives : d.job.fatal = false
  unscrubbed : d.job.scrubFault = false
  left : d.bnd.ops = ops

variable {d₀ a b : Device} {n g : Nat} {ops : List BOp}

theorem Resumed.congr (h : Resumed d₀ n g ops a) (mem : b.mem = a.mem) (reqs : b.role.reqs = a.role.reqs) (hif : b.hif = a.hif)
    (twin : b.twin = a.twin) (own : b.onTaken = a.onTaken) (number : b.job.number = a.job.number) (gen : b.job.gen = a.job.gen)
    (restarts : b.job.restarts = a.job.restarts) (halted : b.job.halted = a.job.halted) (fatal : b.job.fatal = a.job.fatal)
    (scrub : b.job.scrubFault = a.job.scrubFault)
    (left : b.bnd.ops = a.bnd.ops) : Resumed d₀ n g ops b :=
  ⟨mem.trans h.mem, reqs.trans h.reqs, hif ▸ h.fetched, hif ▸ h.queries, twin ▸ h.alone, own.trans h.own, number.trans h.number,
    gen.trans h.gen, restarts.trans h.restarts, halted.trans h.going, fatal.trans h.lives, scrub.trans h.unscrubbed, left.trans h.left⟩

theorem Resumed.queued (h : Resumed d₀ n g ops a) (k : Queued a b) : Resumed d₀ n g ops b := by
  rw [k]
  exact h.congr rfl rfl rfl rfl rfl rfl rfl rfl rfl rfl rfl rfl

theorem Resumed.told (h : Resumed d₀ n g ops a) (k : Told a b) : Resumed d₀ n g ops b := by
  rw [k]
  exact h.congr rfl rfl rfl rfl rfl rfl rfl rfl rfl rfl rfl rfl

theorem Resumed.serve (h : Resumed d₀ n g ops a) : Resumed d₀ n g ops (serve a) := by
  refine h.congr ?_ ?_ ?_ ?_ ?_ ?_ ?_ ?_ ?_ ?_ ?_ ?_ <;> simp

theorem Resumed.particles (h : Resumed d₀ n g ops a) (k : Particles a b) : Resumed d₀ n g ops b := by
  rw [k]
  exact h.congr rfl rfl rfl rfl rfl rfl rfl rfl rfl rfl rfl rfl

theorem Resumed.tryReady (h : Resumed d₀ n g ops a) : Resumed d₀ n g ops (tryReady a) := by
  unfold Machine.tryReady
  split
  · dsimp only
    exact Resumed.particles (a := { a with job := { a.job with awaitReady := false, ready := [], startOrdered := true } })
      (h.congr rfl rfl rfl rfl rfl rfl rfl rfl rfl rfl rfl rfl) (particles_sendMembers ..)
  · exact h

/-- What a member that resumes keeps (R408). -/
theorem Resumed.resumeJob (h : Resumed d₀ n g ops a) (named : a.job.named = []) (agreed : a.job.agreement = false) :
    Resumed d₀ n g ops (resumeJob g a) := by
  have restarts := itemTwo_restarts (gen := g) h.own named agreed h.lives
  have event := deviceEvent_eq .restart a.job.number (stepBefore a.job.number) (abandoned g a)
  have left : Resumed d₀ n g ops (abandoned g a) := by
    rw [abandoned, discardStep, toOwn_own h.own]
    exact ⟨h.mem, (regen_reqs ..).trans h.reqs, h.fetched, h.queries, h.alone, h.own, h.number, rfl, h.restarts, rfl, h.lives,
      h.unscrubbed, h.left⟩
  have told : Resumed d₀ n g ops (deviceEvent .restart a.job.number (stepBefore a.job.number) (abandoned g a)) := by
    rw [event]
    exact left.congr rfl rfl rfl rfl rfl rfl rfl rfl rfl rfl rfl rfl
  rw [Machine.resumeJob, restarts]
  dsimp only
  generalize deviceEvent _ _ _ _ = x at told ⊢
  rw [if_neg (by decide)]
  split
  · refine Resumed.serve (Resumed.tryReady ?_)
    exact told.congr rfl rfl rfl rfl rfl rfl rfl rfl rfl rfl rfl rfl
  · refine Resumed.serve ?_
    have sent : Resumed d₀ n g ops (sendReady x) := told.particles (particles_foldl (fun _ _ => particles_sendParticle ..) _ x)
    exact sent.congr rfl rfl rfl rfl rfl rfl rfl rfl rfl rfl rfl rfl

theorem Resumed.sendWant (h : Resumed d₀ n g ops a) : Resumed d₀ n g ops (sendWant a) := by
  unfold Machine.sendWant
  split
  · exact Resumed.particles (a := { a with job := { a.job with wantSent := true } })
      (h.congr rfl rfl rfl rfl rfl rfl rfl rfl rfl rfl rfl rfl) (particles_sendParticle ..)
  · exact h

/-! ### The operations that are left -/

theorem Resumed.take {rest : List BOp} (h : Resumed d₀ n g ops a) : Resumed d₀ n g rest { a with bnd := { a.bnd with ops := rest } } :=
  ⟨h.mem, h.reqs, h.fetched, h.queries, h.alone, h.own, h.number, h.gen, h.restarts, h.going, h.lives, h.unscrubbed, rfl⟩

/-- What holds where a boundary stops and where it goes on holds when its next operation has been tried. -/
theorem runOps_next {fuel : Nat} {op : BOp} {rest : List BOp} {P : Device → Prop} (left : d.bnd.ops = op :: rest)
    (stops : P (flushPosting d))
    (goes : ∃ e, runOp op { flushPosting d with bnd := { (flushPosting d).bnd with ops := rest } } = some e ∧ P (runOps fuel e)) :
    P (runOps (fuel + 1) d) := by
  have left' : (flushPosting d).bnd.ops = op :: rest := by
    rw [queued_flushPosting d]
    exact left
  obtain ⟨e, runs, holds⟩ := goes
  rw [runOps]
  dsimp only
  split
  · exact stops
  · rw [left']
    dsimp only
    rw [runs]
    exact holds

theorem Resumed.haltEnd (h : Resumed d₀ n g ops a) (named : a.job.named = []) (agreed : a.job.agreement = false)
    (scrubbed : a.job.scrubbed = []) (lost : a.job.lost = []) : ∃ e, runOp .haltEnd a = some e ∧ Resumed d₀ n g ops e := by
  have kept : loseSlots a = { a with job := { a.job with scrubbed := [], lost := [] } } := by
    rw [loseSlots, scrubbed, lost]
    rfl
  let x := updateStats (keepHalts { a with job := { a.job with scrubbed := [], lost := [] } })
  have rest : Resumed d₀ n g ops x := h.congr rfl rfl rfl rfl rfl rfl rfl rfl rfl rfl rfl rfl
  refine ⟨_, rfl, ?_⟩
  rw [kept]
  change Resumed d₀ n g ops (if x.job.halted || x.twin.retired then x else Machine.resumeJob x.job.gen x)
  split
  · exact rest
  · rw [rest.gen]
    exact rest.resumeJob named agreed

theorem adoptMirror_unpaired (alone : d.twin.state = .unpaired) : adoptMirror d = d := by
  unfold adoptMirror
  split
  · rw [if_neg (by simp [mirrorSide, alone])]
  · rfl

theorem Resumed.actFinish (h : Resumed d₀ n g ops a) : Resumed d₀ n g [] (actFinish a) := by
  let x : Device := { a with bnd := { Boundary.none with posting := a.bnd.posting, entry := if a.job.inFlight then a.bnd.entry else [] } }
  have over' : Resumed d₀ n g [] x :=
    ⟨h.mem, h.reqs, h.fetched, h.queries, h.alone, h.own, h.number, h.gen, h.restarts, h.going, h.lives, h.unscrubbed, rfl⟩
  have none' : x.hif.queries = [] := h.queries
  have answered : answerQueries x = { x with hif := { x.hif with queries := [] } } := by
    rw [answerQueries, none']
    rfl
  have spoke := spoke_serveWaiting { x with hif := { x.hif with queries := [] } }
  have served : Resumed d₀ n g [] (serveWaiting { x with hif := { x.hif with queries := [] } }) := by
    rw [spoke]
    refine Resumed.congr over' rfl rfl ?_ rfl rfl rfl rfl rfl rfl rfl rfl rfl
    rw [← none']
  rw [Machine.actFinish]
  dsimp only
  rw [show answerQueries _ = _ from answered]
  generalize serveWaiting { x with hif := { x.hif with queries := [] } } = y at served ⊢
  rw [served.unscrubbed, Bool.false_and, if_neg Bool.false_ne_true, adoptMirror_unpaired served.alone]
  exact served.sendWant

/-- A member that takes up the generation and the step of a restart (R412). -/
def restarted (f : Fetched) (d : Device) : Device :=
  let e := adoptGen (descField f.desc 24 0 32) (logDesc f d)
  { e with job := { e.job with
      number := (descField f.desc 16 0 48 + 1) % 2 ^ 48, restarts := 0, restartFrom := descField f.desc 16 0 48, halted := false } }

theorem restartJob_restarts (alone : d.twin.state = .unpaired) : restartJob f d = finishDesc f codeOk 0 (restarted f d) := by
  have alone' : (restarted f d).twin.state = .unpaired := alone
  have kept : takesOver (restarted f d) = false := by simp [takesOver, alone']
  rw [restartJob]
  dsimp only
  refine congrArg (finishDesc f codeOk 0) ?_
  exact (if_neg (by exact fun take => Bool.false_ne_true (kept.symm.trans take))).trans
    (if_neg (by exact fun lost => by cases alone'.symm.trans lost))

/-- The halt boundary from the restart on. -/
theorem runOps_restarts {fuel : Nat} {x : Device} (left : x.bnd.ops = [.restart f, .haltEnd, .finish]) (flushed : x.bnd.posting = [])
    (alone : x.twin.state = .unpaired) (own : x.onTaken = false) (lives : x.job.fatal = false) (named : x.job.named = [])
    (agreed : x.job.agreement = false) (scrub : x.job.scrubFault = false) (scrubbed : x.job.scrubbed = []) (lost : x.job.lost = [])
    (fetched : x.hif.fetched = []) (queries : x.hif.queries = []) :
    ∃ ops, Resumed x ((descField f.desc 16 0 48 + 1) % 2 ^ 48) (descField f.desc 24 0 32) ops (runOps (fuel + 4) x) := by
  let y : Device := { x with bnd := { x.bnd with ops := [.haltEnd, .finish] } }
  have begun : Resumed x ((descField f.desc 16 0 48 + 1) % 2 ^ 48) (descField f.desc 24 0 32) [.haltEnd, .finish] (restarted f y) :=
    ⟨rfl, regen_reqs .., fetched, queries, alone, own, rfl, rfl, rfl, rfl, lives, scrub, rfl⟩
  have told := told_finishDesc f codeOk 0 (restarted f y)
  have runs : runOp (.restart f) y = some (finishDesc f codeOk 0 (restarted f y)) := congrArg some (restartJob_restarts (d := y) alone)
  rw [runOps_cons flushed left, runs]
  let P (t : Device) : Prop := ∃ ops, Resumed x ((descField f.desc 16 0 48 + 1) % 2 ^ 48) (descField f.desc 24 0 32) ops t
  change P (runOps (fuel + 3) (finishDesc f codeOk 0 (restarted f y)))
  generalize finishDesc f codeOk 0 (restarted f y) = z at told
  have after := begun.told told
  have flush := queued_flushPosting z
  refine runOps_next (P := P) after.left ⟨_, after.queued flush⟩ ?_
  obtain ⟨e, ends, over'⟩ := (after.queued flush).take (rest := [.finish]) |>.haltEnd
    (by change (flushPosting z).job.named = []; rw [flush.job, told.job]; exact named)
    (by change (flushPosting z).job.agreement = false; rw [flush.job, told.job]; exact agreed)
    (by change (flushPosting z).job.scrubbed = []; rw [flush.job, told.job]; exact scrubbed)
    (by change (flushPosting z).job.lost = []; rw [flush.job, told.job]; exact lost)
  refine ⟨e, ends, ?_⟩
  refine runOps_next (P := P) over'.left ⟨_, over'.queued (queued_flushPosting e)⟩ ⟨_, rfl, ?_⟩
  have done := ((over'.queued (queued_flushPosting e)).take (rest := [])).actFinish
  rw [runOps_over done.left]
  exact ⟨_, done.queued (queued_flushPosting _)⟩

/-- Settles O37: JOB_RESTART ends the halt of a member. -/
theorem jobRestarts : Obligations.JobRestarts := by
  refine ⟨fun s f comes op told => descriptor_joins comes op told (by decide) (by decide) (by decide), ?_⟩
  intro s f page serves halted still outside flushed alone whole own named agreed scrub scrubbed lost queries report waiting fetched
    ring op ok step restart
  obtain ⟨h, out, pcie, fuel, fetched', queries', polls⟩ := devDoorbellPoll_halted (d := entry s) page serves halted outside flushed
    alone own queries fetched ring op ok step restart
  obtain ⟨ops, rest⟩ := runOps_restarts (fuel := fuel) (f := f) (x := inHalt h out pcie [.restart f, .haltEnd, .finish] (entry s)) rfl
    flushed alone own (serving_iff.1 serves).2.2.1 named agreed scrub scrubbed lost fetched' queries'
  refine ⟨_, lift_of_eq polls, rest.going, rest.gen, ?_, rest.restarts, rest.fetched, rest.mem, rest.reqs⟩
  rw [← step]
  exact rest.number

end Sys2Proof.Machine
end

section
/-!
PROOF. Chunks that are sent again (R292, R293, R309): the statement fails for an ORED_OPEN, of which nothing is kept.
-/
namespace Sys2Proof.Machine

/-- An ORED_OPEN without content, on port 0, that does not wait. -/
def openChunk : TxChunk :=
  { chunk := {
      dst := 0, ftype := 0x10, vc := 1, gen := 0, group := 0, rank := 0, entry := 0, flags := 0#7, step := 0, piece := 0, index := 0
      phase := 0, agree := 0#64, bytes := [] }
    port := 0, resends := 0, waiting := false, again := false }

/-- A serving device whose one chunk is an ORED_OPEN. -/
def opensPlane : Device :=
  { deviceAtPowerOn with
    boot := { deviceAtPowerOn.boot with phase := .running }
    cfgLocked := true
    fab := { deviceAtPowerOn.fab with chunks := [(0, openChunk)] } }

/-- Refutes O53: the statement does not leave out an ORED_OPEN, of which nothing is kept once it has left again. -/
theorem not_resendsLeave : ¬ Obligations.ResendsLeave := by
  intro holds
  have still : NoneReady opensPlane := fun c mem => by
    obtain rfl := List.mem_singleton.1 (show c ∈ [(0, openChunk)] from mem)
    exact ⟨rfl, rfl⟩
  have kept := ((holds { dev := opensPlane, pending := [] } (by decide +kernel) (by decide +kernel)).1 0 openChunk rfl (by decide)
    (by decide) (by decide) (by decide +kernel) still).2 (by decide +kernel)
  obtain ⟨t, ran, -, chunks, -⟩ := kept
  have gone : (devTransportRetryTimeout 0 (entry { dev := opensPlane, pending := [] })).fab.chunks = [] := by decide +kernel
  have left : t.dev.fab.chunks = [] := (congrArg (fun d : Device => d.fab.chunks) (lift_next _ _ _ ran).1).trans gone
  exact absurd (chunks.symm.trans left) (by decide +kernel)

end Sys2Proof.Machine
end

section
/-!
PROOF. Acknowledgements (R292, R298, R338, R416).
-/
namespace Sys2Proof.Machine

variable {d : Device} {f : Frame} {port : Fin 9}

/-! ### The acknowledged chunk of one of the exports leaves the other chunks as they are -/

theorem checkShip_fab (h : Nat) (d : Device) : (checkShip h d).fab = d.fab := by
  have closes (x : Shipping) (e : ExportEnd) : (closeShip x e d).fab = d.fab := by
    unfold closeShip
    split
    · rfl
    · exact (queued_complete ..).fab
  unfold checkShip
  split
  · rfl
  · split
    · rfl
    · split
      · split
        · rfl
        · exact closes ..
      · split
        · exact closes ..
        · rfl

theorem exportAcked_fab (list gen seq : Nat) (d : Device) : (exportAcked list gen seq d).fab = d.fab := by
  unfold exportAcked
  split
  · rfl
  · dsimp only
    split
    · exact (checkShip_fab ..).trans rfl
    · rfl

theorem ownTurn_fab {g : Device → Device} (same : ∀ d, (g d).fab = d.fab) (d : Device) : (ownTurn g d).fab = d.fab := by
  have swap (d : Device) : (swapRoles d).fab = d.fab := by
    unfold swapRoles
    split <;> rfl
  unfold ownTurn
  split
  · exact (swap _).trans ((same _).trans (swap d))
  · exact same d

theorem devAck_particle {id : Nat} {x : TxParticle} (serves : serving d = true) (own : mirrors d = false)
    (fits : frameOk d [0, 1, 2, 3] f = true) (fabric : port.val ≠ 8) (vc : f.vc = 0)
    (named : d.fab.particles.find? (fun e => matchesParticle f e.2) = some (id, x)) :
    devAck port f d = { d with fab := { d.fab with particles := Tab.drop d.fab.particles id } } := by
  rw [devAck, if_neg (by simp [fabricRuns, serves, own]), if_neg (by simp [fits]), if_neg fabric, if_pos vc, named]

theorem devAck_ackChunk (serves : serving d = true) (own : mirrors d = false) (fits : frameOk d [0, 1, 2, 3] f = true)
    (fabric : port.val ≠ 8) (vc : f.vc ≠ 0) : devAck port f d = ackChunk port.val f d := by
  rw [devAck, if_neg (by simp [fabricRuns, serves, own]), if_neg (by simp [fits]), if_neg fabric, if_neg vc]

theorem ackChunk_own {p id : Nat} {x : TxChunk} (answers : answersOwn d f = true) (found : findChunk d p f = some (id, x)) :
    ackChunk p f d = if x.chunk.ftype = 0x20 then serve (ownTurn (exportAcked x.chunk.entry x.chunk.gen x.chunk.step) (dropChunk id d))
      else settle (dropChunk id d) := by
  have fresh : ¬ (decide (f.vc = 2) && !ownAnswer d f) = true := by
    unfold answersOwn at answers
    split at answers
    · simp [answers]
    next other => simp [other]
  have fresh' : ¬ (decide (f.vc ≠ 2) && staleFrame d f) = true := by
    unfold answersOwn at answers
    split at answers
    next vc => simp [vc]
    · simpa using fun _ => answers
  rw [ackChunk, if_neg fresh, if_neg fresh', found]

/-- Where no other chunk is to leave, an acknowledged chunk of one of the exports lets none leave. -/
theorem devAck_chunk {id : Nat} {x : TxChunk} (serves : serving d = true) (own : mirrors d = false)
    (fits : frameOk d [0, 1, 2, 3] f = true) (fabric : port.val ≠ 8) (vc : f.vc ≠ 0) (answers : answersOwn d f = true)
    (found : findChunk d port.val f = some (id, x)) (still : NoneReady d) : devAck port f d =
      if x.chunk.ftype = 0x20 then ownTurn (exportAcked x.chunk.entry x.chunk.gen x.chunk.step) (dropChunk id d)
      else settle (dropChunk id d) := by
  have idle : serve (ownTurn (exportAcked x.chunk.entry x.chunk.gen x.chunk.step) (dropChunk id d)) =
      ownTurn (exportAcked x.chunk.entry x.chunk.gen x.chunk.step) (dropChunk id d) := by
    refine serve_idle _ fun c mem => ?_
    rw [ownTurn_fab fun d => exportAcked_fab _ _ _ d] at mem
    exact still c (List.mem_filter.1 mem).1
  rw [devAck_ackChunk serves own fits fabric vc, ackChunk_own answers found, idle]

theorem devAck_twin (serves : serving d = true) (fits : frameOk d [0, 1, 2, 3] f = true) (gen : f.gen = d.twin.attachGen) :
    devAck 8 f d = { d with twin := { d.twin with unacked := d.twin.unacked.filter fun u =>
      !(u.chunk.piece = f.piece && u.chunk.index = f.index) } } := by
  have twin : ((8 : Fin 9) : Nat) = 8 := rfl
  rw [devAck, if_neg (by simp [fabricRuns, serves, twin]), if_neg (by simp [fits]), if_pos twin, twinAcked,
    if_neg (by simp [gen])]
  rfl

theorem execAck_fabric {s : State} {page : Option Doorbell} {d' : Device} (fabric : port.val ≠ 8)
    (acts : devAck port f (entry s) = d') : exec (.ack port f page) s = .next { s with dev := d' } := by
  refine lift_of_eq (f := fun d => if port.val = 8 then progressDone (beginBoundary page) (devAck port f d) else devAck port f d)
    (s := s) ?_
  rw [if_neg fabric, acts]

theorem execAck_twin {s : State} {page : Option Doorbell} {d' : Device} (acts : devAck 8 f (entry s) = d')
    (working : d'.job.localDone = false) : exec (.ack 8 f page) s = .next { s with dev := d' } := by
  refine lift_of_eq (f := fun d => if (8 : Fin 9).val = 8 then progressDone (beginBoundary page) (devAck 8 f d) else devAck 8 f d)
    (s := s) ?_
  rw [if_pos (show ((8 : Fin 9) : Nat) = 8 from rfl), acts]
  exact progressDone_notDone working

theorem answersOwn_entry (s : State) : answersOwn (entry s) f = answersOwn s.dev f := by
  have swap : ownAnswer (entry s) f = ownAnswer s.dev f := by
    unfold ownAnswer
    rw [show (entry s).onTaken = s.dev.onTaken from rfl]
    split
    · unfold swapRoles
      rw [show (entry s).twin = s.dev.twin from rfl]
      split <;> rfl
    · rfl
  rw [answersOwn, answersOwn, swap]
  rfl

/-- Settles O52: an acknowledgement ends the transport of what it names. -/
theorem acksEndTransport : Obligations.AcksEndTransport := by
  intro s port f page serves own fits
  have fabric : (port.castLE (by decide) : Fin 9).val ≠ 8 := Nat.ne_of_lt port.isLt
  refine ⟨fun id x vc named => ?_, fun id x vc answers found still => ?_, fun gen working => ?_⟩
  · exact execAck_fabric fabric (devAck_particle (d := entry s) serves own fits fabric vc named)
  · exact execAck_fabric fabric (devAck_chunk (d := entry s) serves own fits fabric vc ((answersOwn_entry s).trans answers) found still)
  · exact execAck_twin (devAck_twin (d := entry s) serves fits gen) working

end Sys2Proof.Machine
end

section
/-!
PROOF. Collectives that fail (R292, R319, R320).
-/
namespace Sys2Proof.Machine

variable {d : Device} {t : TrigEntry} {g : Nat}

/-! ### What a port that sends preserves -/

theorem nextChunk_mem {port vc id : Nat} {x : TxChunk} (next : nextChunk d port vc = some (id, x)) : (id, x) ∈ d.fab.chunks := by
  have all (cs : List (Nat × TxChunk)) (best : Option (Nat × TxChunk)) (sub : ∀ c ∈ cs, c ∈ d.fab.chunks)
      (held : ∀ c, best = some c → c ∈ d.fab.chunks) : ∀ c, cs.foldl (fun best e =>
        match best with
        | none => some e
        | some b => if vc = 1 && decide (turnOf d port e.2.chunk < turnOf d port b.2.chunk) then some e else some b) best = some c →
          c ∈ d.fab.chunks := by
    induction cs generalizing best with
    | nil => exact held
    | cons e cs ih =>
      refine ih _ (fun c mem => sub c (List.mem_cons_of_mem _ mem)) fun c is => ?_
      have first := sub e List.mem_cons_self
      cases best with
      | none => cases is; exact first
      | some b =>
        dsimp only at is
        split at is
        · cases is; exact first
        · cases is; exact held _ rfl
  exact all _ none (fun c mem => (List.mem_filter.1 mem).1) (fun c is => by cases is) _ next

/-- What no frame, no chunk that leaves and no turn of a port changes holds when the ports have sent. -/
theorem serve_preserves {P : Device → Prop} (emits : ∀ port ftype f d, P d → P (emit (.frame port ftype f) d))
    (takes : ∀ id x d, (id, x) ∈ d.fab.chunks → P d → P (takeChunk id x d))
    (turns : ∀ turn d, P d → P { d with fab := { d.fab with turn := turn } }) (holds : P d) : P (serve d) := by
  have loop (fuel port : Nat) (r : PortRun) (d : Device) (holds : P d) : P (serveLoop fuel port r d) := by
    induction fuel generalizing r d with
    | zero => exact holds
    | succ fuel ih =>
      simp only [serveLoop]
      split
      · split
        · exact ih _ _ (emits _ _ _ _ holds)
        · exact ih _ _ holds
      · split
        next next => exact ih _ _ (takes _ _ _ (nextChunk_mem next) holds)
        next =>
          split
          · exact turns _ _ holds
          · exact ih _ _ holds
  have port (d : Device) (p : Nat) (holds : P d) : P (servePort d p) := by
    simp only [servePort]
    split
    · exact holds
    · exact loop _ _ _ _ holds
  have ports (ps : List Nat) (d : Device) (holds : P d) : P (ps.foldl servePort d) := by
    induction ps generalizing d with
    | nil => exact holds
    | cons p ps ih => exact ih _ (port d p holds)
  unfold serve
  split
  · exact holds
  · exact ports _ d holds

/-- Each chunk satisfies `Q`. -/
def ChunksAre (Q : Chunk → Prop) (d : Device) : Prop := ∀ c ∈ d.fab.chunks, Q c.2.chunk

theorem mem_put {α : Type} {t : Tab α} {k : Nat} {a : α} {c : Nat × α} (mem : c ∈ Tab.put t k a) : c = (k, a) ∨ c ∈ t := by
  induction t with
  | nil => exact Or.inl (List.mem_singleton.1 mem)
  | cons x t ih =>
    simp only [Tab.put] at mem
    split at mem
    · exact (List.mem_cons.1 mem).imp_right (List.mem_cons_of_mem _)
    · rcases List.mem_cons.1 mem with rfl | mem
      · exact Or.inr List.mem_cons_self
      · exact (ih mem).imp_right (List.mem_cons_of_mem _)

theorem chunksAre_serve {Q : Chunk → Prop} (all : ChunksAre Q d) : ChunksAre Q (serve d) := by
  refine serve_preserves (P := ChunksAre Q) (fun _ _ _ _ all => all) (fun id x d mem all c kept => ?_) (fun _ _ all => all) all
  unfold takeChunk at kept
  dsimp only at kept
  split at kept
  · exact all c (List.mem_filter.1 kept).1
  · rcases mem_put kept with rfl | kept
    · exact all (id, x) mem
    · exact all c kept

/-- No report of a failed collective has been sent. -/
def TellsNoFailure (d : Device) : Prop := ∀ b n y, .particle b n y ∈ d.out → y.type ≠ 0x10

theorem TellsNoFailure.append {e : Emission} (none' : TellsNoFailure d) (other : ∀ b n y, e = .particle b n y → y.type ≠ 0x10)
    {out : List Emission} (is : out = d.out ++ [e]) : ∀ b n y, .particle b n y ∈ out → y.type ≠ 0x10 := by
  intro b n y mem
  rw [is, List.mem_append, List.mem_singleton] at mem
  rcases mem with mem | mem
  · exact none' b n y mem
  · exact other b n y mem.symm

theorem tellsNoFailure_serve (none' : TellsNoFailure d) : TellsNoFailure (serve d) :=
  serve_preserves (P := TellsNoFailure) (fun _ _ _ _ none' => none'.append (fun _ _ _ is => by cases is) rfl) (fun _ _ _ _ none' => none')
    (fun _ _ none' => none') none'

theorem tellsNoFailure_msix (v : Nat) (none' : TellsNoFailure d) : TellsNoFailure (msix v d) := by
  have out := msix_out v d
  unfold TellsNoFailure
  split at out
  · exact none'.append (fun _ _ _ is => by cases is) out
  · rw [out]
    exact none'

theorem tellsNoFailure_postEvent (k : EventKind) (level block cell step info : Nat) (none' : TellsNoFailure d) :
    TellsNoFailure (postEvent k level block cell step info d) := by
  have pushed (q : Nat) (ws : List W64) (d : Device) (none' : TellsNoFailure d) : TellsNoFailure (pushPacket q ws d) := by
    unfold TellsNoFailure
    rw [(queued_pushPacket q ws d).out]
    exact none'
  rw [postEvent]
  split
  · exact tellsNoFailure_msix 0 (pushed _ _ _ none')
  · exact pushed _ _ _ none'

/-! ### A collective that fails -/

/-- The entry `e` has failed, no chunk of it is kept, and all else of the step of `d` is as it was. -/
structure Failing (d : Device) (e : Nat) (u : Device) : Prop where
  failed : (runOf u e).failed = true
  chunks : ChunksAre (fun c => c.entry ≠ e ∨ c.ftype = 0x20) u
  mem : u.mem = d.mem
  role : u.role = d.role
  job : u.job = d.job
  at' : StepAtMember u = true

/-- The entry `e` has failed, and the step has faulted with it. -/
structure Ended (d : Device) (e : Nat) (u : Device) : Prop where
  failed : (runOf u e).failed = true
  faulted : u.job.faulted = true
  chunks : ChunksAre (fun c => c.entry ≠ e ∨ c.ftype = 0x20) u
  mem : u.mem = d.mem
  role : u.role = d.role
  number : u.job.number = d.job.number

theorem Ended.serve {u : Device} (h : Ended d g u) : Ended d g (serve u) := by
  refine ⟨?_, by simpa using h.faulted, chunksAre_serve h.chunks, by simpa using h.mem, by simpa using h.role, by simpa using h.number⟩
  rw [runOf, serve_fab_entries]
  exact h.failed

theorem chunksAre_takeOut (e : Nat) (d : Device) :
    ChunksAre (fun c => c.entry ≠ e ∨ c.ftype = 0x20) (takeOut (fun c => c.chunk.entry = e && c.chunk.ftype ≠ 0x20) d) := by
  intro c mem
  have kept := (List.mem_filter.1 mem).2
  by_cases named : c.2.chunk.entry = e
  · exact Or.inr (by simpa [named] using kept)
  · exact Or.inl named

theorem stepAtMember_particles {a b : Device} (at' : StepAtMember a = true) (sent : Particles a b) : StepAtMember b = true := by
  rw [sent]
  exact at'

/-- The failure of an entry before the step faults. -/
theorem failCollective_member {reason : Nat} {tell : Bool} (at' : StepAtMember d = true) (entry : trigOf d g = some t)
    (runs : (runOf d g).failed = false) : ∃ x, Failing d g x ∧ (tell = false → x.out = d.out) ∧
      failCollective g reason tell d = if reason = reasonAgreement then agreementError g x else stepFault 0 x := by
  let y := setRun g { runOf d g with failed := true } d
  obtain ⟨x, sent, quiet, fails⟩ : ∃ x, Particles y x ∧ (tell = false → x = y) ∧ failCollective g reason tell d =
      if reason = reasonAgreement then agreementError g (takeOut (fun c => c.chunk.entry = g && c.chunk.ftype ≠ 0x20) x)
      else stepFault 0 (takeOut (fun c => c.chunk.entry = g && c.chunk.ftype ≠ 0x20) x) := by
    rw [failCollective, entry]
    dsimp only
    rw [if_neg (by simp [runs])]
    cases tell with
    | false => exact ⟨y, rfl, fun _ => rfl, rfl⟩
    | true =>
      cases group : groupOf y t.group with
      | none => exact ⟨y, rfl, fun _ => rfl, rfl⟩
      | some gr =>
        refine ⟨_, ?_, fun no => absurd no (by decide), rfl⟩
        exact particles_foldl (fun _ _ => particles_sendParticle ..) _ y
  refine ⟨_, ⟨?_, chunksAre_takeOut g x, sent.mem, sent.role, sent.job, ?_⟩, fun no => by rw [quiet no]; rfl, fails⟩
  · change (Tab.getD x.fab.entries g EntryRun.new).failed = true
    rw [sent.entries]
    exact congrArg EntryRun.failed (getD_put_self ..)
  · have kept : StepAtMember x = true := stepAtMember_particles (a := y) at' sent
    exact kept

theorem Failing.stepFault {u : Device} (h : Failing d g u) : Ended d g (stepFault 0 u) := by
  have error := stepError_member (level := 3) (block := 0xFF) (cell := 0xF) (info := 0) (named := []) h.at'
  have event := postEvent_eq .stepFault 3 0xFF 0xF u.job.number 0 u
  unfold Machine.stepFault
  rw [error]
  generalize postEvent .stepFault 3 0xFF 0xF u.job.number 0 u = e at event
  have number : u.job.number = d.job.number := congrArg Job.number h.job
  rw [event]
  exact ⟨h.failed, rfl, h.chunks, h.mem, h.role, number⟩

theorem Failing.agreementError {u : Device} (h : Failing d g u) : Ended d g (agreementError g u) := by
  have event := deviceEvent_eq .agreement u.job.number g u
  unfold Machine.agreementError
  dsimp only
  generalize deviceEvent .agreement u.job.number g u = e at event ⊢
  have at' : StepAtMember { e with job := { e.job with agreement := true } } = true := by
    rw [event]
    exact h.at'
  have number : u.job.number = d.job.number := congrArg Job.number h.job
  rw [faultStep_member at', event]
  exact ⟨h.failed, rfl, h.chunks, h.mem, h.role, number⟩

/-- A collective of the step at a member that fails ends with its step. -/
theorem failNow_ends {reason : Nat} {tell : Bool} (at' : StepAtMember d = true) (entry : trigOf d g = some t)
    (runs : (runOf d g).failed = false) : Ended d g (failNow g reason tell d) := by
  obtain ⟨x, failing, -, fails⟩ := failCollective_member (reason := reason) (tell := tell) at' entry runs
  refine Ended.serve ?_
  rw [fails]
  split
  · exact failing.agreementError
  · exact failing.stepFault

/-- A member that has been told of a failure tells no other. -/
theorem failNow_tellsNone {reason : Nat} (at' : StepAtMember d = true) (entry : trigOf d g = some t)
    (runs : (runOf d g).failed = false) (none' : TellsNoFailure d) : TellsNoFailure (failNow g reason false d) := by
  obtain ⟨x, failing, quiet, fails⟩ := failCollective_member (reason := reason) (tell := false) at' entry runs
  have none'' : TellsNoFailure x := by
    unfold TellsNoFailure
    rw [quiet rfl]
    exact none'
  have fault (y : Device) : ∀ b n z, Emission.particle y.fab.up (partitionNode y 0) (faultParticle y) = .particle b n z → z.type ≠ 0x10 :=
    fun b n z is => by
      cases is
      exact (by decide : (2 : Nat) ≠ 0x10)
  refine tellsNoFailure_serve ?_
  rw [fails]
  split
  · unfold agreementError
    dsimp only
    have event := deviceEvent_eq .agreement x.job.number g x
    have told : TellsNoFailure (deviceEvent .agreement x.job.number g x) := tellsNoFailure_postEvent _ _ _ _ _ _ none''
    generalize deviceEvent .agreement x.job.number g x = e at event told ⊢
    rw [faultStep_member (by rw [event]; exact failing.at')]
    exact told.append (fault { e with job := { e.job with agreement := true } }) rfl
  · unfold stepFault
    rw [stepError_member failing.at']
    have told : TellsNoFailure (postEvent .stepFault 3 0xFF 0xF x.job.number 0 x) := tellsNoFailure_postEvent _ _ _ _ _ _ none''
    exact told.append (fault x) rfl

/-! ### The three reports of a failure -/

theorem devCollectiveProgressTimeout_fails {e : Fin 4096} (at' : StepAtMember d = true) (runs : (runOf d e.val).failed = false)
    (fired : (runOf d e.val).fired = true) (working : (runOf d e.val).complete = false) (asked : (runOf d e.val).method ≠ .asking) :
    devCollectiveProgressTimeout e d = failNow e.val reasonTimeout true d := by
  obtain ⟨serves, flies, -⟩ := stepAtMember_iff.1 at'
  exact if_pos (by simp [fabricRuns, serves, flies, fired, working, runs, asked])

theorem devTransportRetryTimeout_fails {id : Nat} {x : TxChunk} (serves : serving d = true) (found : Tab.find d.fab.chunks id = some x)
    (left : x.waiting = false) (kind : x.chunk.ftype = 0x01 ∨ x.chunk.ftype = 0x13) (spent : regField d .fabRetry 24 4 ≤ x.resends) :
    devTransportRetryTimeout id d = failNow x.chunk.entry reasonTransport true (dropChunk id d) := by
  rw [devTransportRetryTimeout, found]
  dsimp only
  rw [if_neg (by simp [fabricRuns, serves, left]), if_neg (Nat.not_lt.2 spent), transportFailure,
    if_neg (by omega), if_neg (by omega)]

theorem devCollFail_fails {pin : ParticleIn} {p : Particle} (at' : StepAtMember d = true) (fresh : Fresh d pin p 0x10)
    (step : p.step = d.job.number) (entry : trigOf d p.entry = some t) (group : p.group = t.group)
    (gen : (groupOf d p.group).map (·.gen) = some p.gen) :
    devCollFail pin d = failNow p.entry p.status false (received pin p d) := by
  obtain ⟨serves, flies, -, -, -, -, -, alone, -, -⟩ := stepAtMember_iff.1 at'
  rw [devCollFail, if_neg (by simp [fabricRuns, serves])]
  refine receiveParticle_acts (mirrors_unpaired alone) fresh ?_
  simp only [flies, step, gen, entry, Option.any_some, Bool.and_eq_true, decide_eq_true_eq]
  exact ⟨⟨⟨trivial, trivial⟩, trivial⟩, group.symm⟩

/-- Settles O56: a collective that fails ends its step. -/
theorem collectivesFail : Obligations.CollectivesFail := by
  intro s e t at' trig runs
  refine ⟨fun fired working asked => ?_, fun id x found entry left kind spent => ?_, fun pin p fresh step entry group gen => ?_⟩
  · have ended := failNow_ends (d := Sys2Proof.entry s) (reason := reasonTimeout) (tell := true) at' trig runs
    exact ⟨_, lift_of_eq (devCollectiveProgressTimeout_fails (d := Sys2Proof.entry s) at' runs fired working asked), ended.failed,
      ended.faulted, ended.chunks, ended.mem, ended.role, ended.number⟩
  · have ended := failNow_ends (d := dropChunk id (Sys2Proof.entry s)) (reason := reasonTransport) (tell := true) at' trig runs
    have fails := devTransportRetryTimeout_fails (d := Sys2Proof.entry s) (stepAtMember_iff.1 at').1 found left kind spent
    rw [entry] at fails
    exact ⟨_, lift_of_eq fails, ended.failed, ended.faulted, ended.chunks, ended.mem, ended.role, ended.number⟩
  · have ended := failNow_ends (d := received pin p (Sys2Proof.entry s)) (reason := p.status) (tell := false) at' trig runs
    have quiet := failNow_tellsNone (d := received pin p (Sys2Proof.entry s)) (reason := p.status) at' trig runs
      (TellsNoFailure.append (d := Sys2Proof.entry s) (fun _ _ _ mem => by cases mem) (fun _ _ _ is => by cases is) rfl)
    have fails := devCollFail_fails (d := Sys2Proof.entry s) at' fresh step (entry ▸ trig) group gen
    rw [entry] at fails
    exact ⟨_, lift_of_eq fails, ⟨ended.failed, ended.faulted, ended.chunks, ended.mem, ended.role, ended.number⟩, quiet⟩

end Sys2Proof.Machine
end

section
/-!
PROOF. Reductions (R309, R315): the statement fails where a dispatch whose counts exceed CAP asks the switch.
-/
namespace Sys2Proof.Machine

/-- A dispatch with its counts first that keeps no place for a row. -/
def fullDispatch : TrigEntry :=
  { op := 6, group := 0, ored := true, vc := 1, redMax := false, trig := 0, done := 0, doneEn := false, thresh := 0, gate := 0
    type := { code := .fp32, scaled := false }, dtype := { code := .fp32, scaled := false }, src := 0, dst := 0, aux := 0, n := 0
    cap := 0, nrows := 0, peer := 0, bpm := 1, routes := 0 }

/-- A sentence of this dispatch alone. -/
def dispatchSentence : Sentence :=
  { dst := 0, len := 0, clauses := [], trig := [fullDispatch], samples := [], buckets := [], plan := [], pools := [], dir := 0
    dirLayers := 0, dirHeads := 0, fwArea := 0, fwSize := 0, digest := [] }

/-- The dispatch has fired, asks the planes, and has been told of one row by its only member. -/
def askingRun : EntryRun :=
  { EntryRun.new with fired := true, method := .asking, counts := [(0, [1#8, 0#8, 0#8, 0#8])] }

/-- A serving device with the dispatch in flight. -/
def asksPlanes : Device :=
  { deviceAtPowerOn with
    boot := { deviceAtPowerOn.boot with phase := .running }
    cfgLocked := true
    loaded := { deviceAtPowerOn.loaded with sentence := some dispatchSentence }
    role := { deviceAtPowerOn.role with
      groups := [(0, { gen := 0, members := 1, myRank := 0, nodesAt := 0, nodes := [0], ctimeout := 0 })] }
    job := { deviceAtPowerOn.job with inFlight := true }
    fab := { deviceAtPowerOn.fab with entries := [(0, askingRun)] } }

/-- A plane grants. -/
def grantFrame : Frame :=
  { fcsOk := true, etype := regField asksPlanes .fabFrame 0 16, bytesOnWire := 74, version := 1, rsvZero := true, vc := 1, len := 8
    src := 0, dst := 0, gen := 0, group := 0, frag := 0, nfrag := 0, rank := 0, entry := 0, flags := 0#7
    step := asksPlanes.job.number, piece := 0, index := 0, phase := 0, crc := 0, agree := 0#64, payload := List.replicate 8 0#8 }

/-- Refutes O55: an answer that is noted is not all that happens where the counts of a dispatch that asks the switch exceed CAP; the
entry then fails, and its step with it. -/
theorem not_reductionsProceed : ¬ Obligations.ReductionsProceed := by
  intro holds
  have serves : serving asksPlanes = true := by decide +kernel
  have own : mirrors asksPlanes = false := by decide +kernel
  have fits : frameOk asksPlanes [1] grantFrame = true := by decide +kernel
  have fresh : staleFrame asksPlanes grantFrame = false := by decide +kernel
  have still : NoneReady asksPlanes := fun c mem => absurd mem List.not_mem_nil
  have noted := ((holds { dev := asksPlanes, pending := [] } fullDispatch _ serves ⟨rfl, rfl, rfl, rfl⟩ rfl rfl).2.1 0 grantFrame own rfl rfl rfl
    (by decide) rfl fits rfl fresh still).1 (by decide)
  have fails : (devOredGrant 0 grantFrame (entry { dev := asksPlanes, pending := [] })).job.inFlight = false := by decide +kernel
  have flies := (congrArg (fun d : Device => d.job.inFlight) (lift_next _ _ _ noted).1).trans fails
  exact absurd flies (by decide +kernel)

end Sys2Proof.Machine
end

section
/-!
PROOF. Frames of a chunk that come in (R291, R309).
-/
namespace Sys2Proof.Machine

variable {d : Device} {f : Frame} {t : TrigEntry} {g : Group} {kind e members port a k : Nat} {arrive : List Byte → Device → Device}
  {dest : Dest}

/-! ### One frame -/

/-- The device that has one more frame in memory and in its receive context. -/
def gathered (kind port a : Nat) (f : Frame) (d : Device) : Device :=
  { d with
    mem := { d.mem with bytes := writeBytes d.mem.bytes (a + frameSize * f.frag) f.payload }
    work := { d.work with past := d.work.past ++ [(a + frameSize * f.frag, f.payload.length)] }
    fab := { d.fab with receive := putRx kind f (rxAdd f (rxNew port kind f)) d.fab.receive } }

theorem placeBytes_memory {off : Nat} {bs : List Byte} (some' : bs ≠ []) (inside : rangeInMap (a + off) bs.length = true)
    (clean : ErrorFree d) (none' : d.work.raced = []) : placeBytes e t members (.memory a) off bs d =
      { noteWrote (a + off) bs.length d with mem := { d.mem with bytes := writeBytes d.mem.bytes (a + off) bs } } := by
  rw [placeBytes, if_neg (by simpa using some')]
  exact workWrite_clean inside clean none'

/-- The first frame of a chunk of several frames. -/
theorem acceptFrame_waits (new : d.fab.receive.find? (matchesRx kind f) = none)
    (room : (d.fab.receive.filter fun x => x.port = port && !x.arrived).length < 2048) (some' : f.payload ≠ [])
    (inside : rangeInMap (a + frameSize * f.frag) f.payload.length = true) (clean : ErrorFree d) (none' : d.work.raced = [])
    (part : rxWhole (rxAdd f (rxNew port kind f)) = false) :
    acceptFrame kind e t members (.memory a) port f arrive d = gathered kind port a f d := by
  have room' : ¬ ((none : Option RxChunk).isNone &&
      decide (2048 ≤ (d.fab.receive.filter fun x => x.port = port && !x.arrived).length)) = true := by
    simpa using room
  rw [acceptFrame, new]
  dsimp only
  rw [if_neg (by decide), if_neg room', Option.getD_none, part, if_pos (show (!false) = true from rfl),
    placeBytes_memory some' inside clean none']
  rfl

/-- The one frame of a chunk whose CRC is wrong. -/
theorem acceptFrame_naks (new : d.fab.receive.find? (matchesRx kind f) = none)
    (room : (d.fab.receive.filter fun x => x.port = port && !x.arrived).length < 2048) (some' : f.payload ≠ [])
    (first : f.frag = 0) (only : f.nfrag = 0) (inside : rangeInMap (a + frameSize * f.frag) f.payload.length = true)
    (clean : ErrorFree d) (none' : d.work.raced = []) (bad : crc32c f.payload ≠ f.crc) :
    ∃ x, acceptFrame kind e t members (.memory a) port f arrive d = sendAnswer 0x03 port f x ∧
      x = { d with freeCtr := x.freeCtr, mem := x.mem, work := x.work, fab := { d.fab with receive := x.fab.receive } } := by
  have room' : ¬ ((none : Option RxChunk).isNone &&
      decide (2048 ≤ (d.fab.receive.filter fun x => x.port = port && !x.arrived).length)) = true := by
    simpa using room
  have whole : rxWhole (rxAdd f (rxNew port kind f)) = true := by simp [rxWhole, rxAdd, rxNew, first, only, Tab.put, Tab.find]
  have bytes : rxBytes (rxAdd f (rxNew port kind f)) = f.payload := by
    simp [rxBytes, rxAdd, rxNew, first, only, Tab.put, Tab.find, Tab.getD]
  let y : Device := { noteWrote (a + frameSize * f.frag) f.payload.length d with
    mem := { d.mem with bytes := writeBytes d.mem.bytes (a + frameSize * f.frag) f.payload } }
  have again := placeBytes_memory (d := (freeBytes f.payload.length y).2) (e := e) (t := t) (members := members) (a := a) (off := 0)
    (bs := (freeBytes f.payload.length y).1) (by simpa [freeBytes] using some') (by simpa [freeBytes, first] using inside) clean none'
  rw [acceptFrame, new]
  dsimp only
  rw [if_neg (by decide), if_neg room', Option.getD_none, whole, if_neg (by decide), bytes, if_neg bad,
    placeBytes_memory some' inside clean none', again]
  exact ⟨_, rfl, rfl⟩

/-- A frame of a chunk that has arrived. -/
theorem acceptFrame_again {x : RxChunk} (held : d.fab.receive.find? (matchesRx kind f) = some x) (arrived : x.arrived = true) :
    acceptFrame kind e t members dest port f arrive d = sendAnswer 0x02 port f d := by
  rw [acceptFrame, held]
  exact if_pos arrived

/-! ### Frames of a collective and of the switch -/

theorem devData_fabric {p : Fin 9} (serves : serving d = true) (own : mirrors d = false) (fits : frameOk d [1, 2, 3] f = true)
    (fabric : p.val ≠ 8) (fresh : staleFrame d f = false) : devData p f d = dataFrame p.val f d := by
  rw [devData, if_neg (by simp [fabricRuns, serves, own]), if_neg (by simp [fits]), if_neg fabric, if_neg (by simp [fresh])]

theorem dataFrame_known (entry : trigOf d f.entry = some t) (group : groupOf d f.group = some g) (same : t.group = f.group)
    (runs : (runOf d f.entry).failed = false) (rank : rankOfNode g f.src = some k)
    (place : dataDest t g.members g.myRank k f.phase f.piece f.index = some dest) : dataFrame port f d =
      if f.agree ≠ agreeWord t (fmtByte t.type) g.gen then
        acceptFrame 0x01 f.entry t g.members .nothing port f (chunkArrived f.entry t g k .nothing port f) d
      else acceptFrame 0x01 f.entry t g.members dest port f (chunkArrived f.entry t g k dest port f) d := by
  rw [dataFrame, entry, group]
  dsimp only
  rw [rank]
  dsimp only
  rw [if_neg (by simp [runs, same]), place]

theorem devOredResult_accepts {p : Fin 8} (serves : serving d = true) (own : mirrors d = false) (fits : frameOk d [1] f = true)
    (fresh : staleFrame d f = false) (entry : trigOf d f.entry = some t) (group : groupOf d f.group = some g) (same : t.group = f.group)
    (runs : (runOf d f.entry).failed = false) (fired : (runOf d f.entry).fired = true) (switch : (runOf d f.entry).method = .inSwitch)
    (place : resultDest t g.members g.myRank f.piece f.index = some dest) : devOredResult p f d =
      acceptFrame 0x14 f.entry t g.members dest p.val f (resultArrived f.entry p.val f) d := by
  rw [devOredResult, planeFrame, if_neg (by simp [fabricRuns, serves, own]), if_neg (by simp [fits]), if_neg (by simp [fresh]),
    resultFrame, entry, group]
  dsimp only
  rw [if_neg (by simp [runs, fired, same, switch]), if_neg (by simp [switch]), place]

/-- Settles O51: frames gather until their chunk is whole. -/
theorem framesGather : Obligations.FramesGather := by
  intro s port f t g a serves own fresh entry group same runs some' clean none' inside room
  have fabric : (port.castLE (by decide) : Fin 9).val ≠ 8 := Nat.ne_of_lt port.isLt
  refine ⟨fun k rank place fits agree new => ⟨fun part => ?_, fun only first bad alone => ?_⟩,
    fun k dest x rank place fits held arrived alone => ?_, fun fired switch place fits new part => ?_⟩
  · have known := dataFrame_known (d := Sys2Proof.entry s) (port := port.val) entry group same runs rank place
    have waits := acceptFrame_waits (d := Sys2Proof.entry s) (e := f.entry) (t := t) (members := g.members) (port := port.val)
      (arrive := chunkArrived f.entry t g k (.memory a) port.val f) new room some' inside clean none' part
    exact ⟨_, lift_of_eq ((devData_fabric (d := Sys2Proof.entry s) serves own fits fabric fresh).trans
      (known.trans ((if_neg (Classical.not_not.2 agree)).trans waits))), rfl⟩
  · have known := dataFrame_known (d := Sys2Proof.entry s) (port := port.val) entry group same runs rank place
    obtain ⟨x, naks, left⟩ := acceptFrame_naks (d := Sys2Proof.entry s) (e := f.entry) (t := t) (members := g.members) (port := port.val)
      (arrive := chunkArrived f.entry t g k (.memory a) port.val f) new room some' first only inside clean none' bad
    refine ⟨_, lift_of_eq ((devData_fabric (d := Sys2Proof.entry s) serves own fits fabric fresh).trans
      (known.trans ((if_neg (Classical.not_not.2 agree)).trans naks))), ?_⟩
    have follows : mirrors x = false := by
      rw [left]
      exact mirrors_unpaired alone
    dsimp only
    rw [sendAnswer, follows, if_neg Bool.false_ne_true, left]
    exact ⟨rfl, rfl, rfl⟩
  · have known := dataFrame_known (d := Sys2Proof.entry s) (port := port.val) entry group same runs rank place
    have again (dest : Dest) := acceptFrame_again (d := Sys2Proof.entry s) (kind := 0x01) (e := f.entry) (t := t) (members := g.members)
      (port := port.val) (dest := dest) (arrive := chunkArrived f.entry t g k dest port.val f) held arrived
    have follows : mirrors (Sys2Proof.entry s) = false := own
    have answers : dataFrame port.val f (Sys2Proof.entry s) = sendAnswer 0x02 port.val f (Sys2Proof.entry s) := by
      rw [known, again, again, ite_self]
    have sends : sendAnswer 0x02 port.val f (Sys2Proof.entry s) =
        { s.dev with out := [.frame port.val 0x02 (answerFrame s.dev f)] } := by
      rw [sendAnswer, follows]
      rfl
    exact lift_of_eq ((devData_fabric (d := Sys2Proof.entry s) serves own fits fabric fresh).trans (answers.trans sends))
  · have accepts := devOredResult_accepts (d := Sys2Proof.entry s) (p := port) serves own fits fresh entry group same runs fired switch
      place
    have waits := acceptFrame_waits (d := Sys2Proof.entry s) (e := f.entry) (t := t) (members := g.members) (port := port.val)
      (arrive := resultArrived f.entry port.val f) new room some' inside clean none' part
    exact ⟨_, lift_of_eq (accepts.trans waits), rfl⟩

end Sys2Proof.Machine
end

section
/-!
PROOF. Records and waits of the twin (R416 to R422).
-/
namespace Sys2Proof.Machine

variable {d : Device} {r : TwinRec} {act : Device → Device}

/-! ### A record is acknowledged -/

/-- From `a` to `b` nothing has changed but what has been sent, the receive contexts and the records received. -/
def Acked (a b : Device) : Prop := b = { a with
  out := b.out, fab := { a.fab with receive := b.fab.receive }, twin := { a.twin with received := b.twin.received } }

theorem acked_ackRecord (r : TwinRec) (d : Device) : Acked d (ackRecord r d) := by
  have answers (fs : List Frame) (d : Device) :
      Acked d (fs.foldl (fun d f => sendTwinAnswer 0x02 { f with src := d.twin.node } d) d) := by
    induction fs generalizing d with
    | nil => exact rfl
    | cons f fs ih =>
      have first : Acked d (sendTwinAnswer 0x02 { f with src := d.twin.node } d) := rfl
      have rest := ih (sendTwinAnswer 0x02 { f with src := d.twin.node } d)
      unfold Acked at *
      rw [List.foldl_cons, rest, first]
  unfold ackRecord
  dsimp only
  generalize List.flatMap _ _ = fs
  generalize twinChunks d false d.twin.received r = cs
  have sent := answers fs d
  generalize fs.foldl _ d = e at sent ⊢
  unfold Acked at *
  rw [sent]

/-- What an acknowledgement leaves. -/
theorem Acked.keeps {a b : Device} (h : Acked a b) : b.job = a.job ∧ b.role = a.role ∧ b.mem = a.mem ∧ b.bnd = a.bnd ∧
    b.twin.state = a.twin.state ∧ b.twin.mode = a.twin.mode ∧ b.twin.primary = a.twin.primary ∧ b.twin.shadow = a.twin.shadow ∧
    b.twin.parked = a.twin.parked ∧ b.twin.synced = a.twin.synced := by
  rw [h]
  exact ⟨rfl, rfl, rfl, rfl, rfl, rfl, rfl, rfl, rfl, rfl⟩

theorem Acked.mirrors {a b : Device} (h : Acked a b) : mirrors b = mirrors a := by
  rw [h]
  rfl

theorem Acked.mirrorSide {a b : Device} (h : Acked a b) : mirrorSide b = mirrorSide a := by
  rw [h]
  rfl

theorem receiveTwin_acts (serves : serving d = true) (pair : pairExists d = true) :
    receiveTwin d.twin.attachGen r act d = act (ackRecord r d) := by
  rw [receiveTwin, if_neg (by simp [serves]), if_neg (by simp [pair])]

theorem receiveTwin_stale {k : Nat} (serves : serving d = true) (other : k ≠ d.twin.attachGen) :
    receiveTwin k r act d = countStale d := by
  rw [receiveTwin, if_neg (by simp [serves]), if_pos (by simp [other])]

/-! ### Records by their kind -/

theorem devHello_notes {h : Hello} (serves : serving d = true) (attaches : d.twin.state = .attaching)
    (waits : d.twin.mode = 2 → d.twin.primary = false → inBoundary d = true) : devHello d.twin.attachGen h d =
      { ackRecord (.hello h) d with twin := { (ackRecord (.hello h) d).twin with peerHello := some h } } := by
  have keeps := (acked_ackRecord (.hello h) d).keeps
  refine (receiveTwin_acts serves (by simp [pairExists, attaches])).trans ?_
  generalize ackRecord (.hello h) d = e at keeps ⊢
  obtain ⟨-, -, -, bnd, state, mode, primary, -⟩ := keeps
  have inside : inBoundary { e with twin := { e.twin with peerHello := some h } } = inBoundary d := by
    rw [inBoundary, inBoundary, ← bnd]
  dsimp only
  rw [if_neg (by simp [state, attaches]), inside, mode, primary]
  refine if_neg ?_
  simp only [Bool.and_eq_true, decide_eq_true_eq, Bool.not_eq_true']
  rintro ⟨⟨two, secondary⟩, outside⟩
  rw [waits two secondary] at outside
  exact Bool.noConfusion outside

theorem devSync_takes {x : SyncRec} (serves : serving d = true) (syncs : d.twin.state = .syncing) (mode : d.twin.mode = 1)
    (first : d.twin.synced = false) : devSync d.twin.attachGen x d = takeSync x (ackRecord (.sync x) d) := by
  obtain ⟨-, -, -, -, -, mode', -, -, -, synced⟩ := (acked_ackRecord (.sync x) d).keeps
  refine (receiveTwin_acts serves (by simp [pairExists, syncs])).trans ?_
  rw [if_neg (by simp [synced, first]), if_pos (mode'.trans mode)]

/-- The state of the twin that fits becomes the shadow (R418). -/
theorem takeSync_shadow {x : SyncRec} (fits : bytesOfUses (roleUses { d with role := x.role } x.role).eraseDups ≤ shadowSize d) :
    let t := takeSync x d
    t.twin.synced = true ∧ t.role = d.role ∧ t.job = d.job ∧ ∃ y, t.twin.shadow = some y ∧ y.base = x.step ∧ y.step = none ∧
      y.records = x.records ∧ y.results = [] := by
  rw [takeSync]
  dsimp only
  rw [if_neg (Nat.not_lt.2 fits)]
  exact ⟨rfl, rfl, rfl, _, rfl, rfl, rfl, rfl, rfl⟩

theorem devResult_keeps {x : TwinResult} {y : Shadow} {page : Option Doorbell} (serves : serving d = true)
    (pair : d.twin.state = .paired) (mode : d.twin.mode = 1) (shadow : d.twin.shadow = some y) :
    devResult d.twin.attachGen x page d = { ackRecord (.result x) d with twin := { (ackRecord (.result x) d).twin with
      shadow := some { y with results := (y.results.filter (·.step ≠ x.step)) ++ [x] } } } := by
  obtain ⟨-, -, -, -, -, mode', -, shadow', -⟩ := (acked_ackRecord (.result x) d).keeps
  refine (receiveTwin_acts serves (by simp [pairExists, pair])).trans ?_
  dsimp only
  rw [if_pos (mode'.trans mode), shadow'.trans shadow]
  rfl

theorem devBoundary_orders {x : BoundaryRec} {page : Option Doorbell} (serves : serving d = true) (mirror : d.twin.state = .mirror)
    (mode : d.twin.mode = 2) (secondary : d.twin.primary = false) (idle : d.job.inFlight = false) :
    devBoundary d.twin.attachGen x page d = { ackRecord (.boundary x) d with twin := { (ackRecord (.boundary x) d).twin with
      orders := (ackRecord (.boundary x) d).twin.orders ++ [x] } } := by
  obtain ⟨job, -, -, -, -, mode', primary, -⟩ := (acked_ackRecord (.boundary x) d).keeps
  refine (receiveTwin_acts serves (by simp [pairExists, mirror])).trans ?_
  dsimp only
  rw [if_neg (by simp [mode', mode]), if_neg (by simp [primary, secondary])]
  refine progressDone_idle ?_
  dsimp only
  rw [job]
  exact idle

theorem devOrder_notes {n : Nat} {items : List LogItem} (serves : serving d = true) (mirror : d.twin.state = .mirror)
    (idle : d.job.inFlight = false) : devOrder d.twin.attachGen n items d = { ackRecord (.order n items) d with
      twin := { (ackRecord (.order n items) d).twin with mirrorStart := some (n, items) } } := by
  have acked := acked_ackRecord (.order n items) d
  have side : Machine.mirrorSide (ackRecord (.order n items) d) = true := acked.mirrorSide.trans (by simp [Machine.mirrorSide, mirror])
  have idle' : (ackRecord (.order n items) d).job.inFlight = false := (congrArg Job.inFlight acked.keeps.1).trans idle
  refine (receiveTwin_acts serves (by simp [pairExists, mirror])).trans ?_
  dsimp only
  rw [if_neg (by simp [side]), if_neg (by simp [idle'])]

theorem devForward_forwards {result : Bool} {port : Fin 8} {f : Frame} (serves : serving d = true) (mirror : d.twin.state = .mirror)
    (whole : d.twin.parked = none) (flies : d.job.inFlight = true) (step : f.step = d.job.number) (gen : f.gen ≤ d.job.gen) :
    devForward d.twin.attachGen result port f d =
      if result then resultFrame port.val f (ackRecord (.forward result port.val f) d)
      else dataFrame port.val f (ackRecord (.forward result port.val f) d) := by
  have acked := acked_ackRecord (.forward result port.val f) d
  rw [devForward, if_neg (by simp [flies, step])]
  refine (receiveTwin_acts serves (by simp [pairExists, mirror])).trans ?_
  generalize ackRecord (.forward result port.val f) d = e at acked ⊢
  have follows : Machine.mirrors e = true := acked.mirrors.trans (by simp [Machine.mirrors, Machine.mirrorSide, mirror, whole])
  have current : (f.group = 0 && e.job.gen < f.gen) = false := by
    rw [acked.keeps.1]
    simp [Nat.not_lt.2 gen]
  rw [follows, if_pos rfl, forwarded, current]
  rfl

/-! ### A DETACH -/

/-- A DETACH that a device gets in no step. -/
theorem devDetach_idle {page : Option Doorbell} {e : Device} (serves : serving d = true) (pair : pairExists d = true)
    (idle : e.job.inFlight = false)
    (acts : (if mirrors (ackRecord .detach d) && !inBoundary (ackRecord .detach d) then cleanDetach (ackRecord .detach d)
      else if (ackRecord .detach d).twin.state = .paired then
        if (takeFree (ackRecord .detach d)).1 % 2 = 0 then
          { (takeFree (ackRecord .detach d)).2 with twin := { (takeFree (ackRecord .detach d)).2.twin with detachNote := true } }
        else faultDetach .unpaired false (takeFree (ackRecord .detach d)).2
      else { ackRecord .detach d with twin := { (ackRecord .detach d).twin with detachNote := true } }) = e) :
    devDetach d.twin.attachGen page d = e := by
  refine (receiveTwin_acts serves pair).trans ?_
  dsimp only
  rw [acts]
  exact progressDone_idle idle

theorem devDetach_notes {page : Option Doorbell} (serves : serving d = true) (idle : d.job.inFlight = false)
    (state : d.twin.state = .attaching ∨ d.twin.state = .mirrorPrimary) : devDetach d.twin.attachGen page d =
      { ackRecord .detach d with twin := { (ackRecord .detach d).twin with detachNote := true } } := by
  have acked := acked_ackRecord .detach d
  obtain ⟨job, -, -, -, state', -⟩ := acked.keeps
  have alone : mirrors (ackRecord .detach d) = false := acked.mirrors.trans (by
    rcases state with state | state <;> simp [Machine.mirrors, Machine.mirrorSide, state])
  refine devDetach_idle serves (by rcases state with state | state <;> simp [pairExists, state]) ?_ ?_
  · exact (congrArg Job.inFlight job).trans idle
  · rw [alone, Bool.false_and, if_neg Bool.false_ne_true, if_neg ?_]
    rw [state']
    rcases state with state | state <;> simp [state]

theorem devDetach_ends {page : Option Doorbell} (serves : serving d = true) (idle : d.job.inFlight = false)
    (mirror : d.twin.state = .mirror) (whole : d.twin.parked = none) (outside : inBoundary d = false) :
    devDetach d.twin.attachGen page d = retireMirror true (dropTwin .unpaired (ackRecord .detach d)) := by
  have acked := acked_ackRecord .detach d
  obtain ⟨job, -, -, bnd, state, -⟩ := acked.keeps
  have follows : mirrors (ackRecord .detach d) = true := acked.mirrors.trans (by
    simp [Machine.mirrors, Machine.mirrorSide, mirror, whole])
  have outside' : inBoundary (ackRecord .detach d) = false := by
    rw [inBoundary, bnd]
    exact outside
  refine devDetach_idle serves (by simp [pairExists, mirror]) ((congrArg Job.inFlight job).trans idle) ?_
  rw [follows, outside', if_pos (by rfl), cleanDetach, state, mirror]
  dsimp only
  rw [follows]

/-- A fault ends a pair, with an event. -/
theorem faultDetach_unpaired (pair : mirrors d = false) : ∃ queues slabs out pcie, faultDetach .unpaired false d =
    { dropTwin .unpaired d with queues := queues, slabs := slabs, out := out, pcie := pcie } := by
  have event := deviceEvent_eq .twin d.job.number (twinCode .unpaired + 2 ^ 16 * (shadowStep d).getD 0) (dropTwin .unpaired d)
  have told : faultDetach .unpaired false d =
      deviceEvent .twin d.job.number (twinCode .unpaired + 2 ^ 16 * (shadowStep d).getD 0) (dropTwin .unpaired d) := by
    rw [faultDetach, pair]
    rfl
  exact ⟨_, _, _, _, told.trans event⟩

/-- A DETACH between paired twins is noted, or ends the pair. -/
theorem devDetach_paired {page : Option Doorbell} (serves : serving d = true) (idle : d.job.inFlight = false)
    (pair : d.twin.state = .paired) :
    let e := devDetach d.twin.attachGen page d
    e.role = d.role ∧ e.mem = d.mem ∧ e.job = d.job ∧ ((e.twin.state = .paired ∧ e.twin.detachNote = true) ∨
      (e.twin.state = .unpaired ∧ e.twin.shadow = none ∧ e.twin.unacked = [])) := by
  have acked := acked_ackRecord .detach d
  have exists' : pairExists d = true := by simp [pairExists, pair]
  have acts := fun still => devDetach_idle (page := page) serves exists' still rfl
  generalize ackRecord .detach d = e at acked acts
  obtain ⟨job, role, mem, -, state, -⟩ := acked.keeps
  have alone : mirrors e = false := acked.mirrors.trans (mirrors_paired pair)
  have still : e.job.inFlight = false := (congrArg Job.inFlight job).trans idle
  rw [alone, Bool.false_and, if_neg Bool.false_ne_true, if_pos (state.trans pair)] at acts
  split at acts
  · rw [acts still]
    exact ⟨role, mem, job, .inl ⟨state.trans pair, rfl⟩⟩
  · obtain ⟨queues, slabs, out, pcie, ends⟩ := faultDetach_unpaired (d := (takeFree e).2) alone
    rw [ends] at acts
    rw [acts still]
    exact ⟨role, mem, job, .inr ⟨rfl, rfl, rfl⟩⟩

/-! ### Waits -/

theorem devTwinWaitTimeout_loses {page : Option Doorbell} (serves : serving d = true) (pair : d.twin.state = .paired)
    (waits : d.twin.unacked ≠ []) (idle : d.job.inFlight = false) : ∃ queues slabs out pcie, devTwinWaitTimeout page d =
      { dropTwin .lost d with queues := queues, slabs := slabs, out := out, pcie := pcie } := by
  obtain ⟨queues, slabs, out, pcie, lost⟩ := faultDetach_lost (mirrors_paired pair)
  have gone := (twinGone_paired pair).trans lost
  refine ⟨queues, slabs, out, pcie, ?_⟩
  rw [devTwinWaitTimeout, if_neg (by simp [serves, waits]), gone]
  exact progressDone_idle idle

/-- An attach that fails completes its descriptor and ends unpaired. -/
theorem attachFail_attaching (attaches : d.twin.state = .attaching) : attachFail d =
    dropTwin .unpaired (complete d.twin.cq codeBad 0x41 0 0 0 d.twin.tag d.job.number 0 d) := by
  rw [attachFail, show mirrors d = false by simp [Machine.mirrors, Machine.mirrorSide, attaches]]
  rfl

theorem devTwinHelloTimeout_fails (serves : serving d = true) (attaches : d.twin.state = .attaching)
    (silent : d.twin.peerHello = none) (none' : d.twin.left = 0) : devTwinHelloTimeout d = attachFail d :=
  if_pos (by simp [serves, attaches, silent, none'])

/-- Settles O58: records act by their kind once they are acknowledged, a DETACH by the state of the pair; waits end the pair or the attach. -/
theorem twinRecordsActAndWaitsExpire : Obligations.TwinRecordsActAndWaitsExpire := by
  refine ⟨fun s serves => ⟨fun h attaches waits => ?_, fun k h other => ?_, fun x syncs mode first fits => ?_,
    fun x y pair mode shadow page => ?_, fun x mirror mode secondary idle page => ?_, fun n items mirror idle => ?_,
    fun port f mirror whole flies step gen => ⟨?_, ?_⟩, fun idle page => ⟨fun state => ?_, fun mirror whole outside => ?_,
    fun pair => ?_⟩⟩, fun s serves pair waits idle page => ?_, fun s serves attaches silent none' outside posting own enabled room => ?_⟩
  · exact lift_of_eq (devHello_notes (d := entry s) serves attaches waits)
  · exact lift_of_eq (receiveTwin_stale (d := entry s) serves other)
  · have takes := devSync_takes (d := entry s) (x := x) serves syncs mode first
    have acked := acked_ackRecord (.sync x) (entry s)
    obtain ⟨job, role, -⟩ := acked.keeps
    generalize ackRecord (.sync x) (entry s) = e at acked takes job role
    have fits' : bytesOfUses (roleUses { e with role := x.role } x.role).eraseDups ≤ shadowSize e := by
      rw [acked]
      exact fits
    obtain ⟨synced, role', job', y, shadow, base, step, records, results⟩ := takeSync_shadow fits'
    exact ⟨_, y, lift_of_eq takes, synced, shadow, base, step, records, results, role'.trans role, job'.trans job⟩
  · have keeps := devResult_keeps (d := entry s) (x := x) (page := page) serves pair mode shadow
    dsimp only
    generalize ackRecord (.result x) (entry s) = e at keeps ⊢
    exact lift_of_eq keeps
  · have orders := devBoundary_orders (d := entry s) (x := x) (page := page) serves mirror mode secondary idle
    dsimp only
    generalize ackRecord (.boundary x) (entry s) = e at orders ⊢
    exact lift_of_eq orders
  · have notes := devOrder_notes (d := entry s) (n := n) (items := items) serves mirror idle
    dsimp only
    generalize ackRecord (.order n items) (entry s) = e at notes ⊢
    exact lift_of_eq notes
  · exact lift_of_eq (devForward_forwards (d := entry s) (result := false) serves mirror whole flies step gen |>.trans (if_neg Bool.false_ne_true))
  · exact lift_of_eq (devForward_forwards (d := entry s) (result := true) serves mirror whole flies step gen |>.trans (if_pos rfl))
  · have notes := devDetach_notes (d := entry s) (page := page) serves idle state
    dsimp only
    generalize ackRecord .detach (entry s) = e at notes ⊢
    exact lift_of_eq notes
  · have ends := devDetach_ends (d := entry s) (page := page) serves idle mirror whole outside
    obtain ⟨job, role, mem, -⟩ := (acked_ackRecord .detach (entry s)).keeps
    refine ⟨_, lift_of_eq ends, ?_⟩
    generalize ackRecord .detach (entry s) = e at job role mem
    exact ⟨rfl, rfl, role, mem, job⟩
  · obtain ⟨role, mem, job, state⟩ := devDetach_paired (d := entry s) (page := page) serves idle pair
    exact ⟨_, lift_of_eq rfl, role, mem, job, state⟩
  · obtain ⟨queues, slabs, out, pcie, loses⟩ := devTwinWaitTimeout_loses (d := entry s) (page := page) serves pair waits idle
    exact ⟨_, lift_of_eq loses, rfl, rfl, rfl, rfl, rfl, rfl⟩
  · have fails := (devTwinHelloTimeout_fails (d := entry s) serves attaches silent none').trans (attachFail_attaching attaches)
    have queues := complete_queues (d := entry s) (code := codeBad) (opcode := 0x41) (kind := 0) (xstatus := 0) (handle := 0)
      (tag := s.dev.twin.tag) (step := s.dev.job.number) (result := 0) own outside posting enabled room
    have queued := queued_complete s.dev.twin.cq codeBad 0x41 0 0 0 s.dev.twin.tag s.dev.job.number 0 (entry s)
    refine ⟨_, lift_of_eq fails, rfl, ?_⟩
    have out := congrArg Device.out queued
    have role := congrArg Device.role queued
    have job := congrArg Device.job queued
    have mem := congrArg Device.mem queued
    refine ⟨out, queues.trans ?_, role, job, mem⟩
    rw [pushPacket_queues (d := entry s) room, pushPacket_queues room]
    rfl

end Sys2Proof.Machine
end

section
/-!
PROOF. A tile runs and completes (R109, R144, R147).
-/
namespace Sys2Proof.Machine

variable {d : Device}

/-- The evaluation of a tile does not depend on what has been sent. -/
theorem evTile_out (c : Clause) (ss : List (List IssuedOp)) (i : Issue) (k : Nat) (out : List Emission) (d : Device) :
    evTile { d with out := out } c ss i k = evTile d c ss i k := rfl

theorem tileReads_eq {rs : List (Nat × Nat)} (none' : d.work.raced = []) :
    tileReads rs d = { d with work := { d.work with read := (tileReads rs d).work.read } } := by
  induction rs generalizing d with
  | nil => exact rfl
  | cons r rs ih =>
    have note := noteRead_eq r.1 r.2 d
    have none'' : (noteRead r.1 r.2 d).work.raced = [] := by
      rw [note]
      exact none'
    have first : tileReads (r :: rs) d = tileReads rs (noteRead r.1 r.2 d) := by
      rw [tileReads, List.foldl_cons, freeRaced_none none'']
      rfl
    have rest := ih none''
    rw [first]
    generalize tileReads rs (noteRead r.1 r.2 d) = e at rest ⊢
    rw [rest, note]

/-- Where no entry is triggered, a tile's output is only kept for the entries that it names. -/
theorem handTile_eq {named : List Nat} {bs : List (Nat × Nat × Byte)} (none' : trigTable d = []) :
    handTile named bs d = { d with fab := { d.fab with entries := (handTile named bs d).fab.entries } } := by
  have no (e : Nat) (d : Device) (none' : trigTable d = []) : trigOf d e = none := by rw [trigOf, none']; rfl
  have sends (e : Nat) (d : Device) (none' : trigTable d = []) : sendHanded e d = d := by rw [sendHanded, no e d none']
  induction named generalizing d with
  | nil => exact rfl
  | cons e named ih =>
    rw [handTile, List.foldl_cons]
    dsimp only
    generalize hr : EntryRun.mk .. = r
    have none'' : trigTable (setRun e r d) = [] := none'
    rw [no e _ none'', sends e _ none'']
    exact ih none''

theorem settle_handTile (named : List Nat) (bs : List (Nat × Nat × Byte)) (none' : trigTable d = []) :
    let t := settle (handTile named bs d)
    t.mem = d.mem ∧ t.freeCtr = d.freeCtr ∧ t.work = d.work ∧ t.role = d.role ∧ t.job = d.job ∧ t.queues = d.queues := by
  have handed := handTile_eq (named := named) (bs := bs) none'
  have bare : trigTable (handTile named bs d) = [] := by
    rw [handed]
    exact none'
  dsimp only
  rw [settle_none bare, serve_mem, serve_freeCtr, serve_work, serve_role, serve_job, serve_queues, handed]
  exact ⟨rfl, rfl, rfl, rfl, rfl, rfl⟩

/-- What the last tile of a clause leaves, and any other (R147). -/
theorem finishTile_leaves {x : CtxId} {ss : List (List IssuedOp)} {i : Issue} {k : Nat} {r : Run} (none' : trigTable d = []) :
    let t := finishTile x ss i k r d
    t.mem = d.mem ∧ t.freeCtr = d.freeCtr ∧ t.work.contexts = d.work.contexts.filter (fun h => h.ctx ≠ x) ∧
      t.work.counts = tileCounts i.clause r d.work.counts ∧ (i.completed.length + 1 = i.total → t.work.issue = none) ∧
      (i.completed.length + 1 ≠ i.total → t.work.issue.map (·.completed) = some (k :: i.completed)) ∧
      t.role = d.role ∧ t.job = d.job ∧ t.queues = d.queues := by
  unfold finishTile
  dsimp only
  generalize storeCell x _ _ _ = cells
  generalize List.flatMap _ _ = named
  generalize hw : Work.mk .. = w
  obtain ⟨mem, free, work, role, job, queues⟩ :=
    settle_handTile (d := { d with cellStore := cells, work := w }) named r.handed none'
  refine ⟨mem, free, ?_⟩
  rw [work]
  refine ⟨?_, ?_, fun last => ?_, fun more => ?_, role, job, queues⟩ <;> rw [← hw]
  · exact if_pos last
  · have other : ¬ (k :: i.completed).length = i.total := more
    dsimp only
    rw [if_neg other]
    rfl

/-- A tile that is ready and that meets no bad word runs (R109, R144). -/
theorem runTile_runs {kind : OpKind} {x : CtxId} {i : Issue} {c : Clause} {k : Nat} (runs : stepRuns d = true)
    (issue : d.work.issue = some i) (clause : (clausesOf d)[i.clause]? = some c)
    (holds : (d.work.contexts.find? (·.ctx = x)).bind (·.tile) = some k)
    (right : (((stageOps (issuedOps c i.bounds)).getD (tileAt (stageOps (issuedOps c i.bounds)) k).stage []).head?.map (·.op.kind))
      = some kind)
    (ready : tileReady (stageOps (issuedOps c i.bounds)) i (tileAt (stageOps (issuedOps c i.bounds)) k) = true)
    (takes : msuTakes (stageOps (issuedOps c i.bounds)) i x d = true) (residue : d.test.residue = none) {r : Run}
    (run : ((evTile d c (stageOps (issuedOps c i.bounds)) i k).run (startRun d.mem i.encoded d.freeCtr)).2 = r)
    (clean : r.events = []) (good : r.fault = false) : runTile kind x d =
      finishTile x (stageOps (issuedOps c i.bounds)) i k r (tileReads r.reads { d with mem := r.mem, freeCtr := r.free }) := by
  have clause' : issuedClause d = some c := by
    rw [issuedClause, issue]
    exact clause
  rw [runTile, issue, clause', holds]
  dsimp only
  rw [runs, decide_eq_true right, ready, takes, if_neg (by simp), if_neg (by simp [residue]), run, clean, good]
  rfl

/-- Settles O42: a tile's run leaves its memory, the reads are noted, and its context is free. -/
theorem tilesRun : Obligations.TilesRun := by
  intro s cmd kind x i c k kinds runs issue clause holds
  dsimp only
  intro right ready takes residue none' bare clean good
  generalize run : ((evTile s.dev c (stageOps (issuedOps c i.bounds)) i k).run (startRun s.dev.mem i.encoded s.dev.freeCtr)).2 = r
    at clean good ⊢
  have acts := runTile_runs (d := entry s) (kind := kind) (x := x) runs issue clause holds right ready takes residue run clean good
  have reads := tileReads_eq (d := { entry s with mem := r.mem, freeCtr := r.free }) (rs := r.reads) none'
  have leaves := finishTile_leaves (x := x) (ss := stageOps (issuedOps c i.bounds)) (i := i) (k := k) (r := r)
    (d := tileReads r.reads { entry s with mem := r.mem, freeCtr := r.free }) (by rw [reads]; exact bare)
  have step : exec (cmd x) s = lift (runTile kind x ∘ noteFound []) s := by
    rcases kinds with ⟨rfl, rfl⟩ | ⟨rfl, rfl⟩ | ⟨rfl, rfl⟩ | ⟨rfl, rfl⟩ | ⟨rfl, rfl⟩ | ⟨rfl, rfl⟩ <;> rfl
  refine ⟨_, step.trans (lift_of_eq ((congrArg (runTile kind x) (noteFound_nil _)).trans acts)), ?_⟩
  rw [reads] at leaves ⊢
  exact leaves

end Sys2Proof.Machine
end

section
/-!
PROOF. A clause is issued (R118, R125, R126, R199).
-/
namespace Sys2Proof.Machine

variable {d : Device}

/-! ### Reads of error-free memory that the host has not raced -/

theorem unitRead_clean (clean : ErrorFree d) (a n : Nat) : unitRead a n d = (readBytes d.mem.bytes a n, [], d) := by
  rw [unitRead, touchRange_clean d.mem a n clean.1 clean.2]

theorem unitReads_clean (clean : ErrorFree d) (rs : List (Nat × Nat)) (bs : List (List Byte)) :
    rs.foldl (fun acc x => (acc.1 ++ [(unitRead x.1 x.2 acc.2.2).1], acc.2.1 ++ (unitRead x.1 x.2 acc.2.2).2.1,
      (unitRead x.1 x.2 acc.2.2).2.2)) (bs, ([] : List MemEvent), d) =
    (bs ++ rs.map (fun x => readBytes d.mem.bytes x.1 x.2), [], d) := by
  induction rs generalizing bs with
  | nil => simp
  | cons r rs ih =>
    rw [List.foldl_cons]
    dsimp only
    rw [unitRead_clean clean]
    exact (ih _).trans (by simp)

theorem racedReads_none {rs : List ((Nat × Nat) × List Byte)} {bs : List (List Byte)} (none' : d.work.raced = []) :
    rs.foldl (fun acc x => (acc.1 ++ [(racedBytes x.1.1 x.2 acc.2).1], (racedBytes x.1.1 x.2 acc.2).2)) (bs, d) =
      (bs ++ rs.map (·.2), d) := by
  induction rs generalizing bs with
  | nil => simp
  | cons r rs ih =>
    rw [List.foldl_cons]
    dsimp only
    rw [racedBytes_none none']
    exact ih.trans (by simp)

theorem raced_tileReads {rs : List (Nat × Nat)} (none' : d.work.raced = []) : (tileReads rs d).work.raced = [] := by
  rw [tileReads_eq none']
  exact none'

theorem readAll_clean {rs : List (Nat × Nat)} (clean : ErrorFree d) (none' : d.work.raced = []) :
    readAll rs d = (rs.map (fun x => readBytes d.mem.bytes x.1 x.2), tileReads rs d) := by
  have reads := unitReads_clean clean rs []
  rw [readAll]
  dsimp only
  rw [reads]
  refine (racedReads_none (d := tileReads rs d) (raced_tileReads none')).trans ?_
  rw [List.nil_append, List.nil_append, List.map_snd_zip (by simp)]

/-! ### Bounds -/

theorem resolveBound_clean (clean : ErrorFree d) (none' : d.work.raced = []) (l : Loop) : (resolveBound l d).2 = ([], d) := by
  unfold resolveBound
  cases l.bound with
  | const v => rfl
  | reg n => rfl
  | mem a =>
    dsimp only
    split
    · rfl
    · rw [unitRead_clean clean]
      dsimp only
      rw [racedBound, none']
      rfl

theorem loopBounds_clean (clean : ErrorFree d) (none' : d.work.raced = []) (ls : List Loop) (bs : List (Nat × Bool))
    (es : List MemEvent) : (ls.foldl (fun x l => (x.1 ++ [(resolveBound l x.2.2).1], x.2.1 ++ (resolveBound l x.2.2).2.1,
      (resolveBound l x.2.2).2.2)) (bs, es, d)).2 = (es, d) := by
  induction ls generalizing bs with
  | nil => rfl
  | cons l ls ih =>
    rw [List.foldl_cons]
    dsimp only
    rw [resolveBound_clean clean none', List.append_nil]
    exact ih _

theorem opBounds_clean (clean : ErrorFree d) (none' : d.work.raced = []) (ops : List OpDesc) (bs : List (List (Nat × Bool))) :
    (ops.foldl (fun acc o =>
      let r := o.loops.foldl (fun x l => let y := resolveBound l x.2.2; (x.1 ++ [y.1], x.2.1 ++ y.2.1, y.2.2)) ([], acc.2.1, acc.2.2)
      (acc.1 ++ [r.1], r.2.1, r.2.2)) (bs, ([] : List MemEvent), d)).2 = ([], d) := by
  induction ops generalizing bs with
  | nil => rfl
  | cons o ops ih =>
    rw [List.foldl_cons]
    dsimp only
    rw [loopBounds_clean clean none' o.loops [] []]
    exact ih _

theorem resolveBounds_clean (clean : ErrorFree d) (none' : d.work.raced = []) (c : Clause) : (resolveBounds c d).2 = d := by
  rw [resolveBounds]
  dsimp only
  rw [opBounds_clean clean none']
  rfl

/-! ### Paged operands -/

/-- What stands beside a member of a list in the list of its images. -/
theorem find_zip_map {α : Type} (g : Nat → α) {as : List Nat} {a : Nat} (mem : a ∈ as) :
    (as.zip (as.map g)).find? (·.1 = a) = some (a, g a) := by
  rw [← List.map_prod_left_eq_zip, List.find?_map]
  have found : (as.find? fun b => decide (b = a)) = some a := by
    have some' : (as.find? fun b => decide (b = a)).isSome := List.find?_isSome.2 ⟨a, mem, by simp⟩
    obtain ⟨b, hb⟩ := Option.isSome_iff_exists.1 some'
    rw [hb, of_decide_eq_true (List.find?_some (p := fun b => decide (b = a)) hb)]
  exact congrArg (Option.map fun b => (b, g b)) found

/-- The page sets of paged operands are read once each, and each one's DH is the bound of its loop (R199). -/
theorem pagedBoundsOk_clean {xs : List IssuedOp} (clean : ErrorFree d) (none' : d.work.raced = [])
    (right : ∀ x ∈ xs, x.op.b.paged = true → rangeInMap x.op.b.base 64 = true ∧
      (setAt x.op.b.base (readBytes d.mem.bytes x.op.b.base 64)).map (·.dh) =
        some (boundFor x.bounds (if bitOf x.op.b.scaleBase 1 then .n else .k))) :
    ∃ rs, pagedBoundsOk xs d = (true, tileReads rs d) := by
  have inside : ((((xs.filter (·.op.b.paged)).map (·.op.b.base)).eraseDups).all fun a => rangeInMap a 64) = true := by
    rw [List.all_eq_true]
    intro a mem
    obtain ⟨x, mem', rfl⟩ := List.mem_map.1 (List.mem_eraseDups.1 mem)
    obtain ⟨mem'', paged⟩ := List.mem_filter.1 mem'
    exact (right x mem'' paged).1
  rw [pagedBoundsOk]
  dsimp only
  rw [if_neg (by simp [inside]), readAll_clean clean none', List.map_map]
  refine ⟨_, Prod.ext ?_ rfl⟩
  dsimp only
  rw [List.all_eq_true]
  intro x mem
  obtain ⟨mem', paged⟩ := List.mem_filter.1 mem
  have set' := find_zip_map (fun a => readBytes d.mem.bytes a 64) (List.mem_eraseDups.2 (List.mem_map_of_mem (f := (·.op.b.base)) mem))
  obtain ⟨s, parsed, dh⟩ := Option.map_eq_some_iff.1 (right x mem' paged).2
  rw [show ((fun x : Nat × Nat => readBytes d.mem.bytes x.1 x.2) ∘ fun a => (a, 64)) = fun a => readBytes d.mem.bytes a 64 from rfl,
    set', Option.bind_some, parsed]
  exact decide_eq_true dh

/-! ### The clause -/

theorem installClause_bare {c : Clause} {bounds : List (List Nat)} (bare : trigTable d = []) :
    let total := clauseTiles (stageOps (issuedOps c bounds))
    let t := installClause c bounds d
    t.work.nextClause = d.work.nextClause + 1 ∧ t.work.epoch = (d.work.epoch + 1) % 2 ^ 32 ∧
      t.work.counters = installAll d c.cls total ((d.work.epoch + 1) % 2 ^ 32) ∧ t.work.contexts = [] ∧
      (total = 0 → t.work.issue = none) ∧
      (total ≠ 0 → t.work.issue = some {
        clause := d.work.nextClause, bounds := bounds, total := total, completed := []
        written := d.work.written, wrote := [], encoded := [] }) ∧ t.mem = d.mem ∧ t.role = d.role := by
  unfold installClause
  dsimp only
  generalize clauseTiles _ = total
  generalize hw : Work.mk .. = w
  have bare' : trigTable { d with work := w } = [] := bare
  rw [settle_none bare', serve_work, serve_mem, serve_role, ← hw]
  exact ⟨rfl, rfl, rfl, rfl, fun none' => if_pos none', fun some' => if_neg some', rfl, rfl⟩

/-- A clause whose bounds and page sets are good is installed. -/
theorem devClauseIssue_installs {c : Clause} (may : mayIssue d = true) (next : (clausesOf d)[d.work.nextClause]? = some c)
    (clean : ErrorFree d) (none' : d.work.raced = []) {bounds : List (List Nat)}
    (read : ((resolveBounds c d).1.map fun bs => bs.map (·.1)) = bounds)
    (good : ∀ b ∈ (resolveBounds c d).1.flatten, b.2 = true ∧ b.1 ≤ boundMax)
    (ok : issueOk (stageOps (issuedOps c bounds)) = true)
    (right : ∀ x ∈ (stageOps (issuedOps c bounds)).flatten, x.op.b.paged = true → rangeInMap x.op.b.base 64 = true ∧
      (setAt x.op.b.base (readBytes d.mem.bytes x.op.b.base 64)).map (·.dh) =
        some (boundFor x.bounds (if bitOf x.op.b.scaleBase 1 then .n else .k))) :
    ∃ rs, devClauseIssue d = installClause c bounds (tileReads rs d) := by
  have runs : stepRuns d = true := by
    simp only [mayIssue, Bool.and_eq_true] at may
    exact may.1.1.1.1
  have good' : ((resolveBounds c d).1.flatten.all fun b => b.2 && b.1 ≤ boundMax) = true := by
    rw [List.all_eq_true]
    intro b mem
    simp [good b mem]
  obtain ⟨rs, paged⟩ := pagedBoundsOk_clean clean none' right
  have runs' : stepRuns (tileReads rs d) = true := by
    rw [tileReads_eq none']
    exact runs
  refine ⟨rs, ?_⟩
  rw [devClauseIssue, if_neg (by simp [may]), next]
  dsimp only
  rw [resolveBounds_clean clean none', if_neg (by simp [runs]), read, good', ok, if_pos (by rfl), paged, if_neg (by simp [runs']),
    if_pos rfl]

/-- Settles O39: error-free reads leave the device but for the note of what was read, and the clause is installed on it. -/
theorem clauseIssues : Obligations.ClauseIssues := by
  intro s c may next clean none' bare
  dsimp only
  intro good ok right
  obtain ⟨rs, installs⟩ := devClauseIssue_installs (d := entry s) may next clean none' rfl good ok right
  have reads := tileReads_eq (d := entry s) (rs := rs) none'
  generalize ((resolveBounds c (entry s)).1.map fun bs => bs.map (·.1)) = bounds at installs ⊢
  have leaves := installClause_bare (d := tileReads rs (entry s)) (c := c) (bounds := bounds) (by rw [reads]; exact bare)
  refine ⟨_, lift_of_eq ((congrArg devClauseIssue (noteFound_nil _)).trans installs), ?_⟩
  rw [reads] at leaves ⊢
  exact leaves

end Sys2Proof.Machine
end

section
/-!
PROOF. A step begins (R29).
-/
namespace Sys2Proof.Machine

variable {d : Device}

/-! ### Composing a step allocates nothing -/

/-- A draft that gives no pages stays on its device. -/
def OnDevice (d : Device) (x : Draft) : Prop := x.dev = d ∧ x.gives = false

theorem pagesFor_onDevice {q : Request} {n m : Nat} {x : Draft} {e : Device} (on : OnDevice d x) (held : pagesFor q n m x = some e) :
    e = d := by
  rw [pagesFor, on.2, if_neg Bool.false_ne_true, whenOk] at held
  split at held
  · exact (Option.some.inj held).symm.trans on.1
  · cases held

theorem largestChunk_onDevice {q : Request} {want : Nat} {mk : Nat → Placement} {n m : Nat → Nat} {x y : Draft} (on : OnDevice d x)
    (placed : largestChunk q want mk n m x = some y) : OnDevice d y := by
  unfold largestChunk at placed
  split at placed
  · cases placed
  · obtain ⟨c, -, fits⟩ := List.exists_of_findSome?_eq_some placed
    split at fits
    · cases fits
    · dsimp only at fits
      split at fits
      · obtain ⟨e, held, rfl⟩ := Option.map_eq_some_iff.1 fits
        exact ⟨pagesFor_onDevice on held, on.2⟩
      · cases fits

theorem placeDecode_onDevice {q : Request} {x y : Draft} (on : OnDevice d x) (placed : placeDecode q x = some y) : OnDevice d y := by
  unfold placeDecode at placed
  dsimp only at placed
  split at placed
  · obtain ⟨e, held, rfl⟩ := Option.map_eq_some_iff.1 placed
    exact ⟨pagesFor_onDevice on held, on.2⟩
  · cases placed

theorem placeOne_onDevice {limit : Option Nat} {q : Request} {x y : Draft} (on : OnDevice d x) (placed : placeOne limit q x = some y) :
    OnDevice d y := by
  unfold placeOne at placed
  split at placed
  · exact placeDecode_onDevice on placed
  · exact largestChunk_onDevice on placed

theorem getD_onDevice {x : Draft} {o : Option Draft} (on : OnDevice d x) (placed : ∀ y, o = some y → OnDevice d y) :
    OnDevice d (o.getD x) := by
  cases o with
  | none => exact on
  | some y => exact placed y rfl

theorem placeDraftChunk_onDevice {limit : Option Nat} {q : Request} {x : Draft} (on : OnDevice d x) :
    OnDevice d (placeDraftChunk limit q x) := by
  unfold placeDraftChunk
  dsimp only
  split
  · exact on
  · exact getD_onDevice on fun _ placed => largestChunk_onDevice on placed

theorem composeList_onDevice {limit : Option Nat} {qs : List Request} {x : Draft} (on : OnDevice d x) :
    OnDevice d (composeList limit qs x) := by
  induction qs generalizing x with
  | nil => exact on
  | cons q qs ih => exact ih (placeDraftChunk_onDevice (getD_onDevice on fun _ placed => placeOne_onDevice on placed))

theorem composeNow_dev (d : Device) : (composeNow false d).dev = d := (composeList_onDevice ⟨rfl, rfl⟩).1

/-- From `a` to `b` nothing has changed but what the step collects and the pool's counts. -/
def Composed (a b : Device) : Prop := b = { a with
  role := { a.role with col := b.role.col }, poolD := b.poolD, poolLast := b.poolLast }

theorem composed_adoptDraft (x : Draft) : Composed x.dev (adoptDraft x) := rfl

/-- A device that neither replays nor mirrors composes its step itself. -/
theorem composition_own (own : d.hif.log.mode ≠ 2) (alone : mirrors d = false) : composition d = adoptDraft (composeNow false d) := by
  rw [composition, nextEntry, if_neg own]
  cases d.twin.mirrorStart with
  | none => rfl
  | some m => exact if_neg (by simp [alone])

theorem composed_composition (own : d.hif.log.mode ≠ 2) (alone : mirrors d = false) : Composed d (composition d) := by
  have composed := composed_adoptDraft (composeNow false d)
  rw [composeNow_dev] at composed
  rwa [composition_own own alone]

/-! ### Particles of the start -/

theorem particles_orderStep (d : Device) : Particles d (orderStep d) := by
  unfold orderStep
  split
  · exact particles_sendMembers _ _
  · rfl

theorem tellMirror_unpaired (single : d.twin.state = .unpaired) : tellMirror d = d := by
  rw [tellMirror, if_neg (by simp [sendsRecords, single]), if_neg (by simp [mirrors_unpaired single])]

/-! ### The plan's contents -/

/-- The plan's bytes are written to error-free memory. -/
theorem planWrites_clean {plan : List PlanWrite} (clean : ErrorFree d) (none' : d.work.raced = [])
    (inside : ∀ w ∈ plan, rangeInMap w.addr w.bytes.length = true) : ∃ past,
      plan.foldl (fun d w => workWrite w.addr w.bytes d) d = { d with
        mem := { d.mem with bytes := plan.foldl (fun m w => writeBytes m w.addr w.bytes) d.mem.bytes }
        work := { d.work with past := past } } := by
  induction plan generalizing d with
  | nil => exact ⟨d.work.past, rfl⟩
  | cons w plan ih =>
    have first := workWrite_clean (inside w List.mem_cons_self) clean none'
    rw [List.foldl_cons, List.foldl_cons, first]
    exact ih clean none' fun v mem => inside v (List.mem_cons_of_mem _ mem)

/-- The work that a step begins with: nothing issued, and no clause left where nothing was placed. -/
theorem loadTables_work (d : Device) : (loadTables d).work.issue = none ∧ (loadTables d).work.contexts = [] ∧
    (loadTables d).work.raced = d.work.raced ∧
    (loadTables d).work.nextClause = if d.role.col.placements.isEmpty then (clausesOf d).length else 0 := by
  rw [loadTables]
  cases d.role.col.placements.isEmpty with
  | true => exact ⟨rfl, rfl, rfl, rfl⟩
  | false => exact ⟨rfl, rfl, rfl, rfl⟩

/-- The tables of a step are loaded and its plan's bytes written. -/
theorem beginRun_loads {plan : List PlanWrite} {rows : List (Nat × Nat)} (clean : ErrorFree d) (none' : d.work.raced = [])
    (bare : trigTable d = []) (inside : ∀ w ∈ plan, rangeInMap w.addr w.bytes.length = true) :
    let t := beginRun plan rows d
    t.job = d.job ∧ t.role.col.placements = d.role.col.placements ∧ t.work.issue = none ∧ t.work.contexts = [] ∧
      t.work.nextClause = (if d.role.col.placements.isEmpty then (clausesOf d).length else 0) ∧ t.fab.counters = [(0, 1)] ∧
      t.mem.bytes = plan.foldl (fun m w => writeBytes m w.addr w.bytes) d.mem.bytes := by
  obtain ⟨issue, contexts, raced, next⟩ := loadTables_work (updateCol (fun c => { c with rowOf := rowsNamed d rows }) d)
  generalize start : loadTables (updateCol (fun c => { c with rowOf := rowsNamed d rows }) d) = e at issue contexts raced next
  have mem : e.mem = d.mem := by rw [← start]; rfl
  have clean' : ErrorFree e := by rw [ErrorFree, mem]; exact clean
  have bare' : trigTable e = [] := by rw [← start]; exact bare
  obtain ⟨past, writes⟩ := planWrites_clean clean' (raced.trans none') inside
  have bare'' : trigTable (plan.foldl (fun d w => workWrite w.addr w.bytes d) e) = [] := by rw [writes]; exact bare'
  rw [beginRun]
  dsimp only
  rw [start, settle_none bare'', serve_job, serve_role, serve_work, serve_fab_counters, serve_mem, writes]
  refine ⟨?_, ?_, issue, contexts, next, ?_, ?_⟩
  · rw [← start]; rfl
  · rw [← start]; rfl
  · rw [← start]; rfl
  · dsimp only
    rw [mem]

/-- The composed device with its step in flight, before anyone is told. -/
def flying (x : Device) : Device := { x with
  bnd := { x.bnd with entry := [] }
  work := { x.work with sentCrcs := [], raced := [], copied := [], past := [], read := [] }
  job := { x.job with
    inFlight := true, localDone := false, doneSent := false, doneFrom := [], faulted := false, aborted := false } }

/-- The composed device once the other members and the mirror have been told. -/
def startTold (x : Device) : Device :=
  { tellMirror (orderStep (flying x)) with job := { (tellMirror (orderStep (flying x))).job with startOrdered := false } }

theorem startTold_eq {x : Device} (single : x.twin.state = .unpaired) : ∃ out fab, startTold x =
    { flying x with out := out, fab := fab, job := { (flying x).job with startOrdered := false } } := by
  have told := particles_orderStep (flying x)
  have twin : (orderStep (flying x)).twin.state = .unpaired := by
    rw [told]
    exact single
  rw [startTold, tellMirror_unpaired twin, told]
  exact ⟨_, _, rfl⟩

/-- A device that composes its own step begins it as soon as the others are told. -/
theorem beginStep_own {plan : List PlanWrite} {rows : List (Nat × Nat)} (own : d.hif.log.mode ≠ 2) (home : d.onTaken = false)
    (ok : planOk plan rows (composition d) = true) (whole : (startTold (composition d)).job.scrubFault = false) :
    beginStep plan rows d = beginRun plan rows (startTold (composition d)) := by
  have next : nextEntry d = none := if_neg own
  rw [beginStep, leadingWaiting, next]
  dsimp only [List.foldl_nil, Option.getD_none]
  rw [toOwn_own home]
  exact (if_neg (by simp [ok])).trans (if_neg (by rw [Bool.not_eq_true]; exact whole))

/-- Settles O38: a step is composed without an allocation, the others are told, and its tables are loaded. -/
theorem stepBegins : Obligations.StepBegins := by
  intro s plan rows may single taken home own whole
  dsimp only
  intro ok clean bare inside
  have composed := composed_composition (d := entry s) own (mirrors_unpaired single)
  have job : (composition (entry s)).job = s.dev.job := by rw [composed]; rfl
  have twin : (composition (entry s)).twin = s.dev.twin := by rw [composed]; rfl
  obtain ⟨out, fab, told⟩ := startTold_eq (x := composition (entry s)) ((congrArg Twin.state twin).trans single)
  have begins := beginStep_own (d := entry s) (plan := plan) (rows := rows) own home ok (by
    rw [told]
    exact (congrArg Job.scrubFault job).trans whole)
  have second : secondRun (entry s) = false := by simp [secondRun, Sys2Proof.entry, taken]
  have acts : devStepBegin plan rows (entry s) = beginRun plan rows (startTold (composition (entry s))) := by
    rw [devStepBegin, second, if_neg Bool.false_ne_true, ← begins]
    exact if_pos may
  generalize composition (entry s) = x at ok clean bare job told acts ⊢
  obtain ⟨job', placements, issue, contexts, next, counters, bytes⟩ := beginRun_loads (d := startTold x) (plan := plan) (rows := rows)
    (by rw [told]; exact clean) (by rw [told]; rfl) (by rw [told]; exact bare) inside
  refine ⟨_, lift_of_eq acts, ?_⟩
  dsimp only
  rw [job', placements, issue, contexts, next, counters, bytes, told]
  have number : x.job.number = s.dev.job.number := by rw [job]
  exact ⟨rfl, number, rfl, rfl, rfl, rfl, rfl, rfl, rfl, rfl⟩

end Sys2Proof.Machine
end
